-- ==== Sys2Proof/Word.lean ====
section
/-! DEFINITION. The word types of the PT-416 model and the shape of its indexed storage. -/

namespace Sys2Proof

/-- One byte of a link frame or of record memory. -/
abbrev Byte := BitVec 8

/-- A 16-bit field: check words, lengths, the billing period. -/
abbrev Word16 := BitVec 16

/-- A 32-bit field that wraps: counts, frame counts, cycle numbers, sequence numbers. -/
abbrev Word32 := BitVec 32

/-- A set of zones, bit n standing for zone n (12_formats.md, "Enumerated fields"). -/
abbrev ZoneSet := BitVec 16

/-- Sparse storage by number: the listed keys rise strictly, and an unlisted key reads as the default of its reader. -/
abbrev Table (α : Type) := List (Nat × α)

end Sys2Proof
end

