-- ==== Sys2Proof/Config.lean ====
section
/-! DEFINITION. What the manual fixes for every PT-416, and the constants of manufacture it leaves open. -/

namespace Sys2Proof.Config

/-- Subscriber records in record memory (R24). -/
def subscribers : Nat := 262144
/-- Body slots of the Message Store (R1). -/
def bodySlots : Nat := 4096
/-- Entries of the Message Store (R2). -/
def entrySlots : Nat := 16384
/-- Groups of the group table (R12). -/
def groups : Nat := 1024
/-- Slots of the member pool (R12). -/
def memberPool : Nat := 16384
/-- Live entries one subscriber may have (R8, check 7). -/
def subscriberLimit : Nat := 32
/-- Zones, each with its own link (R83). -/
def zones : Nat := 16
/-- Payload blocks of one zone in one frame (R70). -/
def blocksPerZone : Nat := 64
/-- Places of the posted-request queue (R30). -/
def requestPlaces : Nat := 128
/-- Places of the miss list (R35). -/
def missPlaces : Nat := 4
/-- Cache lines, 256 sets of two ways (R29). -/
def cacheLines : Nat := 512
/-- Places of the order input queue (R160). -/
def orderPlaces : Nat := 32
/-- Reply places (R162). -/
def replyPlaces : Nat := 64
/-- Places of the notice queue (R163). -/
def noticePlaces : Nat := 256
/-- Places of the reverse item queue (R93). -/
def reversePlaces : Nat := 64
/-- Places of the billing log (R135). -/
def logPlaces : Nat := 1024
/-- Records held at which LOG_HIGH is sent (R139). -/
def logHigh : Nat := 768
/-- The longest body of a link frame (12.1). -/
def maxBody : Nat := 508
/-- The largest address base (R26). -/
def maxAddressBase : Nat := 16515072
/-- The largest 32-bit quantity, where balances and sums saturate (00_scope.md, Money). -/
def max32 : Nat := 4294967295
/-- The largest 16-bit quantity, where period messages saturate (R25). -/
def max16 : Nat := 65535
/-- The lowest line rate the pins select, in bit/s (R157, R83). -/
def minRate : Nat := 115200
/-- The highest line rate the pins select, in bit/s (R157, R83). -/
def maxRate : Nat := 3000000

/-- The vendor code of the identity (R165). The manual gives no value: free (log 7). -/
opaque vendorCode : Nat
/-- The part code of the identity (R165). The manual gives no value: free (log 7). -/
opaque partCode : Nat
/-- The revision, 0..255, set at manufacture (R165). The manual gives no value: free (log 7). -/
opaque revision : Byte

end Sys2Proof.Config
end

