-- ==== Sys2Proof/Syntax.lean ====
section
/-! DEFINITION. The commands of the PT-416: one constructor per row of spec/opcode_table.json. Orders carry no operand: a
unit takes the oldest order of its own from the order input queue, and the order's fields are in the frame that HOST_FRAME
brought (log 3). Events carry what their line or port brings. -/

namespace Sys2Proof

/-- A zone frame as received whole or up to its discard (R83): LENGTH, KIND, TAG, BODY and CHECK. -/
structure ZoneFrameIn where
  length : Word16
  kind : Byte
  tag : Byte
  body : List Byte
  check : Word16
deriving DecidableEq, Repr

/-- The 77 rows of the table of operations and events. -/
inductive Instr where
  /-- POWER_ON (R167): the rate pins as sampled for the host link and for the zone links. -/
  | powerOn (hostRate zoneRate : Nat)
  /-- SUBMIT (R6). -/
  | submit
  /-- INTAKE_READ_SERVED (R8). -/
  | intakeReadServed
  /-- SUBMIT_GROUP (R14). -/
  | submitGroup
  /-- GROUP_MEMBER_READ_SERVED (R15). -/
  | groupMemberReadServed
  /-- CANCEL (R21). -/
  | cancel
  /-- CANCEL_REQUEST (R21). -/
  | cancelRequest
  /-- SET_ADMISSION (R18). -/
  | setAdmission
  /-- QUERY_MESSAGE (R23). -/
  | queryMessage
  /-- GROUP_SET (R12). -/
  | groupSet
  /-- GROUP_READ (R13). -/
  | groupRead
  /-- READ_SUB (R42). -/
  | readSub
  /-- READ_SUB_SERVED (R42): the subscriber whose READ_SUB reaches its turn. -/
  | readSubServed (sub : Nat)
  /-- HOST_READ_DONE (R42). -/
  | hostReadDone
  /-- WRITE_SUB (R43). -/
  | writeSub
  /-- WRITE_SUB_READ_DONE (R43). -/
  | writeSubReadDone
  /-- REPAIR_SUB (R44). -/
  | repairSub
  /-- HOST_WRITE_DONE (R43). -/
  | hostWriteDone
  /-- INIT_RECORDS (R45). -/
  | initRecords
  /-- INIT_RECORD_WRITE (R45). -/
  | initRecordWrite
  /-- INIT_RECORDS_DONE (R45). -/
  | initRecordsDone
  /-- FLUSH (R46). -/
  | flush
  /-- FLUSH_VISIT (R46). -/
  | flushVisit
  /-- FLUSH_DONE (R46). -/
  | flushDone
  /-- SET_CACHE (R41). -/
  | setCache
  /-- SET_ADDRESS_BASE (R26). -/
  | setAddressBase
  /-- FILL_DONE (R37). -/
  | fillDone
  /-- CASTOUT_DONE (R36). -/
  | castoutDone
  /-- WRITE_BACK_DONE (R40). -/
  | writeBackDone
  /-- THROUGH_WRITE_DONE (R39). -/
  | throughWriteDone
  /-- SET_TIMING (R57). -/
  | setTiming
  /-- FRAME_START (R52). -/
  | frameStart
  /-- STROBE (R51): the time since the last frame start, in half milliseconds (R48). -/
  | strobe (elapsed : Nat)
  /-- STROBE_LOSS (R59). -/
  | strobeLoss
  /-- CYCLE_TURN (R54). -/
  | cycleTurn
  /-- TAKEN (R87): the link it came on and its body. -/
  | taken (link : Nat) (body : List Byte)
  /-- REJECT (R87): the link it came on and its body. -/
  | reject (link : Nat) (body : List Byte)
  /-- STATE (R90): the link it came on and its body. -/
  | stateReport (link : Nat) (body : List Byte)
  /-- WINDOW (R91): the link it came on and its body. -/
  | window (link : Nat) (body : List Byte)
  /-- ZONE_BAD_FRAME (R84): the link it came on and the frame. -/
  | zoneBadFrame (link : Nat) (frame : ZoneFrameIn)
  /-- ZONE_GAP_TIMEOUT (R83): the link, and the KIND byte if it had arrived. -/
  | zoneGapTimeout (link : Nat) (kind : Option Byte)
  /-- ACK (R100). -/
  | ack
  /-- REGISTER (R103). -/
  | register
  /-- DEADLINE_MISS (R104). -/
  | deadlineMiss
  /-- REACH_READ_ANSWER (R107). -/
  | reachReadAnswer
  /-- SET_POLICY (R112). -/
  | setPolicy
  /-- SET_REACH (R113). -/
  | setReach
  /-- PLAN_SET (R118). -/
  | planSet
  /-- PLAN_READ (R119). -/
  | planRead
  /-- CLOSE_PERIOD (R120). -/
  | closePeriod
  /-- TOP_UP (R133). -/
  | topUp
  /-- TOP_UP_READ_SERVED (R133). -/
  | topUpReadServed
  /-- ADJUST (R134). -/
  | adjust
  /-- ADJUST_READ_SERVED (R134). -/
  | adjustReadServed
  /-- SETTLEMENT (R126). -/
  | settlement
  /-- COLLECT (R140). -/
  | collect
  /-- SET_NOTICES (R145). -/
  | setNotices
  /-- SET_ZONE (R148). -/
  | setZone
  /-- ZONE_RESTORE (R149). -/
  | zoneRestore
  /-- SET_FAULT_HANDLING (R153). -/
  | setFaultHandling
  /-- CLEAR_FAULTS (R155). -/
  | clearFaults
  /-- READ_FAULTS (R156). -/
  | readFaults
  /-- UNTAKEN (R151): the zone whose run reached T. -/
  | untaken (zone : Nat)
  /-- REV_SILENT (R152): the zone whose silence count reached S. -/
  | revSilent (zone : Nat)
  /-- STATUS (R165). -/
  | status
  /-- START (R168). -/
  | start
  /-- RESTART (R169). -/
  | restart
  /-- RESTART_DRAIN_DONE (R170). -/
  | restartDrainDone
  /-- RESTART_COMPLETE (R170). -/
  | restartComplete
  /-- HOST_FRAME (R157): KIND, TAG, BODY and CHECK as received; LENGTH is the number of body bytes. -/
  | hostFrame (kind tag : Byte) (body : List Byte) (check : Word16)
  /-- HOST_GAP_TIMEOUT (R158). -/
  | hostGapTimeout
  /-- LINK_RESET (R159). -/
  | linkReset
  /-- BREAK_END (R159). -/
  | breakEnd
  /-- FRAME_SENT (R164). -/
  | frameSent
  /-- HOST_SYNC (R157). -/
  | hostSync
  /-- HOST_LINE_ERROR (R158). -/
  | hostLineError
  /-- HOST_LENGTH_DISCARD (R158): the LENGTH received. -/
  | hostLengthDiscard (length : Word16)
deriving DecidableEq, Repr

end Sys2Proof
end

