-- ==== Sys2Proof/WellFormed.lean ====
section
/-! DEFINITION. Which commands a PT-416's lines, pins and ports can bring. A command outside these bounds names no event;
the machine refuses it by name (log 35). -/

namespace Sys2Proof.Instr

/-- A zone frame is received with a body of as many bytes as its LENGTH names, or is cut off at a LENGTH above 508 (R83). -/
def zoneFrameFits (f : ZoneFrameIn) : Bool :=
  decide (Config.maxBody < f.length.toNat) || decide (f.body.length = f.length.toNat)

/-- A line rate the pins can select (R157, R83). -/
def rateFits (rate : Nat) : Bool :=
  decide (Config.minRate ≤ rate) && decide (rate ≤ Config.maxRate)

/-- The operands lie where the command's line or port can put them. -/
def wellFormed : Instr → Bool
  | powerOn hostRate zoneRate => rateFits hostRate && rateFits zoneRate
  | readSubServed sub => decide (sub < Config.subscribers)
  | taken link body => decide (link < Config.zones) && decide (body.length ≤ Config.maxBody)
  | reject link body => decide (link < Config.zones) && decide (body.length ≤ Config.maxBody)
  | stateReport link body => decide (link < Config.zones) && decide (body.length ≤ Config.maxBody)
  | window link body => decide (link < Config.zones) && decide (body.length ≤ Config.maxBody)
  | zoneBadFrame link frame => decide (link < Config.zones) && zoneFrameFits frame
  | zoneGapTimeout link _ => decide (link < Config.zones)
  | untaken zone => decide (zone < Config.zones)
  | revSilent zone => decide (zone < Config.zones)
  | hostFrame _ _ body _ => decide (body.length ≤ Config.maxBody)
  | hostLengthDiscard length => decide (Config.maxBody < length.toNat)
  | submit | intakeReadServed | submitGroup | groupMemberReadServed | cancel | cancelRequest | setAdmission
  | queryMessage | groupSet | groupRead | readSub | hostReadDone | writeSub | writeSubReadDone | repairSub
  | hostWriteDone | initRecords | initRecordWrite | initRecordsDone | flush | flushVisit | flushDone | setCache
  | setAddressBase | fillDone | castoutDone | writeBackDone | throughWriteDone | setTiming | frameStart | strobe _
  | strobeLoss | cycleTurn | ack | register | deadlineMiss | reachReadAnswer | setPolicy | setReach | planSet
  | planRead | closePeriod | topUp | topUpReadServed | adjust | adjustReadServed | settlement | collect | setNotices
  | setZone | zoneRestore | setFaultHandling | clearFaults | readFaults | status | start | restart | restartDrainDone
  | restartComplete | hostGapTimeout | linkReset | breakEnd | frameSent | hostSync | hostLineError => true

end Sys2Proof.Instr
end

