-- ==== Sys2Proof/Machine/Types.lean ====
section
/-! DEFINITION. The named values, records, orders, replies, notices and zone frames of the PT-416, as the manual's tables give
them. Names and values only; what acts on them is in the files beside this one. -/

namespace Sys2Proof.Machine

/-! ### Named values -/

/-- Content encoding of a message (R1). -/
inductive Encoding where | tone | numeric | text
deriving DecidableEq, Repr

/-- Subscriber status (R24). -/
inductive SubStatus where | active | suspended | closed
deriving DecidableEq, Repr

/-- Account kind (R24). -/
inductive AccountKind where | postpaid | prepaid
deriving DecidableEq, Repr

/-- Pager capability (R24). -/
inductive Capability where | toneOnly | numeric | text
deriving DecidableEq, Repr

/-- Reply mode (R24). -/
inductive ReplyMode where | twoWay | oneWay
deriving DecidableEq, Repr

/-- State of a live entry (R3). -/
inductive EntryState where | held | queued | placed | offered | awaiting | retryWait | settling
deriving DecidableEq, Repr

/-- Outcome of an entry (R3). -/
inductive EntryOutcome where | delivered | unconfirmed | expiredRetries | expiredLifetime | cancelled | faulted
deriving DecidableEq, Repr

/-- State of a cache line (R29). -/
inductive LineState where | invalid | clean | dirty | filling | casting
deriving DecidableEq, Repr

/-- Write policy of the Record Cache (R39, R40). -/
inductive WritePolicy where | through | deferred | bounded
deriving DecidableEq, Repr

/-- Part state (R167). -/
inductive PartState where | config | running | restarting
deriving DecidableEq, Repr

/-- Timer state (R49). -/
inductive TimerState where | stopped | running | hold
deriving DecidableEq, Repr

/-- Frame source kind (R48). -/
inductive SourceKind where | internal | external
deriving DecidableEq, Repr

/-- Offer state of a zone's forward record (R85). -/
inductive OfferState where | idle | sent | taken | rejected
deriving DecidableEq, Repr

/-- Reference state of a zone (R85). -/
inductive ReferenceState where | unknown | locked | unlocked
deriving DecidableEq, Repr

/-- Zone state (R147). -/
inductive ZoneState where | unconfigured | inService | outOfService
deriving DecidableEq, Repr

/-- The five fault conditions (R147). -/
inductive Condition where | untaken | fwdFrameError | revFrameError | revSilent | refUnlock
deriving DecidableEq, Repr

/-- Severity of a condition (R153). -/
inductive Severity where | serviceLoss | advisory
deriving DecidableEq, Repr

/-- Head state of the settle list (R125). -/
inductive HeadState where | idle | bodyInSubmission | logRoom | record
deriving DecidableEq, Repr

/-- High mark of the billing log (R139). -/
inductive HighMark where | armed | sent
deriving DecidableEq, Repr

/-- Notice selection (R144). -/
inductive NoticeSelection where | all | failuresAndReplies | none
deriving DecidableEq, Repr

/-- State of the host receiver (R157). -/
inductive ReceiverState where | hunting | gathering
deriving DecidableEq, Repr

/-- What read a record that failed (R38, R42, R43). -/
inductive FaultSource where | fill | hostRead | hostWrite
deriving DecidableEq, Repr

/-- Kind of a reverse item (R93). -/
inductive ItemKind where | ack | register
deriving DecidableEq, Repr

/-- Where a READ_SUB was served from (R42). -/
inductive ReadSource where | line | memory
deriving DecidableEq, Repr

/-- The 32 orders, in the order of the order-set table (10.6). -/
inductive OrderKind where
  | submit | submitGroup | cancel | setAdmission | queryMessage | groupSet | groupRead | readSub | writeSub | repairSub
  | initRecords | flush | setCache | setAddressBase | setTiming | setPolicy | setReach | planSet | planRead | closePeriod
  | topUp | adjust | collect | setNotices | setZone | zoneRestore | setFaultHandling | clearFaults | readFaults | status
  | start | restart
deriving DecidableEq, Repr

/-- Who takes an order (10.6). STATUS is taken apart from START and RESTART by the Link Interface (R161). -/
inductive OrderOwner where
  | intake | store | cache | timer | retry | charging | log | monitor | linkStatus | linkState
deriving DecidableEq, Repr

/-- Reply codes, in the order of the table of R162. -/
inductive ReplyCode where
  | ok | busy | badFormat | badValue | unknownOrder | wrongState | subRefused | capability | subLimit | storeFull
  | noFunds | recordFault | pending | notFound | alreadyDone | faultSet | logFull
deriving DecidableEq, Repr

/-! ### The subscriber record -/

/-- The host-owned fields of a subscriber record (R24). -/
structure HostFields where
  status : SubStatus
  account : AccountKind
  plan : Nat
  capability : Capability
  mode : ReplyMode
  homeZone : Nat
deriving DecidableEq, Repr

/-- The 62 field bytes of a subscriber record, as fields (R24, R25, 12.3). -/
structure Record where
  host : HostFields
  lastZone : Option Nat
  airTag : BitVec 4
  misses : Nat
  unreachable : Bool
  exhausted : Bool
  live : Nat
  nextProbe : Word32
  balance : Nat
  reserved : Nat
  charges : Nat
  period : Word16
  messages : Nat
  allowanceUsed : Nat
deriving DecidableEq, Repr

/-- One cache line (R29). The defaults are the line after power-on; an INVALID or FILLING line's contents mean nothing. -/
structure Line where
  state : LineState := .invalid
  tag : Nat := 0
  deferral : Nat := 0
  record : Record :=
    { host := { status := .closed, account := .postpaid, plan := 0, capability := .toneOnly, mode := .oneWay, homeZone := 0 },
      lastZone := none, airTag := 0, misses := 0, unreachable := false, exhausted := false, live := 0, nextProbe := 0,
      balance := 0, reserved := 0, charges := 0, period := 0, messages := 0, allowanceUsed := 0 }
deriving DecidableEq, Repr

/-! ### Requests to the Record Cache and operations of the record memory port -/

/-- A posted update that may wait in the queue (R33). The closing updates are carried out at once and never wait. -/
inductive Update where
  /-- air tag drawn, and the next probe cycle of an UNREACHABLE subscriber (R70). -/
  | placement (tag : BitVec 4) (probe : Option Word32)
  /-- zone an item was heard in (R99). -/
  | reverseItem (zone : Nat)
  /-- one more consecutive miss, with U as in force when it was posted (R104). -/
  | deadlineMiss (limit : Nat)
deriving DecidableEq, Repr

/-- How far a READ_SUB has come: posted, joined to a fill, reading memory (R42). -/
inductive ReadPhase where | posted | joined | reading
deriving DecidableEq, Repr

/-- How far a host record write has come: waiting its turn, reading memory, writing memory (R43, R44). -/
inductive WritePhase where | waiting | reading | writing
deriving DecidableEq, Repr

/-- The kinds of request (R30). A place is the reply place of the order that posted it. -/
inductive RequestKind where
  | intakeRead
  | memberRead
  | settlementRead
  | topUpRead
  | adjustRead
  /-- the entry whose retry waits on it, named by number, admission sequence and attempts (log 30). -/
  | reachRead (entry : Nat) (admission : Word32) (attempts : Nat)
  | touch
  | update (u : Update)
  | readSub (place : Nat) (phase : ReadPhase)
  | writeSub (place : Nat) (fields : HostFields) (phase : WritePhase)
  | repairSub (place : Nat) (fields : HostFields) (balance : Nat) (phase : WritePhase)
deriving DecidableEq, Repr

/-- One request for one subscriber. It is behind a sweep when it was posted for a subscriber whose default record an INIT_RECORDS
in progress had still to write (R45). -/
structure Request where
  sub : Nat
  kind : RequestKind
  behindSweep : Bool := false
deriving DecidableEq, Repr

/-- Operations of the record memory port (R36). -/
inductive PortOp where
  | fill (sub way : Nat)
  | castout (sub : Nat) (record : Record)
  /-- a write-back, issued by a sweep or by an update (R40, R46). -/
  | writeBack (sub : Nat) (record : Record) (bySweep : Bool)
  | throughWrite (sub : Nat) (record : Record)
  | hostRead (sub : Nat)
  | hostWriteRead (sub : Nat)
  | hostWrite (sub : Nat) (record : Record)
  /-- a default record of INIT_RECORDS; `last` marks the write of the last index (R45). -/
  | initWrite (sub : Nat) (record : Record) (last : Bool)
deriving DecidableEq, Repr

/-- A fill in flight: one place of the miss list (R35). Its waiters are the queued requests for its subscriber. -/
structure Fill where
  sub : Nat
  way : Nat
deriving DecidableEq, Repr

/-- A sweep in progress (R45, R46, R170). -/
inductive Sweep where
  /-- a visit of the 512 lines for the FLUSH with this reply place, or for the restart when none. -/
  | lines (place : Option Nat) (next written outstanding : Nat)
  /-- INIT_RECORDS: the next index to write and the last. -/
  | records (place next last written : Nat)
deriving DecidableEq, Repr

/-! ### Messages, entries and groups -/

/-- A body slot that is not free (R1). Its length is the number of content bytes. -/
structure Body where
  message : Option Word32
  encoding : Encoding
  content : List Byte
  references : Nat
  inSubmission : Bool
deriving DecidableEq, Repr

/-- A live entry (R2). `downgraded` is the model's own mark (log 23). -/
structure Entry where
  sub : Nat
  body : Nat
  group : Option Nat
  originalLevel : Nat
  level : Nat
  admission : Word32
  admissionCycle : Word32
  expiryCycle : Word32
  maxAttempts : Nat
  repeats : Nat
  attempts : Nat := 0
  deferral : Nat := 0
  airTag : Option (BitVec 4) := none
  reservation : Nat
  blocks : Nat
  downgraded : Bool
  state : EntryState
  cancelRequested : Bool := false
  outcome : Option EntryOutcome := none
  replyCode : Option Nat := none
  takenSet : ZoneSet := 0
  retryAt : Option Word32 := none
deriving DecidableEq, Repr

/-- A FIFO free list (R4): the slots never yet taken, `next` up to `size`, stand before the returned ones (log 34). -/
structure FreeList where
  next : Nat
  size : Nat
  returned : List Nat
deriving DecidableEq, Repr

/-- A group list being built (R12). -/
structure UnfinishedList where
  total : Nat
  members : List Nat
deriving DecidableEq, Repr

/-- What a submission asks for, its content clamped (R7). -/
structure Submission where
  level : Nat
  encoding : Encoding
  content : List Byte
  blocks : Nat
  truncated : Bool
  substitutions : Nat
deriving DecidableEq, Repr

/-- The results of a group submission's members (R15, R17). `settling` counts those settled at filing (log 20). -/
structure MemberCounts where
  queued : Nat := 0
  held : Nat := 0
  retryWait : Nat := 0
  settling : Nat := 0
  downgraded : Nat := 0
  recordFault : Nat := 0
  subRefused : Nat := 0
  capability : Nat := 0
  subLimit : Nat := 0
  noFunds : Nat := 0
  notProcessed : Nat := 0
deriving DecidableEq, Repr

/-- A group submission in progress (R14): its first listed member is the one whose read is posted. -/
structure GroupOrder where
  place : Nat
  group : Nat
  body : Nat
  message : Submission
  members : List Nat
  counts : MemberCounts
deriving DecidableEq, Repr

/-- A CANCEL in progress (R21, R22): the entries whose cancel requests are on their way. -/
structure CancelOrder where
  place : Nat
  byMessage : Bool
  requests : List Nat
  cancelled : Nat := 0
  requested : Nat := 0
  settling : Nat := 0
deriving DecidableEq, Repr

/-- The Intake order in progress (R6). -/
inductive IntakeOrder where
  | submit (place sub : Nat) (message : Submission)
  | group (g : GroupOrder)
  | cancel (c : CancelOrder)
deriving DecidableEq, Repr

/-! ### Timing, frames and zones -/

/-- A frame source with its nominal frame duration in milliseconds (R48). -/
structure Source where
  kind : SourceKind
  nominal : Nat
deriving DecidableEq, Repr

/-- The three timing parameters (R48). -/
structure Timing where
  length : Nat
  ackDelay : Nat
  source : Source
deriving DecidableEq, Repr

/-- Staged timing values, each pending or not (R58); also the parameters a SET_TIMING names. -/
structure Staged where
  length : Option Nat := none
  ackDelay : Option Nat := none
  source : Option Source := none
deriving DecidableEq, Repr

/-- A placed entry of a frame (R63). -/
structure Placed where
  entry : Nat
  sub : Nat
  zones : ZoneSet
  size : Nat
  tag : BitVec 4
  mode : ReplyMode
deriving DecidableEq, Repr

/-- One subscriber's line of the tag tally (R63). -/
structure Tally where
  sub : Nat
  drawn : Nat
  last : BitVec 4
deriving DecidableEq, Repr

/-- A frame in hand (R63). Unlisted zones have block count 0. -/
structure Frame where
  launch : Word32
  number : Nat
  cycle : Word32
  placed : List Placed
  blocks : Table Nat
  tally : List Tally
deriving DecidableEq, Repr

/-- The offered frame and the zones its lists were handed to (R63). -/
structure OfferedFrame where
  frame : Frame
  handed : ZoneSet
deriving DecidableEq, Repr

/-- A QUEUED entry skipped for want of its record (R68), with the launch count of the frame that skipped it (log 29). -/
structure MissSkip where
  entry : Nat
  sub : Nat
  launch : Word32
deriving DecidableEq, Repr

/-- One page of an OFFER (R75, 12.6). -/
structure Page where
  address : Nat
  tag : BitVec 4
  encoding : Encoding
  content : List Byte
deriving DecidableEq, Repr

/-- A frame the part sends on a zone link (R84). -/
inductive ZoneFrameOut where
  | offer (launch : Word32) (number : Nat) (pages : List Page)
  | withdraw (launch : Word32)
deriving DecidableEq, Repr

/-- A reverse item in the queue (R93). -/
structure ReverseItem where
  kind : ItemKind
  sub : Nat
  tag : BitVec 4
  code : Nat
  zone : Nat
deriving DecidableEq, Repr

/-- The 16 counts of one zone link (R95). -/
structure ZoneLinkCounts where
  offersSent : Word32 := 0
  taken : Word32 := 0
  rejected : Word32 := 0
  noAnswer : Word32 := 0
  withdrawals : Word32 := 0
  late : Word32 := 0
  duplicate : Word32 := 0
  unmatched : Word32 := 0
  badForward : Word32 := 0
  badReverse : Word32 := 0
  unconfigured : Word32 := 0
  validReports : Word32 := 0
  itemsTaken : Word32 := 0
  foreign : Word32 := 0
  dropped : Word32 := 0
  configDiscard : Word32 := 0
deriving DecidableEq, Repr

/-- The forward record, last window frame count and counts of one zone (R85, R91, R95), with their power-on values. -/
structure ZoneLink where
  offer : OfferState := .idle
  launch : Option Word32 := none
  pages : Nat := 0
  reference : ReferenceState := .unknown
  lastWindow : Option Word32 := none
  counts : ZoneLinkCounts := {}
deriving DecidableEq, Repr

/-- A set of conditions, bits 0 to 4 in the order of SET_FAULT_HANDLING (12.2). -/
abbrev FaultSet := BitVec 5

/-- One value for each of the five conditions. -/
structure PerCondition (α : Type) where
  untaken : α
  fwdFrameError : α
  revFrameError : α
  revSilent : α
  refUnlock : α
deriving DecidableEq, Repr

/-- The settings of one condition (R153). -/
structure ConditionSetting where
  detect : Bool
  notice : Bool
  severity : Severity
deriving DecidableEq, Repr

/-- The fault handling settings (R153). -/
structure FaultSettings where
  conditions : PerCondition ConditionSetting
  untakenLimit : Nat
  silenceLimit : Nat
deriving DecidableEq, Repr

/-- The monitor's state of one zone (R147), with its power-on values. The two `due` marks are the model's own (log 13). -/
structure Zone where
  state : ZoneState := .unconfigured
  neighbours : ZoneSet := 0
  faults : FaultSet := 0
  untakenRun : Nat := 0
  silence : Nat := 0
  arrival : Bool := false
  occurrences : PerCondition Word32 := ⟨0, 0, 0, 0, 0⟩
  untakenDue : Bool := false
  silentDue : Bool := false
deriving DecidableEq, Repr

/-- The first-fault record, loaded (R147). -/
structure FirstFault where
  zone : Nat
  condition : Condition
  frameCount : Word32
deriving DecidableEq, Repr

/-! ### Retry -/

/-- An element of the await set (R96). `missed` is the model's own mark: its deadline-miss update is posted, and the entry waits for R105
while a full queue holds that update (R104, log 15). -/
structure AwaitElement where
  entry : Nat
  sub : Nat
  tag : BitVec 4
  launch : Word32
  deadline : Word32
  missed : Bool := false
deriving DecidableEq, Repr

/-- An element of the retry list (R96). -/
structure RetryElement where
  entry : Nat
  sub : Nat
  tag : Option (BitVec 4)
  retryAt : Word32
  missFrame : Option Word32
  reachPending : Bool
deriving DecidableEq, Repr

/-- One row of the retry policy table (R112). -/
structure PolicyRow where
  maxAttempts : Nat
  backoff : List Nat
  lifetime : Nat
  repeats : Nat
deriving DecidableEq, Repr

/-- What the Retry Unit may have still to act on: the reach read of a ONE_WAY entry that has joined the retry list, still to be posted
(R106, R110); a frame start (R104); a cycle turn (R109). -/
inductive RetryEvent where
  | reachRead (entry sub : Nat) (admission : Word32) (attempts : Nat)
  | frameStart (frameCount cycle : Word32)
  | cycleTurn (coming : Word32)
deriving DecidableEq, Repr

/-- An event the Retry Unit has still to act on. `behind` counts the reverse items still to be taken before it; `none` is an event that
found the unit free, and items may then be taken before it or after it (R100, R104). -/
structure Announced where
  event : RetryEvent
  behind : Option Nat
deriving DecidableEq, Repr

/-- The answer to a reach read on its way to the Retry Unit (R106): the record's reach fields, or RECORD_FAULT. -/
structure ReachAnswer where
  entry : Nat
  admission : Word32
  attempts : Nat
  unreachable : Bool
  nextProbe : Word32
  fault : Bool := false
deriving DecidableEq, Repr

/-! ### Charging and billing -/

/-- A tariff plan (R118). -/
structure Plan where
  base : Nat
  block : Nat
  retry : Nat
  priority : List Nat
  group : Nat
  expiry : Nat
  cap : Nat
  allowance : Nat
deriving DecidableEq, Repr

/-- The default plan (R117): it charges 0 for every outcome. -/
def defaultPlan : Plan :=
  { base := 0, block := 0, retry := 0, priority := [16, 16, 16, 16], group := 16, expiry := 0, cap := 16777215, allowance := 0 }

/-- The pending copy of a plan and its pending mark (R117). -/
structure PendingPlan where
  plan : Plan := defaultPlan
  mark : Bool := false
deriving DecidableEq, Repr

/-- An element of the settle list (R124). -/
structure SettleElement where
  entry : Nat
  outcomeCycle : Word32
deriving DecidableEq, Repr

/-- The Charging order that waits on its record (R133, R134). -/
inductive ChargingOrder where
  | topUp (place sub amount : Nat)
  | adjust (place sub : Nat) (amount : Int)
deriving DecidableEq, Repr

/-- A billing record (R138). -/
structure BillingRecord where
  sequence : Word32
  message : Word32
  sub : Nat
  group : Option Nat
  outcome : EntryOutcome
  replyCode : Nat
  attempts : Nat
  blocks : Nat
  level : Nat
  plan : Option Nat
  period : Word16
  charge : Nat
  deducted : Nat
  shortfall : Nat
  withinAllowance : Bool
  fault : Bool
  admissionCycle : Word32
  outcomeCycle : Word32
  takenSet : ZoneSet
deriving DecidableEq, Repr

/-! ### Orders, notices and replies -/

/-- An order in the order input queue (R161). `place` is the reply place set aside for it, until its unit takes it with that place (R162,
log 25). -/
structure Order where
  kind : OrderKind
  tag : Byte
  body : List Byte
  place : Option Nat := none
deriving DecidableEq, Repr

/-- An order taken and not yet answered: its reply place, and whether its reply is to be discarded (R162, R159). -/
structure TakenOrder where
  place : Nat
  kind : OrderKind
  tag : Byte
  marked : Bool := false
deriving DecidableEq, Repr

/-- What a notice carries after its number (R163). -/
inductive NoticeBody where
  | outcome (message : Word32) (entry sub : Nat) (group : Option Nat) (outcome : EntryOutcome)
      (replyCode attempts charge shortfall : Nat) (sequence : Word32)
  | fault (zone : Nat) (condition : Condition) (frameCount : Word32) (zoneState : ZoneState) (firstLoaded : Bool)
  | logHigh (held : Nat) (oldest newest : Word32) (setAside : Bool)
  | airHold (frameCount : Word32) (frameNumber : Nat) (cycle : Word32)
  | airResume (frameCount : Word32) (frameNumber : Nat) (cycle : Word32) (heldMs : Nat)
  | recordFault (sub : Nat) (source : FaultSource)
  | congestion (level occupancy effective : Nat)
deriving DecidableEq, Repr

/-- A notice (R163). -/
structure Notice where
  number : Word32
  body : NoticeBody
deriving DecidableEq, Repr

/-- The dropped counts of the seven notice kinds (R163). -/
structure NoticeCounts where
  outcome : Word32 := 0
  fault : Word32 := 0
  logHigh : Word32 := 0
  airHold : Word32 := 0
  airResume : Word32 := 0
  recordFault : Word32 := 0
  congestion : Word32 := 0
deriving DecidableEq, Repr

/-- The counts of the Link Interface (R166). -/
structure LinkCounts where
  goodFrames : Word32 := 0
  checkErrors : Word32 := 0
  gapDiscards : Word32 := 0
  lengthDiscards : Word32 := 0
  lineErrors : Word32 := 0
  linkResets : Word32 := 0
  accepted : Word32 := 0
  busy : Word32 := 0
  unknownOrder : Word32 := 0
  badFormat : Word32 := 0
  overruns : Word32 := 0
  repliesSent : Word32 := 0
  repliesDiscarded : Word32 := 0
  ordersDiscarded : Word32 := 0
  noticesSent : Word32 := 0
  noticesDiscarded : Word32 := 0
  dropped : NoticeCounts := {}
deriving DecidableEq, Repr

/-- The counts of the Record Cache (R47). -/
structure CacheCounts where
  fills : Word32 := 0
  fillFaults : Word32 := 0
  hostReadFaults : Word32 := 0
  discardedUpdates : Word32 := 0
  droppedTouches : Word32 := 0
  memoryWrites : Word32 := 0
deriving DecidableEq, Repr

/-- The counts of the Frame Assembler (R81). -/
structure AssemblyCounts where
  placements : Word32 := 0
  voidAttempts : Word32 := 0
  deferrals : Word32 := 0
  agings : Word32 := 0
  tagLimitSkips : Word32 := 0
  emptyMaskSkips : Word32 := 0
  missSkips : Word32 := 0
  displacements : Word32 := 0
  lifetimeExpiries : Word32 := 0
deriving DecidableEq, Repr

/-- The counts of the Retry Unit (R116). -/
structure RetryCounts where
  awaitMatches : Word32 := 0
  lateMatches : Word32 := 0
  strays : Word32 := 0
  registrations : Word32 := 0
  registerReleases : Word32 := 0
  misses : Word32 := 0
  retries : Word32 := 0
  repeats : Word32 := 0
  expiredRetries : Word32 := 0
  expiredLifetime : Word32 := 0
  unconfirmed : Word32 := 0
  releases : Word32 := 0
  reachFaults : Word32 := 0
deriving DecidableEq, Repr

/-- The counts of the Charging Unit (R132). -/
structure ChargingCounts where
  ended : Word32 := 0
  shortfalls : Word32 := 0
  faulted : Word32 := 0
  waitedLogRoom : Word32 := 0
  waitedSubmission : Word32 := 0
deriving DecidableEq, Repr

/-- The counts of the Billing Log (R146). -/
structure LogCounts where
  appended : Word32 := 0
  released : Word32 := 0
  returned : Word32 := 0
  refused : Word32 := 0
  highNotices : Word32 := 0
  outcomesOffered : Word32 := 0
  outcomesPassed : Word32 := 0
deriving DecidableEq, Repr

/-! ### Figures of STATUS (R165) and of the other replies -/

/-- The SUMMARY section (R165). -/
structure SummaryFigures where
  vendor : Nat
  part : Nat
  revision : Byte
  partState : PartState
  live : Nat
  freeBodies : Nat
  available : Nat
  setAside : Nat
  held : Nat
  queued : Nat
  awaiting : Nat
  retrying : Nat
  settling : Nat
  logged : Nat
  congestion : Nat
  hostLevel : Nat
  control : Bool
  effective : Nat
  timer : TimerState
  frameCount : Word32
  frameNumber : Nat
  cycle : Word32
  lengthInForce : Nat
  counts : LinkCounts
  strays : Word32
  foreign : Word32
  dropped : Word32
  nextAdmission : Word32
  nextSequence : Word32
  appended : Word32
  zoneStates : List ZoneState
  inService : ZoneSet
  faulted : ZoneSet
deriving DecidableEq, Repr

/-- The figures of a group submission in progress: its group and body slot, the level, encoding and content blocks asked for, the members
still to be processed, and what the others came to. Which figures stand for it is the model's choice (log 58). -/
structure GroupFigures where
  group : Nat
  body : Nat
  level : Nat
  encoding : Encoding
  blocks : Nat
  remaining : Nat
  counts : MemberCounts
deriving DecidableEq, Repr

/-- The STORE section (R4, R10, R12, R18, R165): chapter 1's figures and the group submission in progress. -/
structure StoreFigures where
  freeBodies : Nat
  freeEntries : Nat
  setAside : Nat
  occupancy : Nat
  congestion : Nat
  hostLevel : Nat
  control : Bool
  effective : Nat
  held : Nat
  nextMessage : Word32
  nextAdmission : Word32
  poolFree : Nat
  group : Option GroupFigures
deriving DecidableEq, Repr

/-- The CACHE section (R47). -/
structure CacheFigures where
  counts : CacheCounts
  invalid : Nat
  clean : Nat
  dirty : Nat
  filling : Nat
  casting : Nat
  queued : Nat
  misses : Nat
  policy : WritePolicy
  limit : Nat
  addressBase : Option Nat
deriving DecidableEq, Repr

/-- One frame in hand as STATUS reports it (R81). -/
structure FrameFigures where
  launch : Word32
  number : Nat
  placed : Nat
  blocks : List Nat
deriving DecidableEq, Repr

/-- The ASSEMBLY section (R81). -/
structure AssemblyFigures where
  counts : AssemblyCounts
  queued : Nat
  missSkipped : Nat
  openFrame : Option FrameFigures
  offeredFrame : Option FrameFigures
deriving DecidableEq, Repr

/-- The ZONE section (R95, R165). -/
structure ZoneFigures where
  link : ZoneLink
  zoneState : ZoneState
  inService : Bool
  faulted : Bool
  reverseQueued : Nat
  unattributed : Word32
deriving DecidableEq, Repr

/-- The RETRY section (R116). -/
structure RetryFigures where
  counts : RetryCounts
  awaiting : Nat
  retrying : Nat
  marked : Nat
  horizon : Word32
  policy : List PolicyRow
  missLimit : Nat
  probeInterval : Nat
deriving DecidableEq, Repr

/-- The CHARGING section (R132). -/
structure ChargingFigures where
  counts : ChargingCounts
  settling : Nat
  head : HeadState
  headEntry : Option Nat
  period : Word16
deriving DecidableEq, Repr

/-- The LOG section (R146). -/
structure LogFigures where
  counts : LogCounts
  held : Nat
  available : Nat
  setAside : Bool
  waiting : Bool
  nextSequence : Word32
  oldest : Word32
  newest : Word32
  lastReturned : Nat
  high : HighMark
  greatest : Nat
  selection : NoticeSelection
deriving DecidableEq, Repr

/-- The HOST section (R165, R166). -/
structure HostFigures where
  lineRate : Nat
  receiver : ReceiverState
  queued : Nat
  unanswered : Nat
  marked : Nat
  ready : Nat
  noticesQueued : Nat
  nextNotice : Word32
  counts : LinkCounts
deriving DecidableEq, Repr

/-- One entry in a QUERY_MESSAGE reply (R23). -/
structure EntrySummary where
  entry : Nat
  sub : Nat
  group : Option Nat
  state : EntryState
  originalLevel : Nat
  level : Nat
  attempts : Nat
  airTag : Option (BitVec 4)
  cancelRequested : Bool
  outcome : Option EntryOutcome
  replyCode : Option Nat
deriving DecidableEq, Repr

/-- The count of a message's entries in each state (R23). -/
structure StateCounts where
  held : Nat
  queued : Nat
  placed : Nat
  offered : Nat
  awaiting : Nat
  retryWait : Nat
  settling : Nat
deriving DecidableEq, Repr

/-- One zone in a READ_FAULTS reply (R156). -/
structure ZoneFaultFigures where
  state : ZoneState
  neighbours : ZoneSet
  faults : FaultSet
  untakenRun : Nat
  silence : Nat
  occurrences : PerCondition Word32
  reference : ReferenceState
  lastWindow : Option Word32
deriving DecidableEq, Repr

/-- The timing a SET_TIMING reply reports (R57, R58). -/
structure TimingFigures where
  running : Timing
  lengthInForce : Nat
  coming : Option Timing
  staged : Staged
deriving DecidableEq, Repr

/-- What a reply carries after its code (R162), by the owning rules. -/
inductive ReplyBody where
  /-- nothing after the code. -/
  | none
  /-- SUBMIT taken (R11). -/
  | submitted (message : Word32) (entry : Nat) (filed : EntryState) (blocks reservation substitutions : Nat)
      (truncated downgraded : Bool)
  /-- SUB_REFUSED, with the status found (R8). -/
  | statusFound (status : SubStatus)
  /-- SUBMIT_GROUP ended (R16). -/
  | groupEnded (message : Word32) (counts : MemberCounts) (blocks substitutions : Nat) (truncated : Bool)
  /-- CANCEL by entry: CANCELLED, or REQUESTED (R21). -/
  | cancelled
  | requested
  /-- ALREADY_DONE for an entry, with the outcome it has (R21, log 21). -/
  | alreadySettling (outcome : Option EntryOutcome)
  /-- CANCEL by message (R22). -/
  | cancelCounts (cancelled requested settling : Nat)
  /-- SET_ADMISSION (R18). -/
  | effectiveLevel (level : Nat)
  /-- QUERY_MESSAGE (R23). -/
  | message (number : Word32) (encoding : Encoding) (length references : Nat) (counts : StateCounts)
      (entries : List EntrySummary)
  /-- GROUP_SET (R12). -/
  | groupPiece (given : Nat) (inForce : Bool)
  /-- GROUP_READ (R13). -/
  | groupMembers (total : Nat) (members : List Nat)
  /-- READ_SUB (R42). -/
  | record (source : ReadSource) (state : LineState) (deferral : Nat) (record : Record)
  /-- INIT_RECORDS and FLUSH: what the sweep wrote (R45, R46). -/
  | swept (written : Nat)
  /-- SET_CACHE (R41). -/
  | cachePolicy (policy : WritePolicy) (limit dirty : Nat)
  /-- SET_TIMING (R57, R58). -/
  | timing (figures : TimingFigures)
  /-- SET_POLICY (R112). -/
  | policyRow (level : Nat) (row : PolicyRow)
  /-- SET_REACH (R113). -/
  | reach (missLimit probeInterval : Nat)
  /-- PLAN_SET (R118). -/
  | planStored (plan : Nat) (pending : Bool)
  /-- PLAN_READ (R119). -/
  | planCopies (active : Plan) (pending : Option Plan) (period : Word16)
  /-- CLOSE_PERIOD (R120). -/
  | periodClosed (period : Word16) (applied : Nat)
  /-- TOP_UP (R133). -/
  | toppedUp (balance : Nat) (exhausted : Bool)
  /-- ADJUST (R134). -/
  | adjusted (applied : Int) (balance : Nat)
  /-- COLLECT carried out (R140). -/
  | collected (released : Nat) (held : Nat) (records : List BillingRecord)
  /-- COLLECT refused (R140). -/
  | collectRefused (lastReturned held : Nat)
  /-- SET_NOTICES (R145). -/
  | selection (selection : NoticeSelection)
  /-- SET_ZONE (R148). -/
  | zoneSet (state : ZoneState) (neighbours : ZoneSet)
  /-- ZONE_RESTORE served, or refused FAULT_SET (R149). -/
  | zoneRestored (state : ZoneState) (faults : FaultSet)
  | faultsHeld (faults : FaultSet)
  /-- SET_FAULT_HANDLING (R153). -/
  | faultSettings (settings : FaultSettings)
  /-- CLEAR_FAULTS (R155). -/
  | faultsCleared (remaining : FaultSet) (firstEmptied : Bool)
  /-- READ_FAULTS (R156). -/
  | faults (zones : List ZoneFaultFigures) (summary : ZoneSet) (first : Option FirstFault) (settings : FaultSettings)
  /-- The ten sections of STATUS (R165). -/
  | statusSummary (figures : SummaryFigures)
  | statusStore (figures : StoreFigures)
  | statusCache (figures : CacheFigures)
  | statusAir (timer : TimingFigures) (state : TimerState) (frameCount : Word32) (frameNumber : Nat) (cycle : Word32)
      (ignored early holds : Word32)
  | statusAssembly (figures : AssemblyFigures)
  | statusZone (figures : ZoneFigures)
  | statusRetry (figures : RetryFigures)
  | statusCharging (figures : ChargingFigures)
  | statusLog (figures : LogFigures)
  | statusHost (figures : HostFigures)
  /-- START (R168). -/
  | started (length ackDelay : Nat) (source : Source) (inService : ZoneSet)
  /-- RESTART refused (R169). -/
  | noLogRoom (places live : Nat)
  /-- RESTART complete (R170). -/
  | restarted (settled : Word32) (nextSequence : Word32) (linesWritten : Nat)
deriving DecidableEq, Repr

/-- A reply: the KIND and TAG of the order it answers, the code and the fields (R162). -/
structure Reply where
  kind : Byte
  tag : Byte
  code : ReplyCode
  body : ReplyBody
deriving DecidableEq, Repr

/-- What the host transmitter is sending (R164). -/
inductive Sending where
  | idle
  | reply (place : Nat) (r : Reply)
  | notice (n : Notice)
deriving DecidableEq, Repr

/-- The RESTART in progress (R169): its reply place and the settlements ended when it was taken. -/
structure RestartOrder where
  place : Nat
  settledBefore : Word32
deriving DecidableEq, Repr

end Sys2Proof.Machine
end

