-- ==== Sys2Proof/Machine/State.lean ====
section
/-! DEFINITION. The state of the PT-416: one structure per unit, holding what the unit's chapter says it holds. Every default
value is the value after power-on that the chapter's table gives; a value the manual does not give names its log entry. -/

namespace Sys2Proof.Machine

/-- Link Interface (R157 to R167). -/
structure Link where
  partState : PartState := .config
  /-- sampled at power-on (R157); before that a DESIGN CHOICE (log 6). -/
  lineRate : Nat := 115200
  receiver : ReceiverState := .hunting
  /-- a break that has reached 2 ms still lasts (R159). -/
  inBreak : Bool := false
  orders : List Order := []
  taken : List TakenOrder := []
  /-- replies made and not yet being sent, with their places, in the order made (R162). -/
  ready : List (Nat × Reply) := []
  sending : Sending := .idle
  /-- the notice queue, less the notice being sent (R163). -/
  notices : List Notice := []
  nextNotice : Word32 := 1
  restart : Option RestartOrder := none
  counts : LinkCounts := {}
deriving DecidableEq, Repr

/-- Intake Unit (R6, R18, R19). -/
structure Intake where
  hostLevel : Nat := 3
  congestionControl : Bool := true
  /-- the hold list, entry numbers in the order they joined. -/
  holdList : List Nat := []
  order : Option IntakeOrder := none
deriving DecidableEq, Repr

/-- Message Store (R1 to R5, R10, R12). An unlisted body or entry slot is free; an unlisted group has no list. -/
structure Store where
  bodies : Table (Option Body) := []
  entries : Table (Option Entry) := []
  freeBodies : FreeList := { next := 0, size := Config.bodySlots, returned := [] }
  freeEntries : FreeList := { next := 0, size := Config.entrySlots, returned := [] }
  setAside : Nat := 0
  occupancy : Nat := 0
  congestion : Nat := 3
  nextMessage : Word32 := 1
  nextAdmission : Word32 := 1
  groups : Table (List Nat) := []
  unfinished : Table (Option UnfinishedList) := []
  poolFree : Nat := Config.memberPool
deriving DecidableEq, Repr

/-- Record Cache (R26, R29 to R47). Line 2 × set + way; an unlisted line is INVALID, an unlisted LRU mark names way 0. -/
structure Cache where
  lines : Table Line := []
  lru : Table Nat := []
  policy : WritePolicy := .bounded
  limit : Nat := 4
  /-- every request not yet served, in the order received. -/
  queue : List Request := []
  /-- requests held at their requesters by a full queue, in the order made (R30). -/
  heldRequests : List Request := []
  /-- the miss list. -/
  fills : List Fill := []
  /-- the subscribers on which a hold stands (R31). -/
  holds : List Nat := []
  /-- the record memory port's operations, in the order issued (R36). -/
  port : List PortOp := []
  sweep : Option Sweep := none
  addressBase : Option Nat := none
  counts : CacheCounts := {}
deriving DecidableEq, Repr

/-- Air Timer (R48). -/
structure Timer where
  state : TimerState := .stopped
  frameCount : Word32 := 0
  frameNumber : Nat := 0
  cycle : Word32 := 0
  running : Timing := { length := 32, ackDelay := 2, source := { kind := .internal, nominal := 1200 } }
  lengthInForce : Nat := 32
  coming : Option Timing := none
  staged : Staged := {}
  ignored : Word32 := 0
  early : Word32 := 0
  holds : Word32 := 0
deriving DecidableEq, Repr

/-- Frame Assembler (R63). -/
structure Assembler where
  queues : Table (List Nat) := []
  missSkip : List MissSkip := []
  openFrame : Option Frame := none
  offered : Option OfferedFrame := none
  counts : AssemblyCounts := {}
deriving DecidableEq, Repr

/-- Zone Link Unit (R83 to R95). -/
structure ZoneLinks where
  /-- sampled at power-on (R83); before that a DESIGN CHOICE (log 6). -/
  lineRate : Nat := 115200
  zones : Table ZoneLink := []
  unattributed : Word32 := 0
  reverseQueue : List ReverseItem := []
  /-- the model's own record of the frames put on the links, oldest first, each with its link (log 24). -/
  sent : List (Nat × ZoneFrameOut) := []
deriving DecidableEq, Repr

/-- Zone Monitor (R147, R153). -/
structure Monitor where
  zones : Table Zone := []
  summary : ZoneSet := 0
  first : Option FirstFault := none
  settings : FaultSettings :=
    { conditions :=
        { untaken := { detect := true, notice := true, severity := .serviceLoss }
          fwdFrameError := { detect := true, notice := true, severity := .advisory }
          revFrameError := { detect := true, notice := true, severity := .advisory }
          revSilent := { detect := true, notice := true, severity := .serviceLoss }
          refUnlock := { detect := true, notice := true, severity := .serviceLoss } }
      untakenLimit := 3
      silenceLimit := 8 }
deriving DecidableEq, Repr

/-- Retry Unit (R96, R112, R113). -/
structure Retry where
  awaitSet : List AwaitElement := []
  list : List RetryElement := []
  /-- rows of levels 0 to 3. -/
  policy : List PolicyRow :=
    [ { maxAttempts := 7, backoff := [0, 0, 0, 0, 0, 0], lifetime := 64, repeats := 3 },
      { maxAttempts := 5, backoff := [0, 1, 2, 4, 8, 8], lifetime := 256, repeats := 2 },
      { maxAttempts := 4, backoff := [1, 2, 4, 8, 8, 8], lifetime := 1024, repeats := 2 },
      { maxAttempts := 3, backoff := [4, 8, 15, 15, 15, 15], lifetime := 4096, repeats := 1 } ]
  /-- U. -/
  missLimit : Nat := 6
  /-- P. -/
  probeInterval : Nat := 16
  horizon : Word32 := 0
  /-- told and not yet acted on, oldest first (R98, R104, R109). -/
  announced : List Announced := []
  /-- answers of reach reads not yet acted on, oldest first (R106). -/
  answers : List ReachAnswer := []
  counts : RetryCounts := {}
deriving DecidableEq, Repr

/-- Charging Unit (R117). An unlisted plan is the default plan, its pending mark clear. -/
structure Charging where
  active : Table Plan := []
  pending : Table PendingPlan := []
  period : Word16 := 0
  settleList : List SettleElement := []
  head : HeadState := .idle
  order : Option ChargingOrder := none
  counts : ChargingCounts := {}
deriving DecidableEq, Repr

/-- Billing Log (R135). -/
structure BillingLog where
  records : List BillingRecord := []
  setAside : Bool := false
  /-- a request for a place waits (R136). -/
  waiting : Bool := false
  nextSequence : Word32 := 1
  lastReturned : Nat := 0
  high : HighMark := .armed
  selection : NoticeSelection := .all
  greatest : Nat := 0
  counts : LogCounts := {}
deriving DecidableEq, Repr

/-- The whole machine: the commands waiting, record memory and the eleven units (00_scope.md). -/
structure State where
  /-- the model's own queue of commands, first in, first out. -/
  pending : List Instr
  /-- record memory (R24), as (address, byte) pairs, addresses rising; an unlisted byte reads 0 (log 5). -/
  mem : List Host.Cell
  link : Link
  intake : Intake
  store : Store
  cache : Cache
  timer : Timer
  assembler : Assembler
  zoneLinks : ZoneLinks
  monitor : Monitor
  retry : Retry
  charging : Charging
  log : BillingLog
deriving DecidableEq, Repr

/-- The machine right after power-on (R167 and the table of each chapter): every unit at its power-on values, record memory
with nothing listed (log 5), no command waiting. -/
def State.reset : State :=
  { pending := []
    mem := []
    link := {}
    intake := {}
    store := {}
    cache := {}
    timer := {}
    assembler := {}
    zoneLinks := {}
    monitor := {}
    retry := {}
    charging := {}
    log := {} }

/-- What stops the machine. -/
inductive Fault where
  /-- Raised by the completions of the record memory port for an operation on a record outside the 16 MiB of record memory
  (R24). Every order and item range-checks its subscriber, so no run from reset reaches it. Safe: the machine stops where
  the manual gives no effect (log 35). -/
  | noSuchRecord (sub : Nat)
deriving DecidableEq, Repr

/-- What the machine refuses. -/
inductive Refusal where
  /-- Raised by exec alone, for a command whose meaning is not written. Safe: nothing is claimed of it. -/
  | notModelled (mnemonic : String)
  /-- Raised by a command whose operands no line or pin of the part can carry (Instr.wellFormed). Safe: it names no event (log 35). -/
  | noSuchEvent
deriving DecidableEq, Repr

end Sys2Proof.Machine
end

