-- ==== Sys2Proof/Machine/Bytes.lean ====
section
/-! DEFINITION. Bytes of a frame or record as numbers, most significant first (00_scope.md, Byte order), and the CRC-16 of
check words and frame checks (00_scope.md, Check words). -/

namespace Sys2Proof.Machine.Bytes

/-- The number that bytes spell, most significant first. -/
def toNat (bs : List Byte) : Nat := bs.foldl (fun n b => n * 256 + b.toNat) 0

/-- The field of `w` bytes at offset `at`. -/
def field (bs : List Byte) (at_ w : Nat) : Nat := toNat ((bs.drop at_).take w)

/-- `w` bytes that spell `n`, most significant first. -/
def ofNat : Nat → Nat → List Byte
  | 0, _ => []
  | w + 1, n => BitVec.ofNat 8 (n / 256 ^ w) :: ofNat w n

/-- One bit of the CRC: polynomial 0x1021, most significant bit first. -/
def crcBit (c : Word16) : Word16 := if c.msb then (c <<< 1) ^^^ 0x1021#16 else c <<< 1

/-- One byte of the CRC, most significant bit first. -/
def crcByte (c : Word16) (b : Byte) : Word16 :=
  (List.range 8).foldl (fun c _ => crcBit c) (c ^^^ (b.setWidth 16 <<< 8))

/-- The CRC-16 with initial value 0xFFFF and no inversion (R27, R83, R157). -/
def crc16 (bs : List Byte) : Word16 := bs.foldl crcByte 0xFFFF#16

end Sys2Proof.Machine.Bytes
end

