-- ==== Sys2Proof/Machine/Table.lean ====
section
/-! DEFINITION. Sparse storage by number: reading, writing and the canonical form. Record memory, the cache lines, the body
and entry slots, the queues, groups, plans and zones are all held this way. -/

namespace Sys2Proof.Table

/-- The value of key `n`, `d` where none is listed. -/
def get {α : Type} (d : α) : Table α → Nat → α
  | [], _ => d
  | (k, v) :: t, n => if k = n then v else get d t n

/-- Lists `v` under key `n`, in its place among rising keys. -/
def insert {α : Type} : Table α → Nat → α → Table α
  | [], n, v => [(n, v)]
  | (k, w) :: t, n, v =>
    if n < k then (n, v) :: (k, w) :: t
    else if k = n then (n, v) :: t
    else (k, w) :: insert t n v

/-- Writes `v` under key `n`; the value an unlisted key reads as is not listed. -/
def set {α : Type} [DecidableEq α] (d : α) (t : Table α) (n : Nat) (v : α) : Table α :=
  if v = d then t.filter (fun e => decide (e.1 ≠ n)) else insert t n v

/-- The keys listed, each once. -/
def keys {α : Type} : Table α → List Nat
  | [] => []
  | (k, _) :: t => k :: (keys t).filter (fun n => decide (n ≠ k))

/-- The slots that hold something, each once, with what they hold. -/
def filled {α : Type} (t : Table (Option α)) : List (Nat × α) :=
  (keys t).filterMap (fun n => (get none t n).map (fun v => (n, v)))

/-- The canonical form: keys rise strictly and no listed value is the default. -/
def wf {α : Type} [DecidableEq α] (d : α) : Table α → Bool
  | [] => true
  | [(_, v)] => decide (v ≠ d)
  | (k, v) :: (l, w) :: t => decide (k < l) && decide (v ≠ d) && wf d ((l, w) :: t)

end Sys2Proof.Table

namespace Sys2Proof.Machine.Memory

/-- What record memory reads as where nothing has been written (log 5). -/
def unwritten : Byte := 0

/-- One byte of record memory. -/
def read (m : List Host.Cell) (a : Nat) : Byte := Table.get unwritten m a

/-- Writes one byte of record memory. -/
def write (m : List Host.Cell) (a : Nat) (b : Byte) : List Host.Cell := Table.set unwritten m a b

/-- The canonical form of record memory. -/
def wf (m : List Host.Cell) : Bool := Table.wf unwritten m

/-- `n` bytes from address `a` on. -/
def readBytes (m : List Host.Cell) (a : Nat) : Nat → List Byte
  | 0 => []
  | n + 1 => read m a :: readBytes m (a + 1) n

/-- Writes bytes from address `a` on. -/
def writeBytes (m : List Host.Cell) (a : Nat) : List Byte → List Host.Cell
  | [] => m
  | b :: bs => writeBytes (write m a b) (a + 1) bs

end Sys2Proof.Machine.Memory
end

