-- ==== Sys2Proof/Machine/Formats.lean ====
section
/-! DEFINITION. The layouts of chapter 12 that the part writes or reads: codes, the subscriber record, the billing record and
the COLLECT and READ_SUB replies, the OUTCOME notice, the zone link frames and the envelope. -/

namespace Sys2Proof.Machine

/-! ### Numbered names (12.1, 12.3) -/

/-- Encoding by number. -/
def Encoding.ofCode : Nat → Option Encoding
  | 0 => some .tone
  | 1 => some .numeric
  | 2 => some .text
  | _ => none

/-- Number of an encoding. -/
def Encoding.code : Encoding → Nat
  | .tone => 0
  | .numeric => 1
  | .text => 2

/-- Status by number. -/
def SubStatus.ofCode : Nat → Option SubStatus
  | 0 => some .active
  | 1 => some .suspended
  | 2 => some .closed
  | _ => none

/-- Number of a status. -/
def SubStatus.code : SubStatus → Nat
  | .active => 0
  | .suspended => 1
  | .closed => 2

/-- Account kind by number. -/
def AccountKind.ofCode : Nat → Option AccountKind
  | 0 => some .postpaid
  | 1 => some .prepaid
  | _ => none

/-- Number of an account kind. -/
def AccountKind.code : AccountKind → Nat
  | .postpaid => 0
  | .prepaid => 1

/-- Capability by number. -/
def Capability.ofCode : Nat → Option Capability
  | 0 => some .toneOnly
  | 1 => some .numeric
  | 2 => some .text
  | _ => none

/-- Number of a capability. -/
def Capability.code : Capability → Nat
  | .toneOnly => 0
  | .numeric => 1
  | .text => 2

/-- Reply mode by number. -/
def ReplyMode.ofCode : Nat → Option ReplyMode
  | 0 => some .twoWay
  | 1 => some .oneWay
  | _ => none

/-- Number of a reply mode. -/
def ReplyMode.code : ReplyMode → Nat
  | .twoWay => 0
  | .oneWay => 1

/-- Number of an outcome. -/
def EntryOutcome.code : EntryOutcome → Nat
  | .delivered => 0
  | .unconfirmed => 1
  | .expiredRetries => 2
  | .expiredLifetime => 3
  | .cancelled => 4
  | .faulted => 5

/-- Number of a line state in a READ_SUB reply (12.3). -/
def LineState.code : LineState → Nat
  | .clean => 1
  | .dirty => 2
  | .casting => 3
  | .invalid => 0
  | .filling => 0

/-- Number of a READ_SUB source (12.3). -/
def ReadSource.code : ReadSource → Nat
  | .line => 1
  | .memory => 2

/-- Number of a reply code, in the order of R162. -/
def ReplyCode.code : ReplyCode → Nat
  | .ok => 0
  | .busy => 1
  | .badFormat => 2
  | .badValue => 3
  | .unknownOrder => 4
  | .wrongState => 5
  | .subRefused => 6
  | .capability => 7
  | .subLimit => 8
  | .storeFull => 9
  | .noFunds => 10
  | .recordFault => 11
  | .pending => 12
  | .notFound => 13
  | .alreadyDone => 14
  | .faultSet => 15
  | .logFull => 16

/-- The KIND byte of an order: 0x01 to 0x20 in the order of the order-set table (12.1). -/
def OrderKind.code : OrderKind → Byte
  | .submit => 0x01
  | .submitGroup => 0x02
  | .cancel => 0x03
  | .setAdmission => 0x04
  | .queryMessage => 0x05
  | .groupSet => 0x06
  | .groupRead => 0x07
  | .readSub => 0x08
  | .writeSub => 0x09
  | .repairSub => 0x0A
  | .initRecords => 0x0B
  | .flush => 0x0C
  | .setCache => 0x0D
  | .setAddressBase => 0x0E
  | .setTiming => 0x0F
  | .setPolicy => 0x10
  | .setReach => 0x11
  | .planSet => 0x12
  | .planRead => 0x13
  | .closePeriod => 0x14
  | .topUp => 0x15
  | .adjust => 0x16
  | .collect => 0x17
  | .setNotices => 0x18
  | .setZone => 0x19
  | .zoneRestore => 0x1A
  | .setFaultHandling => 0x1B
  | .clearFaults => 0x1C
  | .readFaults => 0x1D
  | .status => 0x1E
  | .start => 0x1F
  | .restart => 0x20

/-- Every order, in the order of the order-set table. -/
def OrderKind.all : List OrderKind :=
  [.submit, .submitGroup, .cancel, .setAdmission, .queryMessage, .groupSet, .groupRead, .readSub, .writeSub, .repairSub,
   .initRecords, .flush, .setCache, .setAddressBase, .setTiming, .setPolicy, .setReach, .planSet, .planRead, .closePeriod,
   .topUp, .adjust, .collect, .setNotices, .setZone, .zoneRestore, .setFaultHandling, .clearFaults, .readFaults, .status,
   .start, .restart]

/-- The order a KIND byte names, if any (R160, check 1). -/
def OrderKind.ofCode (b : Byte) : Option OrderKind := OrderKind.all.find? (fun k => k.code == b)

/-- Who takes an order (10.6). -/
def OrderKind.owner : OrderKind → OrderOwner
  | .submit | .submitGroup | .cancel | .setAdmission => .intake
  | .queryMessage | .groupSet | .groupRead => .store
  | .readSub | .writeSub | .repairSub | .initRecords | .flush | .setCache | .setAddressBase => .cache
  | .setTiming => .timer
  | .setPolicy | .setReach => .retry
  | .planSet | .planRead | .closePeriod | .topUp | .adjust => .charging
  | .collect | .setNotices => .log
  | .setZone | .zoneRestore | .setFaultHandling | .clearFaults | .readFaults => .monitor
  | .status => .linkStatus
  | .start | .restart => .linkState

/-- The body length suits the kind (R160, check 2; 12.2). -/
def OrderKind.lengthFits (k : OrderKind) (body : List Byte) : Bool :=
  match k with
  | .submit | .submitGroup => decide (8 ≤ body.length) && decide (body.length = 8 + Bytes.field body 6 2)
  | .groupSet => decide (8 ≤ body.length) && decide (body.length = 8 + 3 * Bytes.field body 6 1)
  | .cancel => decide (body.length = 8)
  | .setAdmission | .setCache | .setReach | .collect | .clearFaults | .status => decide (body.length = 2)
  | .queryMessage | .setZone => decide (body.length = 4)
  | .groupRead | .initRecords | .setTiming => decide (body.length = 6)
  | .readSub | .setAddressBase => decide (body.length = 3)
  | .writeSub => decide (body.length = 10)
  | .repairSub => decide (body.length = 14)
  | .setPolicy => decide (body.length = 12)
  | .planSet => decide (body.length = 20)
  | .planRead | .setNotices | .zoneRestore => decide (body.length = 1)
  | .topUp | .adjust => decide (body.length = 7)
  | .setFaultHandling => decide (body.length = 8)
  | .flush | .closePeriod | .readFaults | .start | .restart => decide (body.length = 0)

/-! ### The subscriber record (12.3) -/

/-- A mark as a byte. -/
def flagByte (b : Bool) : Byte := if b then 1 else 0

/-- A byte that must be 0 or 1, as a mark. -/
def flagOf : Nat → Option Bool
  | 0 => some false
  | 1 => some true
  | _ => none

/-- A number below a bound, or nothing. -/
def below (bound n : Nat) : Option Nat := if n < bound then some n else none

/-- The 62 field bytes of a record, with 0 in offsets 34 to 61 (R172). -/
def Record.fieldBytes (r : Record) : List Byte :=
  [BitVec.ofNat 8 r.host.status.code, BitVec.ofNat 8 r.host.account.code, BitVec.ofNat 8 r.host.plan,
   BitVec.ofNat 8 r.host.capability.code, BitVec.ofNat 8 r.host.mode.code, BitVec.ofNat 8 r.host.homeZone,
   BitVec.ofNat 8 (r.lastZone.getD 255), r.airTag.setWidth 8, BitVec.ofNat 8 r.misses,
   flagByte r.unreachable, flagByte r.exhausted, BitVec.ofNat 8 r.live]
  ++ Bytes.ofNat 4 r.nextProbe.toNat ++ Bytes.ofNat 4 r.balance ++ Bytes.ofNat 4 r.reserved ++ Bytes.ofNat 4 r.charges
  ++ Bytes.ofNat 2 r.period.toNat ++ Bytes.ofNat 2 r.messages ++ Bytes.ofNat 2 r.allowanceUsed
  ++ List.replicate 28 0

/-- The 64 bytes of a record with a fresh check word (R27). -/
def Record.bytes (r : Record) : List Byte :=
  r.fieldBytes ++ Bytes.ofNat 2 (Bytes.crc16 r.fieldBytes).toNat

/-- The host-owned fields in six bytes, as a record and WRITE_SUB carry them; none if any is out of range. -/
def HostFields.ofBytes (bs : List Byte) : Option HostFields := do
  let status ← SubStatus.ofCode (Bytes.field bs 0 1)
  let account ← AccountKind.ofCode (Bytes.field bs 1 1)
  let plan ← below 64 (Bytes.field bs 2 1)
  let capability ← Capability.ofCode (Bytes.field bs 3 1)
  let mode ← ReplyMode.ofCode (Bytes.field bs 4 1)
  let homeZone ← below 16 (Bytes.field bs 5 1)
  return { status, account, plan, capability, mode, homeZone }

/-- The last-known zone byte: 0..15, or 255 for NONE. -/
def lastZoneOf (n : Nat) : Option (Option Nat) :=
  if n < 16 then some (some n) else if n = 255 then some none else none

/-- The fields of 64 record bytes, none if offsets 0 to 11 hold a value the table does not list (R172). Offsets 34 to 61
are not looked at. -/
def Record.ofFields (bs : List Byte) : Option Record := do
  let host ← HostFields.ofBytes bs
  let lastZone ← lastZoneOf (Bytes.field bs 6 1)
  let tag ← below 16 (Bytes.field bs 7 1)
  let unreachable ← flagOf (Bytes.field bs 9 1)
  let exhausted ← flagOf (Bytes.field bs 10 1)
  let live ← below 33 (Bytes.field bs 11 1)
  return { host, lastZone, airTag := BitVec.ofNat 4 tag, misses := Bytes.field bs 8 1, unreachable, exhausted, live,
           nextProbe := BitVec.ofNat 32 (Bytes.field bs 12 4), balance := Bytes.field bs 16 4,
           reserved := Bytes.field bs 20 4, charges := Bytes.field bs 24 4,
           period := BitVec.ofNat 16 (Bytes.field bs 28 2), messages := Bytes.field bs 30 2,
           allowanceUsed := Bytes.field bs 32 2 }

/-- The check word of 64 record bytes is correct (R27). -/
def checkWordGood (bs : List Byte) : Bool :=
  decide ((Bytes.crc16 (bs.take 62)).toNat = Bytes.field bs 62 2)

/-- A record as read from memory: none is a record fault (R27, R172). -/
def Record.ofBytes (bs : List Byte) : Option Record :=
  if checkWordGood bs then Record.ofFields bs else none

/-- The record of a subscriber as memory holds it (R24). -/
def Memory.readRecord (m : List Host.Cell) (sub : Nat) : Option Record :=
  Record.ofBytes (Memory.readBytes m (sub * 64) 64)

/-- Writes a subscriber's record to memory with a fresh check word (R27). -/
def Memory.writeRecord (m : List Host.Cell) (sub : Nat) (r : Record) : List Host.Cell :=
  Memory.writeBytes m (sub * 64) r.bytes

/-! ### Frames from the part -/

/-- A frame in the envelope of 12.1. -/
def envelope (kind tag : Byte) (body : List Byte) : List Byte :=
  let covered := Bytes.ofNat 2 body.length ++ [kind, tag] ++ body
  0xA5 :: covered ++ Bytes.ofNat 2 (Bytes.crc16 covered).toNat

/-- The CHECK over LENGTH through BODY (12.1). -/
def frameCheck (kind tag : Byte) (body : List Byte) : Word16 :=
  Bytes.crc16 (Bytes.ofNat 2 body.length ++ [kind, tag] ++ body)

/-- The identity word of a billing record (12.4). -/
def BillingRecord.identity (r : BillingRecord) : Nat :=
  r.level * 2 ^ 30 + (if r.fault then 2 ^ 29 else 0) + r.sub * 2 ^ 11 + r.group.getD 2047

/-- The charge word of a billing record (12.4). -/
def BillingRecord.chargeWord (r : BillingRecord) : Nat :=
  (if r.withinAllowance then 2 ^ 15 else 0) + r.attempts * 2 ^ 12 + (if r.fault then 0 else r.plan.getD 0) * 2 ^ 6 + r.blocks

/-- The 31 bytes of a billing record (12.4). -/
def BillingRecord.bytes (r : BillingRecord) : List Byte :=
  Bytes.ofNat 4 r.message.toNat ++ Bytes.ofNat 4 r.identity ++ Bytes.ofNat 1 (r.outcome.code * 16 + r.replyCode)
  ++ Bytes.ofNat 2 r.chargeWord ++ Bytes.ofNat 2 r.period.toNat ++ Bytes.ofNat 3 r.charge ++ Bytes.ofNat 3 r.deducted
  ++ Bytes.ofNat 3 r.shortfall ++ Bytes.ofNat 4 r.admissionCycle.toNat
  ++ Bytes.ofNat 3 (r.outcomeCycle - r.admissionCycle).toNat ++ Bytes.ofNat 2 r.takenSet.toNat

/-- The sequence number of the first record of a list, 0 when there is none. -/
def firstSequence (records : List BillingRecord) : Word32 :=
  match records with
  | [] => 0
  | r :: _ => r.sequence

/-- The sequence number of the last record of a list, 0 when there is none. -/
def lastSequence (records : List BillingRecord) : Word32 :=
  match records.getLast? with
  | none => 0
  | some r => r.sequence

/-- The body bytes of a reply, for the replies whose layout chapter 12 gives: READ_SUB, COLLECT, and a code alone. -/
def Reply.bodyBytes (r : Reply) : Option (List Byte) :=
  let code := Bytes.ofNat 1 r.code.code
  match r.body with
  | .none => some code
  | .record source state deferral record =>
    some (code ++ Bytes.ofNat 1 source.code ++ Bytes.ofNat 1 state.code ++ Bytes.ofNat 1 deferral ++ record.bytes)
  | .collected released held records =>
    some (code ++ Bytes.ofNat 1 released ++ Bytes.ofNat 1 records.length ++ Bytes.ofNat 2 held
      ++ Bytes.ofNat 4 (firstSequence records).toNat ++ records.flatMap BillingRecord.bytes)
  | .collectRefused lastReturned held =>
    some (code ++ Bytes.ofNat 1 lastReturned ++ [0] ++ Bytes.ofNat 2 held ++ [0, 0, 0, 0])
  | _ => none

/-- The KIND byte of a reply: the order's KIND plus 0x80 (12.1), modulo 256 where a refused KIND is 0x80 or above (log 51). -/
def Reply.kindByte (r : Reply) : Byte := r.kind + 0x80

/-- The whole frame of a reply, for the replies whose layout chapter 12 gives: its TAG is the order's (R162). -/
def Reply.bytes (r : Reply) : Option (List Byte) := r.bodyBytes.map (envelope r.kindByte r.tag)

/-- The KIND byte of a notice (12.1). -/
def NoticeBody.kindByte : NoticeBody → Byte
  | .outcome .. => 0xC1
  | .fault .. => 0xC2
  | .logHigh .. => 0xC3
  | .airHold .. => 0xC4
  | .airResume .. => 0xC5
  | .recordFault .. => 0xC6
  | .congestion .. => 0xC7

/-- The bytes of a notice's body after its number, for OUTCOME, whose layout 12.5 gives. -/
def Notice.fieldBytes (n : Notice) : Option (List Byte) :=
  match n.body with
  | .outcome message entry sub group outcome replyCode attempts charge shortfall sequence =>
    some (Bytes.ofNat 4 message.toNat ++ Bytes.ofNat 2 entry ++ Bytes.ofNat 3 sub
      ++ Bytes.ofNat 2 (group.getD 65535) ++ Bytes.ofNat 1 outcome.code ++ Bytes.ofNat 1 replyCode
      ++ Bytes.ofNat 1 attempts ++ Bytes.ofNat 3 charge ++ Bytes.ofNat 3 shortfall ++ Bytes.ofNat 4 sequence.toNat)
  | _ => none

/-- The TAG byte of a notice frame (R163). -/
def Notice.tagByte : Byte := 0

/-- The whole frame of a notice: the notice's kind in its KIND byte, tag 0, and its body, which begins with the notice number (R163,
12.1). `fields` are the bytes after the number. -/
def Notice.frame (n : Notice) (fields : List Byte) : List Byte :=
  envelope n.body.kindByte Notice.tagByte (Bytes.ofNat 4 n.number.toNat ++ fields)

/-- The whole frame of a notice whose layout chapter 12 gives. -/
def Notice.bytes (n : Notice) : Option (List Byte) := n.fieldBytes.map n.frame

/-- The bytes of a page (12.6): 6 and its symbols. -/
def Page.bytes (p : Page) : List Byte :=
  Bytes.ofNat 3 p.address ++ [p.tag.setWidth 8] ++ Bytes.ofNat 1 p.encoding.code ++ Bytes.ofNat 1 p.content.length ++ p.content

/-- The body of a frame the part sends to a zone (12.6). -/
def ZoneFrameOut.bodyBytes (zone : Nat) : ZoneFrameOut → List Byte
  | .offer launch number pages =>
    Bytes.ofNat 4 launch.toNat ++ Bytes.ofNat 1 zone ++ Bytes.ofNat 1 number ++ Bytes.ofNat 1 pages.length ++ [0]
      ++ pages.flatMap Page.bytes
  | .withdraw launch => Bytes.ofNat 4 launch.toNat ++ Bytes.ofNat 1 zone ++ [0, 0, 0]

/-- The KIND byte of a frame the part sends to a zone (12.1). -/
def ZoneFrameOut.kindByte : ZoneFrameOut → Byte
  | .offer .. => 0x41
  | .withdraw .. => 0x42

/-- The whole frame on a zone link: the TAG is 0 (R83). -/
def ZoneFrameOut.bytes (zone : Nat) (f : ZoneFrameOut) : List Byte := envelope f.kindByte 0 (f.bodyBytes zone)

end Sys2Proof.Machine
end

