-- ==== Sys2Proof/Machine/Flags.lean ====
section
/-! DEFINITION. Sets of zones and conditions, levels, marks and masks that the manual computes from other state: the congestion
level, the effective admission level, the in-service set, the faulted-zone summary, the zone mask, the high mark. -/

namespace Sys2Proof.Machine

/-! ### Sets of zones and conditions -/

/-- The set of one zone. -/
def ZoneSet.single (z : Nat) : ZoneSet := 1#16 <<< z

/-- A zone is in a set. -/
def ZoneSet.has (set : ZoneSet) (z : Nat) : Bool := set.getLsbD z

/-- The zones of a set, rising. -/
def ZoneSet.toList (set : ZoneSet) : List Nat := (List.range Config.zones).filter set.getLsbD

/-- A set with one zone put in or taken out. -/
def ZoneSet.put (set : ZoneSet) (z : Nat) (isIn : Bool) : ZoneSet :=
  if isIn then set ||| ZoneSet.single z else set &&& ~~~ ZoneSet.single z

/-- The five conditions in the order of SET_FAULT_HANDLING (12.2). -/
def Condition.all : List Condition := [.untaken, .fwdFrameError, .revFrameError, .revSilent, .refUnlock]

/-- The bit of a condition in a fault set. -/
def Condition.bit : Condition → FaultSet
  | .untaken => 1
  | .fwdFrameError => 2
  | .revFrameError => 4
  | .revSilent => 8
  | .refUnlock => 16

/-- A condition is in a fault set. -/
def FaultSet.has (set : FaultSet) (c : Condition) : Bool := decide (set &&& c.bit ≠ 0)

/-- The value of one condition. -/
def PerCondition.get {α : Type} (p : PerCondition α) : Condition → α
  | .untaken => p.untaken
  | .fwdFrameError => p.fwdFrameError
  | .revFrameError => p.revFrameError
  | .revSilent => p.revSilent
  | .refUnlock => p.refUnlock

/-- Replaces the value of one condition. -/
def PerCondition.set {α : Type} (p : PerCondition α) (c : Condition) (v : α) : PerCondition α :=
  match c with
  | .untaken => { p with untaken := v }
  | .fwdFrameError => { p with fwdFrameError := v }
  | .revFrameError => { p with revFrameError := v }
  | .revSilent => { p with revSilent := v }
  | .refUnlock => { p with refUnlock := v }

/-! ### Levels -/

/-- The congestion level after the occupancy count has changed (R5). -/
def congestionAfter (level occupancy : Nat) : Nat :=
  if level = 3 ∧ 12288 ≤ occupancy then 2
  else if level = 2 ∧ 14336 ≤ occupancy then 1
  else if level = 1 ∧ occupancy < 13312 then 2
  else if level = 2 ∧ occupancy < 10240 then 3
  else level

/-- The effective admission level (R18). -/
def effectiveLevel (hostLevel congestion : Nat) (control : Bool) : Nat :=
  if control then min hostLevel congestion else hostLevel

/-- The effective admission level as it stands. -/
def State.effectiveLevel (s : State) : Nat :=
  Machine.effectiveLevel s.intake.hostLevel s.store.congestion s.intake.congestionControl

/-- The escalation step of an entry: 2 at level 0, else the lesser of its attempts and 2 (R2, R69). -/
def escalationStep (level attempts : Nat) : Nat := if level = 0 then 2 else min attempts 2

/-! ### Zones -/

/-- A zone of the Zone Monitor. -/
def Monitor.zone (m : Monitor) (z : Nat) : Zone := Table.get {} m.zones z

/-- Replaces a zone of the Zone Monitor. -/
def Monitor.setZone (m : Monitor) (z : Nat) (v : Zone) : Monitor := { m with zones := Table.set {} m.zones z v }

/-- The in-service set (R147). -/
def Monitor.inService (m : Monitor) : ZoneSet :=
  (List.range Config.zones).foldl
    (fun set z => if (m.zone z).state = .inService then set ||| ZoneSet.single z else set) 0

/-- The zones configured: IN_SERVICE or OUT_OF_SERVICE (R147). -/
def Monitor.configured (m : Monitor) (z : Nat) : Bool := decide ((m.zone z).state ≠ .unconfigured)

/-- The zone mask (R69): Z, its neighbours and the in-service set, from an escalation step on; an empty mask moves to the
next step. -/
def zoneMask (z : Nat) (neighbours inService : ZoneSet) (step : Nat) : ZoneSet :=
  let first := ZoneSet.single z &&& inService
  let second := (ZoneSet.single z ||| neighbours) &&& inService
  if step = 0 ∧ first ≠ 0 then first
  else if step ≤ 1 ∧ second ≠ 0 then second
  else inService

/-- A zone link of the Zone Link Unit. -/
def ZoneLinks.zone (l : ZoneLinks) (z : Nat) : ZoneLink := Table.get {} l.zones z

/-- Replaces a zone link. -/
def ZoneLinks.setZone (l : ZoneLinks) (z : Nat) (v : ZoneLink) : ZoneLinks := { l with zones := Table.set {} l.zones z v }

/-! ### The billing log -/

/-- Places available to the settlements still to come: 1,024 less the records held (R135). -/
def BillingLog.available (l : BillingLog) : Nat := Config.logPlaces - l.records.length

/-- Places neither holding a record nor set aside (R135). -/
def BillingLog.free (l : BillingLog) : Nat := l.available - (if l.setAside then 1 else 0)

/-- The sequence after a sequence: 0 is given to no record, no message and no notice (R137, R10, R163). -/
def nextNumber (n : Word32) : Word32 := if n + 1 = 0 then 1 else n + 1

end Sys2Proof.Machine
end

