-- ==== Sys2Proof/Machine/Operands.lean ====
section
/-! DEFINITION. The operands of the orders (12.2) and of the zone frames (12.6), read from their bodies. A result of none means
that a field lies outside what its order's rule allows (BAD_VALUE), or that a zone frame is a bad frame (R84, R91, R171). Unused
bytes are not looked at. -/

namespace Sys2Proof.Machine.Operands

/-- A subscriber index in range (R24). -/
def subscriber (bs : List Byte) (at_ : Nat) : Option Nat := below Config.subscribers (Bytes.field bs at_ 3)

/-- A number within bounds, both included. -/
def within (lo hi n : Nat) : Option Nat := if lo ≤ n ∧ n ≤ hi then some n else none

/-- The content bytes of a SUBMIT or SUBMIT_GROUP, as given by the host. -/
def content (bs : List Byte) : List Byte := (bs.drop 8).take (Bytes.field bs 6 2)

/-- SUBMIT: subscriber, level and encoding in range (R6, checks 2 and 3). -/
def submit (bs : List Byte) : Option (Nat × Nat × Encoding) := do
  let sub ← subscriber bs 0
  let level ← below 4 (Bytes.field bs 3 1)
  let encoding ← Encoding.ofCode (Bytes.field bs 4 1)
  return (sub, level, encoding)

/-- SUBMIT_GROUP: the group in range (R14, check 2). -/
def submitGroupNumber (bs : List Byte) : Option Nat := below Config.groups (Bytes.field bs 0 2)

/-- SUBMIT_GROUP: level and encoding in range (R14, check 4). -/
def submitGroupKind (bs : List Byte) : Option (Nat × Encoding) := do
  let level ← below 4 (Bytes.field bs 2 1)
  let encoding ← Encoding.ofCode (Bytes.field bs 3 1)
  return (level, encoding)

/-- What a CANCEL names (R21): an entry by number, or a message. -/
inductive CancelForm where
  | entry (number : Nat)
  | message (number : Word32)
deriving DecidableEq, Repr

/-- CANCEL: its form (R21). -/
def cancel (bs : List Byte) : Option CancelForm :=
  match Bytes.field bs 0 1 with
  | 0 => some (.entry (Bytes.field bs 4 4))
  | 1 => some (.message (BitVec.ofNat 32 (Bytes.field bs 4 4)))
  | _ => none

/-- SET_ADMISSION: host level and congestion control (R18). -/
def setAdmission (bs : List Byte) : Option (Nat × Bool) := do
  let level ← below 4 (Bytes.field bs 0 1)
  let control ← flagOf (Bytes.field bs 1 1)
  return (level, control)

/-- The subscriber indices of a GROUP_SET piece, as written. -/
def memberIndices (bs : List Byte) : List Nat :=
  (List.range (Bytes.field bs 6 1)).map (fun i => Bytes.field bs (8 + 3 * i) 3)

/-- A GROUP_SET piece (R12). -/
structure GroupPiece where
  group : Nat
  total : Nat
  position : Nat
  members : List Nat
deriving DecidableEq, Repr

/-- GROUP_SET: group, total, member count and every index in range, and the piece within its total (R12, check 2; 12.2). -/
def groupSet (bs : List Byte) : Option GroupPiece :=
  let p : GroupPiece :=
    { group := Bytes.field bs 0 2, total := Bytes.field bs 2 2, position := Bytes.field bs 4 2, members := memberIndices bs }
  if p.group < Config.groups ∧ p.total ≤ 2048 ∧ p.members.length ≤ 160 ∧
      p.members.all (fun i => decide (i < Config.subscribers)) = true ∧ p.position + p.members.length ≤ p.total
  then some p else none

/-- GROUP_READ: group and count in range (R13). The position is judged against the list. -/
def groupRead (bs : List Byte) : Option (Nat × Nat × Nat) := do
  let group ← below Config.groups (Bytes.field bs 0 2)
  let count ← within 1 160 (Bytes.field bs 4 1)
  return (group, Bytes.field bs 2 2, count)

/-- WRITE_SUB: subscriber and the six host-owned fields (R43). -/
def writeSub (bs : List Byte) : Option (Nat × HostFields) := do
  let sub ← subscriber bs 0
  let fields ← HostFields.ofBytes (bs.drop 3)
  return (sub, fields)

/-- REPAIR_SUB: as WRITE_SUB, with a balance (R44). -/
def repairSub (bs : List Byte) : Option (Nat × HostFields × Nat) := do
  let (sub, fields) ← writeSub bs
  return (sub, fields, Bytes.field bs 10 4)

/-- INIT_RECORDS: first and last index, the first not above the last (R45). -/
def initRecords (bs : List Byte) : Option (Nat × Nat) := do
  let first ← subscriber bs 0
  let last ← subscriber bs 3
  if first ≤ last then return (first, last) else none

/-- SET_CACHE: the policy, and the limit of BOUNDED (R41). The limit byte is looked at for BOUNDED alone (log 36). -/
def setCache (bs : List Byte) : Option (WritePolicy × Option Nat) :=
  match Bytes.field bs 0 1 with
  | 0 => some (.through, none)
  | 1 => some (.deferred, none)
  | 2 => (within 1 15 (Bytes.field bs 1 1)).map (fun l => (.bounded, some l))
  | _ => none

/-- SET_ADDRESS_BASE (R26). -/
def setAddressBase (bs : List Byte) : Option Nat := within 0 Config.maxAddressBase (Bytes.field bs 0 3)

/-- A timing source with its nominal duration in range (R57). -/
def source (kind nominal : Nat) : Option Source := do
  let nominal ← within 100 5000 nominal
  match kind with
  | 0 => return { kind := .internal, nominal }
  | 1 => return { kind := .external, nominal }
  | _ => none

/-- A parameter that is named must have a value; one that is not named has none. -/
def named {α : Type} (isNamed : Bool) (value : Option α) : Option (Option α) :=
  if isNamed then value.map some else some none

/-- SET_TIMING: the parameters named, each in range (R57). The fields of the others are ignored. -/
def setTiming (bs : List Byte) : Option Staged := do
  let flags : Byte := bs.getD 0 0
  let length ← named (flags.getLsbD 0) (within 8 128 (Bytes.field bs 1 1))
  let ackDelay ← named (flags.getLsbD 1) (within 1 4 (Bytes.field bs 2 1))
  let src ← named (flags.getLsbD 2) (source (Bytes.field bs 3 1) (Bytes.field bs 4 2))
  return { length, ackDelay, source := src }

/-- SET_POLICY: the level and a full row (R112). -/
def setPolicy (bs : List Byte) : Option (Nat × PolicyRow) := do
  let level ← below 4 (Bytes.field bs 0 1)
  let maxAttempts ← within 1 7 (Bytes.field bs 1 1)
  let backoff ← [2, 3, 4, 5, 6, 7].mapM (fun i => within 0 15 (Bytes.field bs i 1))
  let lifetime ← within 1 65535 (Bytes.field bs 8 2)
  let repeats ← within 1 7 (Bytes.field bs 10 1)
  return (level, { maxAttempts, backoff, lifetime, repeats })

/-- SET_REACH: U and P (R113). -/
def setReach (bs : List Byte) : Option (Nat × Nat) := do
  let u ← within 1 255 (Bytes.field bs 0 1)
  let p ← within 1 255 (Bytes.field bs 1 1)
  return (u, p)

/-- PLAN_SET: the plan number and every field (R118). -/
def planSet (bs : List Byte) : Option (Nat × Plan) := do
  let number ← below 64 (Bytes.field bs 0 1)
  let block ← within 0 4095 (Bytes.field bs 4 2)
  let retry ← within 0 4095 (Bytes.field bs 6 2)
  let priority ← [8, 9, 10, 11].mapM (fun i => within 16 64 (Bytes.field bs i 1))
  let group ← within 0 16 (Bytes.field bs 12 1)
  let expiry ← within 0 16 (Bytes.field bs 13 1)
  let cap ← within 1 16777215 (Bytes.field bs 14 3)
  return (number, { base := Bytes.field bs 2 2, block, retry, priority, group, expiry, cap, allowance := Bytes.field bs 18 2 })

/-- PLAN_READ (R119). -/
def planRead (bs : List Byte) : Option Nat := below 64 (Bytes.field bs 0 1)

/-- TOP_UP: subscriber and an amount above 0 (R133). -/
def topUp (bs : List Byte) : Option (Nat × Nat) := do
  let sub ← subscriber bs 0
  let amount ← within 1 Config.max32 (Bytes.field bs 3 4)
  return (sub, amount)

/-- ADJUST: subscriber and a signed amount (R134). -/
def adjust (bs : List Byte) : Option (Nat × Int) := do
  let sub ← subscriber bs 0
  return (sub, (BitVec.ofNat 32 (Bytes.field bs 3 4)).toInt)

/-- SET_NOTICES (R145). -/
def setNotices (bs : List Byte) : Option NoticeSelection :=
  match Bytes.field bs 0 1 with
  | 0 => some .all
  | 1 => some .failuresAndReplies
  | 2 => some .none
  | _ => none

/-- SET_ZONE: zone, ENABLE or DISABLE, and a neighbour set without the zone itself (R148). -/
def setZone (bs : List Byte) : Option (Nat × Bool × ZoneSet) := do
  let zone ← below 16 (Bytes.field bs 0 1)
  let enable ← (match Bytes.field bs 1 1 with
    | 1 => some true
    | 2 => some false
    | _ => none)
  let neighbours : ZoneSet := BitVec.ofNat 16 (Bytes.field bs 2 2)
  if neighbours.getLsbD zone then none else return (zone, enable, neighbours)

/-- ZONE_RESTORE (R149). -/
def zoneRestore (bs : List Byte) : Option Nat := below 16 (Bytes.field bs 0 1)

/-- One condition byte of SET_FAULT_HANDLING (12.2). -/
def conditionSetting (b : Byte) : ConditionSetting :=
  { detect := b.getLsbD 0, notice := b.getLsbD 1, severity := if b.getLsbD 2 then .serviceLoss else .advisory }

/-- SET_FAULT_HANDLING: the full settings (R153). -/
def setFaultHandling (bs : List Byte) : Option FaultSettings := do
  let t ← within 1 15 (Bytes.field bs 5 1)
  let s ← within 4 255 (Bytes.field bs 6 1)
  return { conditions :=
             { untaken := conditionSetting (bs.getD 0 0), fwdFrameError := conditionSetting (bs.getD 1 0),
               revFrameError := conditionSetting (bs.getD 2 0), revSilent := conditionSetting (bs.getD 3 0),
               refUnlock := conditionSetting (bs.getD 4 0) },
           untakenLimit := t, silenceLimit := s }

/-- CLEAR_FAULTS: zone and conditions (R155). Bits 5 to 7 are unused. -/
def clearFaults (bs : List Byte) : Option (Nat × FaultSet) := do
  let zone ← below 16 (Bytes.field bs 0 1)
  return (zone, BitVec.ofNat 5 (Bytes.field bs 1 1))

/-- The ten sections of STATUS (R165). -/
inductive Section where
  | summary | store | cache | air | assembly
  | zone (zone : Nat)
  | retry | charging | log | host
deriving DecidableEq, Repr

/-- STATUS: the section, and the zone of the ZONE section (R165). -/
def status (bs : List Byte) : Option Section :=
  match Bytes.field bs 0 1 with
  | 0 => some .summary
  | 1 => some .store
  | 2 => some .cache
  | 3 => some .air
  | 4 => some .assembly
  | 5 => (below 16 (Bytes.field bs 1 1)).map .zone
  | 6 => some .retry
  | 7 => some .charging
  | 8 => some .log
  | 9 => some .host
  | _ => none

/-! ### Zone frames (12.6): none is a bad frame -/

/-- TAKEN: the launch frame count, where the body is 8 bytes and names its own link. -/
def taken (link : Nat) (bs : List Byte) : Option Word32 :=
  if bs.length = 8 ∧ Bytes.field bs 0 1 = link then some (BitVec.ofNat 32 (Bytes.field bs 4 4)) else none

/-- REJECT: as TAKEN, with the reason CORRUPT. -/
def reject (link : Nat) (bs : List Byte) : Option Word32 :=
  if bs.length = 8 ∧ Bytes.field bs 0 1 = link ∧ Bytes.field bs 1 1 = 1
  then some (BitVec.ofNat 32 (Bytes.field bs 4 4)) else none

/-- STATE: LOCKED or UNLOCKED (R90). -/
def stateReport (link : Nat) (bs : List Byte) : Option ReferenceState :=
  if bs.length = 4 ∧ Bytes.field bs 0 1 = link then
    match Bytes.field bs 1 1 with
    | 1 => some .locked
    | 2 => some .unlocked
    | _ => none
  else none

/-- One item of a window report as received (12.6): a unit address, and for an ACK the tag and code. -/
structure WindowItem where
  kind : ItemKind
  address : Nat
  tag : BitVec 4
  code : Nat
deriving DecidableEq, Repr

/-- The item at an offset of a WINDOW body; the tag and code of a REGISTER are ignored (R91). -/
def windowItem (bs : List Byte) (at_ : Nat) : Option WindowItem := do
  let address := Bytes.field bs (at_ + 1) 3
  match Bytes.field bs at_ 1 with
  | 1 =>
    let tag ← below 16 (Bytes.field bs (at_ + 4) 1)
    let code ← below 16 (Bytes.field bs (at_ + 5) 1)
    return { kind := .ack, address, tag := BitVec.ofNat 4 tag, code }
  | 2 => return { kind := .register, address, tag := 0, code := 0 }
  | _ => none

/-- WINDOW: the window frame count and the items; none if a single item is out of range (R91). -/
def window (link : Nat) (bs : List Byte) : Option (Word32 × List WindowItem) :=
  if 8 ≤ bs.length ∧ Bytes.field bs 0 1 = link ∧ Bytes.field bs 1 1 ≤ 32 ∧ bs.length = 8 + 6 * Bytes.field bs 1 1 then
    ((List.range (Bytes.field bs 1 1)).mapM (fun i => windowItem bs (8 + 6 * i))).map
      (fun items => (BitVec.ofNat 32 (Bytes.field bs 2 4), items))
  else none

/-- Which of the two links' directions a bad frame is charged to (R84). -/
inductive BadFrame where
  | forward
  | reverse
  | unattributed
deriving DecidableEq, Repr

/-- A frame is attributed by its KIND byte as received (R84). -/
def attribution (kind : Option Byte) : BadFrame :=
  match kind with
  | none => .unattributed
  | some k =>
    if k = 0x43 ∨ k = 0x44 ∨ k = 0x45 then .forward else if k = 0x46 then .reverse else .unattributed

/-- What is wrong with a frame received on a zone link, none if it is good (R83, R84). A LENGTH above 508 discards the frame
before its KIND arrives (log 18). -/
def badFrame (link : Nat) (f : ZoneFrameIn) : Option BadFrame :=
  if Config.maxBody < f.length.toNat then some .unattributed
  else if f.check ≠ frameCheck f.kind f.tag f.body then some (attribution (some f.kind))
  else
    let good :=
      if f.kind = 0x43 then (taken link f.body).isSome
      else if f.kind = 0x44 then (reject link f.body).isSome
      else if f.kind = 0x45 then (stateReport link f.body).isSome
      else if f.kind = 0x46 then (window link f.body).isSome
      else false
    if good then none else some (attribution (some f.kind))

end Sys2Proof.Machine.Operands
end

