-- ==== Sys2Proof/Machine/Ops.lean ====
section
/-! DEFINITION. The operations every unit shares: replacing one unit's state, making replies and notices, starting the host
transmitter, and the reply places (chapter 10). -/

namespace Sys2Proof.Machine

/-- What a meaning answers. -/
abbrev Result := Host.Outcome State Fault Refusal

/-! ### Replacing one part of the state -/

/-- Replaces the waiting commands. -/
def State.withPending (s : State) (v : List Instr) : State := { s with pending := v }
/-- Replaces record memory. -/
def State.withMem (s : State) (v : List Host.Cell) : State := { s with mem := v }
/-- Replaces the Link Interface. -/
def State.withLink (s : State) (v : Link) : State := { s with link := v }
/-- Replaces the Intake Unit. -/
def State.withIntake (s : State) (v : Intake) : State := { s with intake := v }
/-- Replaces the Message Store. -/
def State.withStore (s : State) (v : Store) : State := { s with store := v }
/-- Replaces the Record Cache. -/
def State.withCache (s : State) (v : Cache) : State := { s with cache := v }
/-- Replaces the Air Timer. -/
def State.withTimer (s : State) (v : Timer) : State := { s with timer := v }
/-- Replaces the Frame Assembler. -/
def State.withAssembler (s : State) (v : Assembler) : State := { s with assembler := v }
/-- Replaces the Zone Link Unit. -/
def State.withZoneLinks (s : State) (v : ZoneLinks) : State := { s with zoneLinks := v }
/-- Replaces the Zone Monitor. -/
def State.withMonitor (s : State) (v : Monitor) : State := { s with monitor := v }
/-- Replaces the Retry Unit. -/
def State.withRetry (s : State) (v : Retry) : State := { s with retry := v }
/-- Replaces the Charging Unit. -/
def State.withCharging (s : State) (v : Charging) : State := { s with charging := v }
/-- Replaces the Billing Log. -/
def State.withLog (s : State) (v : BillingLog) : State := { s with log := v }

/-! ### The host transmitter -/

/-- A free transmitter takes the oldest ready reply, else the oldest notice; none while a break lasts (R164, R159). -/
def Link.startSending (l : Link) : Link :=
  if l.inBreak then l
  else
    match l.sending with
    | .reply _ _ => l
    | .notice _ => l
    | .idle =>
      match l.ready with
      | (place, r) :: rest => { l with ready := rest, sending := .reply place r }
      | [] =>
        match l.notices with
        | n :: rest => { l with notices := rest, sending := .notice n }
        | [] => l

/-- The number of notices the notice queue holds, the one being sent among them (R163). -/
def Link.noticeCount (l : Link) : Nat :=
  l.notices.length + (match l.sending with
    | .notice _ => 1
    | .reply _ _ => 0
    | .idle => 0)

/-- Raises the dropped count of a notice's kind (R163). -/
def NoticeCounts.drop (c : NoticeCounts) : NoticeBody → NoticeCounts
  | .outcome .. => { c with outcome := c.outcome + 1 }
  | .fault .. => { c with fault := c.fault + 1 }
  | .logHigh .. => { c with logHigh := c.logHigh + 1 }
  | .airHold .. => { c with airHold := c.airHold + 1 }
  | .airResume .. => { c with airResume := c.airResume + 1 }
  | .recordFault .. => { c with recordFault := c.recordFault + 1 }
  | .congestion .. => { c with congestion := c.congestion + 1 }

/-- Offers a notice: it takes the next number, and is queued if a place is free, else dropped and counted (R163). -/
def Link.offerNotice (l : Link) (body : NoticeBody) : Link :=
  let numbered := { l with nextNotice := nextNumber l.nextNotice }
  if l.noticeCount < Config.noticePlaces then
    Link.startSending { numbered with notices := l.notices ++ [{ number := l.nextNotice, body }] }
  else { numbered with counts := { l.counts with dropped := l.counts.dropped.drop body } }

/-- Offers a notice. -/
def State.notice (body : NoticeBody) (s : State) : State := s.withLink (s.link.offerNotice body)

/-! ### Reply places -/

/-- The places in use: set aside for an order that is taken or that still waits, ready, or being sent (R162). -/
def Link.placesInUse (l : Link) : List Nat :=
  l.orders.filterMap Order.place ++ l.taken.map TakenOrder.place ++ l.ready.map Prod.fst ++ (match l.sending with
    | .reply place _ => [place]
    | .notice _ => []
    | .idle => [])

/-- The number of free reply places (R162). -/
def Link.freePlaces (l : Link) : Nat := Config.replyPlaces - l.placesInUse.length

/-- The free reply places, in the order in which they are given. -/
def Link.freeList (l : Link) : List Nat :=
  ((List.range Config.replyPlaces).filter (fun p => !l.placesInUse.contains p)).take l.freePlaces

/-- The number of replies made and not fully sent, the one being sent among them (R159). -/
def Link.repliesHeld (l : Link) : Nat :=
  l.ready.length + (match l.sending with
    | .reply _ _ => 1
    | .notice _ => 0
    | .idle => 0)

/-- Makes the reply of a taken order: it joins the ready replies, or is discarded if a link reset has marked it (R162, R159). -/
def Link.makeReply (l : Link) (place : Nat) (code : ReplyCode) (body : ReplyBody) : Link :=
  match l.taken.find? (fun t => t.place == place) with
  | none => l
  | some t =>
    let others := l.taken.filter (fun u => decide (u.place ≠ place))
    if t.marked then
      { l with taken := others, counts := { l.counts with repliesDiscarded := l.counts.repliesDiscarded + 1 } }
    else
      Link.startSending
        { l with taken := others, ready := l.ready ++ [(place, { kind := t.kind.code, tag := t.tag, code, body })] }

/-- A request posted by an order of the Record Cache (R30). -/
def RequestKind.isHostOrder : RequestKind → Bool
  | .readSub .. | .writeSub .. | .repairSub .. => true
  | .intakeRead | .memberRead | .settlementRead | .topUpRead | .adjustRead | .reachRead .. | .touch | .update _ => false

end Sys2Proof.Machine
end

