-- ==== Sys2Proof/Machine/MessageStore.lean ====
section
/-! DEFINITION. The Message Store's shared operations: free lists, bodies, entries, occupancy and congestion (R1 to R5, R10). -/

namespace Sys2Proof.Machine

/-! ### Free lists (R4, log 34) -/

/-- The number of slots on a free list. -/
def FreeList.length (f : FreeList) : Nat := (f.size - f.next) + f.returned.length

/-- The slot at the head of a free list, and the list without it. -/
def FreeList.take (f : FreeList) : Option (Nat × FreeList) :=
  if f.next < f.size then some (f.next, { f with next := f.next + 1 })
  else
    match f.returned with
    | [] => none
    | n :: rest => some (n, { f with returned := rest })

/-- A slot returned to the tail of a free list. -/
def FreeList.give (f : FreeList) (n : Nat) : FreeList := { f with returned := f.returned ++ [n] }

/-! ### Bodies and entries -/

/-- The body in a slot, none where the slot is free. -/
def Store.body (t : Store) (n : Nat) : Option Body := Table.get none t.bodies n

/-- Replaces a body slot. -/
def Store.setBody (t : Store) (n : Nat) (v : Option Body) : Store := { t with bodies := Table.set none t.bodies n v }

/-- The live entry in a slot, none where the slot is free. -/
def Store.entry (t : Store) (n : Nat) : Option Entry := Table.get none t.entries n

/-- Replaces an entry slot. -/
def Store.setEntry (t : Store) (n : Nat) (v : Option Entry) : Store := { t with entries := Table.set none t.entries n v }

/-- Changes a live entry. -/
def Store.changeEntry (t : Store) (n : Nat) (f : Entry → Entry) : Store :=
  match t.entry n with
  | none => t
  | some e => t.setEntry n (some (f e))

/-- The live entries, by number. -/
def Store.live (t : Store) : List (Nat × Entry) :=
  Table.filled t.entries

/-- The entries available to a new allocation (R4). -/
def Store.available (t : Store) : Nat := t.freeEntries.length - t.setAside

/-- A live entry names the subscriber (R44). -/
def Store.names (t : Store) (sub : Nat) : Bool := t.live.any (fun p => p.2.sub == sub)

/-- The lower of two slots. -/
def lowerSlot (best : Option (Nat × Body)) (p : Nat × Body) : Option (Nat × Body) :=
  match best with
  | none => some p
  | some q => if p.1 < q.1 then some p else some q

/-- The slot whose body carries a message number (R22, R23): 0 names no message. Of two bodies that carry one number after the counter
has wrapped, the one in the lowest slot (log 43). -/
def Store.findMessage (t : Store) (m : Word32) : Option (Nat × Body) :=
  if m = 0 then none
  else ((Table.filled t.bodies).filter (fun p => decide (p.2.message = some m))).foldl lowerSlot none

/-- Puts a numbered entry in a list that rises by admission sequence. -/
def insertByAdmission (p : Nat × Entry) : List (Nat × Entry) → List (Nat × Entry)
  | [] => [p]
  | q :: rest => if p.2.admission < q.2.admission then p :: q :: rest else q :: insertByAdmission p rest

/-- The live entries of a body, in admission sequence order (R22, R23). -/
def Store.entriesOf (t : Store) (body : Nat) : List (Nat × Entry) :=
  (t.live.filter (fun p => p.2.body == body)).foldl (fun l p => insertByAdmission p l) []

/-- Changes a live entry of the machine. -/
def State.changeEntry (n : Nat) (f : Entry → Entry) (s : State) : State := s.withStore (s.store.changeEntry n f)

/-! ### Occupancy and congestion (R4, R5) -/

/-- The occupancy count changes; the congestion level is re-evaluated, and a change of it queues a CONGESTION notice that
carries the new level, the count and the effective admission level that results (R5). -/
def State.setOccupancy (n : Nat) (s : State) : State :=
  let level := congestionAfter s.store.congestion n
  let changed := s.withStore { s.store with occupancy := n, congestion := level }
  if level = s.store.congestion then changed
  else changed.notice (.congestion level n changed.effectiveLevel)

/-- Takes a body slot for clamped content (R10, R14). -/
def Store.takeBody (t : Store) (m : Submission) (message : Option Word32) (references : Nat) (inSubmission : Bool) :
    Option (Nat × Store) :=
  t.freeBodies.take.map (fun p =>
    (p.1, { t with freeBodies := p.2, bodies := Table.set none t.bodies p.1 (some
      { message, encoding := m.encoding, content := m.content, references, inSubmission }) }))

/-- A body with count 0 and its mark clear is cleared and returned to the tail of the free list (R1). -/
def Store.releaseIfUnused (t : Store) (n : Nat) : Store :=
  match t.body n with
  | none => t
  | some b =>
    if b.references = 0 ∧ b.inSubmission = false then
      { t.setBody n none with freeBodies := t.freeBodies.give n }
    else t

/-- Lowers a body's reference count by one (R1, R130). -/
def Store.lowerReferences (t : Store) (n : Nat) : Store :=
  match t.body n with
  | none => t
  | some b => (t.setBody n (some { b with references := b.references - 1 })).releaseIfUnused n

/-- Frees an entry: its fields are cleared, it joins the tail of the free list and the occupancy falls by one (R4). -/
def State.freeEntry (n : Nat) (s : State) : State :=
  match s.store.entry n with
  | none => s
  | some _ =>
    (s.withStore { s.store.setEntry n none with freeEntries := s.store.freeEntries.give n }).setOccupancy
      (s.store.occupancy - 1)

/-- The policy row of a level (R112). -/
def Retry.row (r : Retry) (level : Nat) : PolicyRow :=
  r.policy.getD level { maxAttempts := 1, backoff := [], lifetime := 1, repeats := 1 }

/-- An entry as R2 fills it at creation; filing sets its state and retry-at (R11). -/
def newEntry (s : State) (sub body : Nat) (group : Option Nat) (level blocks reservation : Nat) (downgraded : Bool) : Entry :=
  { sub, body, group, originalLevel := level, level, admission := s.store.nextAdmission, admissionCycle := s.timer.cycle,
    expiryCycle := s.timer.cycle + BitVec.ofNat 32 (s.retry.row level).lifetime,
    maxAttempts := (s.retry.row level).maxAttempts, repeats := (s.retry.row level).repeats, reservation, blocks, downgraded,
    state := .queued }

/-- Creates an entry: it takes the head of the entry free list and the next admission sequence, and the occupancy rises by
one (R10, steps 3 and 4). None where no entry is free. -/
def State.createEntry (e : Entry) (s : State) : Option (Nat × State) :=
  s.store.freeEntries.take.map (fun p =>
    let stored := s.withStore { s.store with
      freeEntries := p.2, entries := Table.set none s.store.entries p.1 (some e),
      nextAdmission := s.store.nextAdmission + 1 }
    (p.1, stored.setOccupancy (s.store.occupancy + 1)))

end Sys2Proof.Machine
end

