-- ==== Sys2Proof/Machine/RecordCache.lean ====
section
/-! DEFINITION. The Record Cache's shared operations: sets, lines and LRU marks, the period roll, updates and write policies,
misses, posting a request and the non-waiting read (R28 to R41). Serving the queue is in Serve.lean. -/

namespace Sys2Proof.Machine

/-! ### Records (R25, R28, R33) -/

/-- The lazy period roll, where the period has changed (R28). -/
def Record.roll (period : Word16) (r : Record) : Record :=
  if r.period = period then r else { r with period, messages := 0, allowanceUsed := 0, charges := 0 }

/-- What a posted update changes (R33, R70, R99, R104). -/
def Update.apply (u : Update) (r : Record) : Record :=
  match u with
  | .placement tag probe => { r with airTag := tag, nextProbe := probe.getD r.nextProbe }
  | .reverseItem zone => { r with lastZone := some zone, misses := 0, unreachable := false }
  | .deadlineMiss limit =>
    let misses := min 255 (r.misses + 1)
    { r with misses, unreachable := r.unreachable || decide (limit ≤ misses) }

/-- A record as INIT_RECORDS and REPAIR_SUB write it: the part-owned values of R25, the current period. -/
def Record.fresh (host : HostFields) (balance : Nat) (period : Word16) : Record :=
  { host, lastZone := none, airTag := 0, misses := 0, unreachable := false, exhausted := false, live := 0, nextProbe := 0,
    balance, reserved := 0, charges := 0, period, messages := 0, allowanceUsed := 0 }

/-- The host-owned fields INIT_RECORDS writes (R24). -/
def HostFields.default : HostFields :=
  { status := .closed, account := .postpaid, plan := 0, capability := .toneOnly, mode := .oneWay, homeZone := 0 }

/-- The contents of a line are valid (R29). -/
def LineState.valid : LineState → Bool
  | .clean | .dirty | .casting => true
  | .invalid | .filling => false

/-- A holding read (R31). -/
def RequestKind.isHolding : RequestKind → Bool
  | .intakeRead | .memberRead | .settlementRead | .topUpRead | .adjustRead => true
  | .reachRead .. | .touch | .update _ | .readSub .. | .writeSub .. | .repairSub .. => false

/-- A placement update, which is never held at its requester (R30). -/
def RequestKind.isPlacement : RequestKind → Bool
  | .update (.placement ..) => true
  | .update (.reverseItem _) | .update (.deadlineMiss _) => false
  | .intakeRead | .memberRead | .settlementRead | .topUpRead | .adjustRead | .reachRead .. | .touch | .readSub ..
  | .writeSub .. | .repairSub .. => false

/-- A request that is served in the act that brings its turn, so that the next of its subscriber has its turn at once: an update, a reach
read, a touch, and a READ_SUB that has joined a fill. The others are served by steps of their own (log 10). -/
def RequestKind.servedInPassing : RequestKind → Bool
  | .update _ | .reachRead .. | .touch | .readSub _ .joined => true
  | .intakeRead | .memberRead | .settlementRead | .topUpRead | .adjustRead | .readSub _ .posted | .readSub _ .reading
  | .writeSub .. | .repairSub .. => false

/-- A request posted by the Retry Unit, whose work waits while one is held (R30, R104). -/
def RequestKind.isRetry : RequestKind → Bool
  | .update (.reverseItem _) | .update (.deadlineMiss _) | .reachRead .. => true
  | .update (.placement ..) => false
  | .intakeRead | .memberRead | .settlementRead | .topUpRead | .adjustRead | .touch | .readSub .. | .writeSub ..
  | .repairSub .. => false

namespace Cache

/-! ### Sets, ways and lines (R29) -/

/-- The set of a subscriber. -/
def setOf (n : Nat) : Nat := n % 256
/-- The tag of a subscriber. -/
def tagOf (n : Nat) : Nat := n / 256
/-- The subscriber a line of a set and tag holds. -/
def subOf (set tag : Nat) : Nat := tag * 256 + set
/-- The number of a line: the sweep's order, set 0 way 0 first (R46). -/
def index (set way : Nat) : Nat := 2 * set + way

/-- A line of a subscriber's set. -/
def line (c : Cache) (n way : Nat) : Line := Table.get {} c.lines (index (setOf n) way)

/-- Replaces a line of a subscriber's set. -/
def setLine (c : Cache) (n way : Nat) (l : Line) : Cache :=
  { c with lines := Table.set {} c.lines (index (setOf n) way) l }

/-- The way that carries the subscriber's tag in CLEAN, DIRTY, CASTING or FILLING. -/
def holder (c : Cache) (n : Nat) : Option Nat :=
  [0, 1].find? (fun w => decide ((c.line n w).state ≠ .invalid) && decide ((c.line n w).tag = tagOf n))

/-- The way in which a line holds the subscriber in CLEAN, DIRTY or CASTING (R29). -/
def onChip (c : Cache) (n : Nat) : Option Nat :=
  match c.holder n with
  | none => none
  | some w => if (c.line n w).state.valid then some w else none

/-- A fill of the subscriber is in flight (R29). -/
def filling (c : Cache) (n : Nat) : Bool :=
  match c.holder n with
  | none => false
  | some w => decide ((c.line n w).state = .filling)

/-- The set's LRU mark: the way less recently used. -/
def lruWay (c : Cache) (n : Nat) : Nat := if Table.get 0 c.lru (setOf n) = 0 then 0 else 1

/-- The LRU mark comes to name the other way (R29). -/
def markUsed (c : Cache) (n way : Nat) : Cache := { c with lru := Table.set 0 c.lru (setOf n) (1 - way) }

/-! ### Memory operations (R36) -/

/-- Issues an operation at the record memory port. -/
def issue (c : Cache) (op : PortOp) : Cache := { c with port := c.port ++ [op] }

/-- Issues a write that counts as a memory write: castout, write-back, through write (R36). -/
def issueWrite (c : Cache) (op : PortOp) : Cache :=
  { c.issue op with counts := { c.counts with memoryWrites := c.counts.memoryWrites + 1 } }

/-- Issues a fill read, counted (R36). -/
def issueFill (c : Cache) (n way : Nat) : Cache :=
  { c.issue (.fill n way) with counts := { c.counts with fills := c.counts.fills + 1 } }

/-! ### Write policies (R39, R40) -/

/-- Handles one update carried out on a line, its record already changed, under the write policy in force. -/
def afterUpdate (c : Cache) (n way : Nat) : Cache :=
  let l := c.line n way
  let raised := if l.state = .dirty then l.deferral + 1 else 1
  match c.policy with
  | .through => (c.setLine n way { l with state := .clean, deferral := 0 }).issueWrite (.throughWrite n l.record)
  | .deferred => c.setLine n way { l with state := .dirty, deferral := min 15 raised }
  | .bounded =>
    if c.limit ≤ raised then
      (c.setLine n way { l with state := .casting, deferral := 0 }).issueWrite (.writeBack n l.record false)
    else c.setLine n way { l with state := .dirty, deferral := raised }

/-- One update of a line: the change, then the write policy (R33). -/
def change (c : Cache) (n way : Nat) (f : Record → Record) : Cache :=
  let l := c.line n way
  (c.setLine n way { l with record := f l.record }).afterUpdate n way

/-- One access to a line: the roll if one is due, as an update of its own, and the LRU mark (R28, R29). -/
def access (c : Cache) (period : Word16) (n way : Nat) : Cache :=
  let rolled := if (c.line n way).record.period = period then c else c.change n way (Record.roll period)
  rolled.markUsed n way

/-- An update carried out on a line: the roll first, then the change (R33). -/
def carryOut (c : Cache) (period : Word16) (n way : Nat) (f : Record → Record) : Cache :=
  (c.access period n way).change n way f

/-! ### Turns, holds and places (R30, R31) -/

/-- The first request of a subscriber in the queue. -/
def front (c : Cache) (n : Nat) : Option Request := c.queue.find? (fun r => r.sub == n)

/-- The queue without the first request of a subscriber. -/
def withoutFront (c : Cache) (n : Nat) : Cache := { c with queue := c.queue.eraseP (fun r => r.sub == n) }

/-- A hold stands on the subscriber. -/
def isHeld (c : Cache) (n : Nat) : Bool := c.holds.contains n

/-- An earlier request of the subscriber is not yet served, in the queue or at its requester (log 37). A placement update is never
held, so one that joins the queue is served before an earlier request still held (log 54). -/
def hasEarlier (c : Cache) (n : Nat) : Bool :=
  c.queue.any (fun r => r.sub == n) || c.heldRequests.any (fun r => r.sub == n)

/-- INIT_RECORDS has still to write the subscriber's default record (R45). -/
def sweepAhead (c : Cache) (n : Nat) : Bool :=
  match c.sweep with
  | some (.records _ next last _) => decide (next ≤ n) && decide (n ≤ last)
  | some (.lines ..) => false
  | none => false

/-- A request waits for its default record to be written (R45). -/
def waitsForSweep (c : Cache) (r : Request) : Bool := r.behindSweep && c.sweepAhead r.sub

/-- A subscriber's line is pinned: a hold stands, or a request of it is being served or is next (R34, log 10). A request that
waits for its default record to be written pins nothing: it is served through a fill (R45). -/
def pinned (c : Cache) (n : Nat) : Bool := c.isHeld n || c.queue.any (fun r => r.sub == n && !c.waitsForSweep r)

/-- A holding read whose turn has come and whose line is there: it is served on the spot and takes no place (log 10). -/
def readyToHold (c : Cache) (r : Request) : Bool :=
  r.kind.isHolding && decide (c.front r.sub = some r) && !c.isHeld r.sub && (c.onChip r.sub).isSome && !c.waitsForSweep r

/-- A request in its turn would be served now: no hold stands, no default record is still to be written, and a line holds its subscriber,
or it is a host record order, which needs no line, and no fill is in flight (R30). -/
def canServe (c : Cache) (r : Request) : Bool :=
  !c.isHeld r.sub && !c.waitsForSweep r && ((c.onChip r.sub).isSome || (r.kind.isHostOrder && !c.filling r.sub))

/-- The places a list of requests takes, in their order: one for each that waits, and none for one that can be served now (R30, log 10).
`blocked` are the subscribers whose later requests wait behind an earlier one. -/
def placesTaken (c : Cache) : (blocked : List Nat) → List Request → Nat
  | _, [] => 0
  | blocked, r :: rest =>
    if blocked.contains r.sub then c.placesTaken blocked rest + 1
    else if c.canServe r then c.placesTaken (if r.kind.servedInPassing then blocked else r.sub :: blocked) rest
    else c.placesTaken (r.sub :: blocked) rest + 1

/-- The places of the posted-request queue taken (R30). -/
def occupancy (c : Cache) : Nat := c.placesTaken [] c.queue

/-- The queue counts as full while 128 or more requests occupy it (R30). -/
def isFull (c : Cache) : Bool := decide (Config.requestPlaces ≤ c.occupancy)

/-- A request that comes now would take a place: it waits for an earlier request, held or queued, or for what it needs (R30). -/
def takesPlace (c : Cache) (r : Request) : Bool :=
  c.heldRequests.any (fun q => q.sub == r.sub) || decide (c.occupancy < c.placesTaken [] (c.queue ++ [r]))

/-! ### Misses (R34 to R36) -/

/-- A way may be taken as a victim: CLEAN or DIRTY and not pinned. -/
def canTake (c : Cache) (n way : Nat) : Bool :=
  let l := c.line n way
  (decide (l.state = .clean) || decide (l.state = .dirty)) && !c.pinned (subOf (setOf n) l.tag)

/-- The victim of a miss of this subscriber (R34). -/
def victim (c : Cache) (n : Nat) : Option Nat :=
  if (c.line n 0).state = .invalid then some 0
  else if (c.line n 1).state = .invalid then some 1
  else if c.canTake n (c.lruWay n) then some (c.lruWay n)
  else if c.canTake n (1 - c.lruWay n) then some (1 - c.lruWay n)
  else none

/-- A miss takes this way: the castout of a DIRTY victim is issued, then the fill read, and the way becomes FILLING (R36). -/
def takeWay (c : Cache) (n way : Nat) : Cache :=
  let l := c.line n way
  let out :=
    if l.state = .dirty then c.issueWrite (.castout (subOf (setOf n) l.tag) l.record) else c
  let filled := (out.issueFill n way).setLine n way { l with state := .filling, tag := tagOf n, deferral := 0 }
  { filled with fills := c.fills ++ [{ sub := n, way }] }

/-- A miss proceeds if a place of the miss list is free and a victim can be taken (R35). -/
def startMiss (c : Cache) (n : Nat) : Cache :=
  if c.fills.length < Config.missPlaces then
    match c.victim n with
    | none => c
    | some way => c.takeWay n way
  else c

/-- A request's subscriber is absent and it is its turn to start a miss: it is the first of its subscriber, no host record order,
and neither a hold nor a sweep stands in its way. A read or update behind a host record order in progress waits until it is the first
(R30; log 46). -/
def wantsMiss (c : Cache) (r : Request) : Bool :=
  decide (c.front r.sub = some r) && !r.kind.isHostOrder && (c.holder r.sub).isNone && !c.isHeld r.sub && !c.waitsForSweep r

/-- The waiting misses are tried in the order in which their requests were posted (R35). -/
def tryMisses (c : Cache) : Cache :=
  c.queue.foldl (fun c r => if c.wantsMiss r then c.startMiss r.sub else c) c

/-- A request joins the queue. If it is its turn to start a miss, it is tried at once, behind the misses that wait already (R30, R35). -/
def enqueue (c : Cache) (r : Request) : Cache :=
  let joined := { c with queue := c.queue ++ [r] }
  if joined.wantsMiss r then joined.tryMisses else joined

/-- Admits at most so many of the requests held by a full queue, in the order they were made, while places are free (R30). -/
def admitUpTo : Nat → Cache → Cache
  | 0, c => c
  | fuel + 1, c =>
    match c.heldRequests with
    | [] => c
    | r :: rest => if c.isFull then c else (enqueue { c with heldRequests := rest } r).admitUpTo fuel

/-- The Record Cache as a new request finds it: the requests held before it have been admitted, as far as places are free (R30). -/
def admitted (c : Cache) : Cache := c.admitUpTo c.heldRequests.length

/-- A full queue holds this request at its requester: it would take a place, and it is no placement update (R30). -/
def holdsBack (c : Cache) (r : Request) : Bool := c.isFull && !r.kind.isPlacement && c.takesPlace r

end Cache

/-! ### Posting a request (R30) -/

/-- The answer a reach read takes to the Retry Unit (R106). -/
def reachAnswer (r : Record) (entry : Nat) (admission : Word32) (attempts : Nat) : ReachAnswer :=
  { entry, admission, attempts, unreachable := r.unreachable, nextProbe := r.nextProbe }

/-- An update or a reach read is served on the line that holds its subscriber (R33, R106). Other kinds change nothing here. -/
def State.serveOnLine (kind : RequestKind) (n way : Nat) (s : State) : State :=
  match kind with
  | .update u => s.withCache (s.cache.carryOut s.charging.period n way u.apply)
  | .reachRead entry admission attempts =>
    let c := s.cache.access s.charging.period n way
    (s.withCache c).withRetry
      { s.retry with answers := s.retry.answers ++ [reachAnswer (c.line n way).record entry admission attempts] }
  | .intakeRead | .memberRead | .settlementRead | .topUpRead | .adjustRead | .touch | .readSub .. | .writeSub ..
  | .repairSub .. => s

/-- Kinds served in the act of arriving, when nothing stands before them: updates and reach reads. The others join the queue (log 10). -/
def RequestKind.servedAtOnce : RequestKind → Bool
  | .update _ | .reachRead .. => true
  | .intakeRead | .memberRead | .settlementRead | .topUpRead | .adjustRead | .touch | .readSub .. | .writeSub ..
  | .repairSub .. => false

/-- The request of a kind for a subscriber, as it is made now. -/
def Cache.request (c : Cache) (n : Nat) (kind : RequestKind) : Request := { sub := n, kind, behindSweep := c.sweepAhead n }

/-- A read or update of the subscriber can be served on arrival on this way (R30). -/
def Cache.arrivesOn (c : Cache) (n : Nat) : Option Nat :=
  if c.hasEarlier n || c.isHeld n || c.sweepAhead n then none else c.onChip n

/-- Posts a request: it is served on arrival, or held at its requester by a full queue, or takes a place in the queue. The requests held
before it are admitted first (R30). -/
def State.post (n : Nat) (kind : RequestKind) (s : State) : State :=
  let c := s.cache.admitted
  match kind.servedAtOnce, c.arrivesOn n with
  | true, some way => (s.withCache c).serveOnLine kind n way
  | _, _ =>
    if c.holdsBack (c.request n kind) then s.withCache { c with heldRequests := c.heldRequests ++ [c.request n kind] }
    else s.withCache (c.enqueue (c.request n kind))

/-- A touch of the subscriber is in the queue already (R32). -/
def Cache.hasTouch (c : Cache) (n : Nat) : Bool := c.queue.any (fun r => r.sub == n && decide (r.kind = .touch))

/-- What a non-waiting read that is not served leaves: with the queue full a dropped touch, counted, and otherwise a touch, unless one of
its subscriber is queued already (R30, R32). -/
def Cache.leaveTouch (c : Cache) (n : Nat) : Cache :=
  if c.isFull then { c with counts := { c.counts with droppedTouches := c.counts.droppedTouches + 1 } }
  else if c.hasTouch n then c
  else c.enqueue (c.request n .touch)

/-- A non-waiting read: the record as served, or NOT_READY and what it leaves. The requests held before it are admitted first (R30, R32). -/
def State.nonWaitingRead (n : Nat) (s : State) : Option Record × State :=
  let c := s.cache.admitted
  match c.arrivesOn n with
  | none => (none, s.withCache (c.leaveTouch n))
  | some way =>
    let d := c.access s.charging.period n way
    (some (d.line n way).record, s.withCache d)

/-! ### Holding reads (R31) -/

/-- The holding read of this kind whose turn has come and whose line is there: its subscriber and way. -/
def State.heldTurn (kind : RequestKind) (s : State) : Option (Nat × Nat) :=
  match s.cache.queue.find? (fun r => decide (r.kind = kind)) with
  | none => none
  | some r =>
    if s.cache.readyToHold r then (s.cache.onChip r.sub).map (fun way => (r.sub, way)) else none

/-- Serves a holding read: the roll if due, the LRU mark, and a hold on the subscriber (R28, R31). -/
def State.serveHolding (n way : Nat) (s : State) : State :=
  let c := (s.cache.withoutFront n).access s.charging.period n way
  s.withCache { c with holds := n :: c.holds }

/-- The record a line holds. -/
def State.lineRecord (n way : Nat) (s : State) : Record := (s.cache.line n way).record

/-- Ends the hold on a subscriber (R31). -/
def State.release (n : Nat) (s : State) : State :=
  s.withCache { s.cache with holds := s.cache.holds.filter (fun m => decide (m ≠ n)) }

/-- A closing update: carried out on the held line at once; it ends the hold (R31). -/
def State.closingUpdate (n way : Nat) (f : Record → Record) (s : State) : State :=
  (s.withCache (s.cache.carryOut s.charging.period n way f)).release n

end Sys2Proof.Machine
end

