-- ==== Sys2Proof/Machine/ZoneService.lean ====
section
/-! DEFINITION. Shared operations of the Zone Monitor and the Zone Link Unit: recording an occurrence, the untaken run, the
silence count, sending, judging and withdrawing offers (R83 to R92, R147 to R156). -/

namespace Sys2Proof.Machine

/-- Changes one zone of the Zone Monitor. -/
def State.changeZone (z : Nat) (f : Zone → Zone) (s : State) : State :=
  s.withMonitor (s.monitor.setZone z (f (s.monitor.zone z)))

/-- Changes one zone link. -/
def State.changeZoneLink (z : Nat) (f : ZoneLink → ZoneLink) (s : State) : State :=
  s.withZoneLinks (s.zoneLinks.setZone z (f (s.zoneLinks.zone z)))

/-- Raises one of the 16 counts of a zone link. -/
def State.countZone (z : Nat) (f : ZoneLinkCounts → ZoneLinkCounts) (s : State) : State :=
  s.changeZoneLink z (fun l => { l with counts := f l.counts })

/-! ### Recording (R154) -/

/-- The zone after an occurrence is recorded: its fault set holds the condition, and a SERVICE_LOSS takes it out of service. -/
def Zone.recorded (v : Zone) (c : Condition) (severity : Severity) : Zone :=
  { v with
    faults := v.faults ||| c.bit
    state := if severity = .serviceLoss ∧ v.state = .inService then .outOfService else v.state }

/-- An occurrence is recorded: fault set, summary, notice, severity and first-fault record (R154, steps 1 to 5). -/
def State.record (z : Nat) (c : Condition) (s : State) : State :=
  let m := s.monitor
  let setting := m.settings.conditions.get c
  let before := m.zone z
  let after := before.recorded c setting.severity
  let loads := m.first.isNone
  let first := if loads then some { zone := z, condition := c, frameCount := s.timer.frameCount } else m.first
  let recorded := s.withMonitor { m.setZone z after with summary := ZoneSet.put m.summary z true, first }
  if !FaultSet.has before.faults c && setting.notice then
    recorded.notice (.fault z c s.timer.frameCount after.state loads)
  else recorded

/-- An occurrence reported for a zone: discarded for an UNCONFIGURED one, else counted, and recorded if its detect switch is ON
(R147, R154). -/
def State.occurrence (z : Nat) (c : Condition) (s : State) : State :=
  if !s.monitor.configured z then s
  else
    let counted := s.changeZone z (fun v => { v with occurrences := v.occurrences.set c (v.occurrences.get c + 1) })
    if (s.monitor.settings.conditions.get c).detect then counted.record z c else counted

/-- The UNTAKEN occurrence that a judgement reported is recorded, and the run returns to 0; the frame of that frame start has closed
before it (R150, R151; log 50). -/
def State.recordUntaken (z : Nat) (s : State) : State :=
  if (s.monitor.zone z).untakenDue then
    (s.changeZone z (fun v => { v with untakenRun := 0, untakenDue := false })).occurrence z .untaken
  else s

/-- The REV_SILENT occurrence that a frame start reported is recorded, and the count returns to 0; the frame of that frame start has
closed before it (R150, R152; log 50). -/
def State.recordSilent (z : Nat) (s : State) : State :=
  if (s.monitor.zone z).silentDue then
    (s.changeZone z (fun v => { v with silence := 0, silentDue := false })).occurrence z .revSilent
  else s

/-- The occurrences of a zone that are reported and not yet recorded are recorded, UNTAKEN before REV_SILENT (R154; logs 13 and 53). -/
def State.recordDue (z : Nat) (s : State) : State := (s.recordUntaken z).recordSilent z

/-- The occurrences still due are recorded, before the next frame start acts or a restart clears the fault state (log 13): zones rising, and
of one zone UNTAKEN before REV_SILENT. R154 lets any of them be the first; the order is the model's choice, and it decides which of them
loads an empty first-fault record (log 53). -/
def State.recordAllDue (s : State) : State := (List.range Config.zones).foldl (fun s z => s.recordDue z) s

/-- Empties conditions of a zone's fault set, with the first-fault record and the summary (R155). The mark says whether the
first-fault record was emptied. -/
def Monitor.clear (m : Monitor) (z : Nat) (conditions : FaultSet) : Monitor × Bool :=
  let v := m.zone z
  let removed := v.faults &&& conditions
  let remaining := v.faults &&& ~~~conditions
  let empties := match m.first with
    | none => false
    | some f => decide (f.zone = z) && FaultSet.has removed f.condition
  ({ m.setZone z { v with faults := remaining } with
      summary := ZoneSet.put m.summary z (decide (remaining ≠ 0))
      first := if empties then none else m.first }, empties)

/-- The judgement of an offer acts on the zone's untaken run (R151): T or more makes an UNTAKEN occurrence due. -/
def Monitor.judged (m : Monitor) (z : Nat) (taken : Bool) : Monitor :=
  let v := m.zone z
  if taken then m.setZone z { v with untakenRun := 0 }
  else
    m.setZone z { v with
      untakenRun := v.untakenRun + 1
      untakenDue := v.untakenDue || decide (m.settings.untakenLimit ≤ v.untakenRun + 1) }

/-- A frame start and one zone's silence count (R152): S or more makes a REV_SILENT occurrence due. -/
def Monitor.countSilence (m : Monitor) (z : Nat) : Monitor :=
  let v := m.zone z
  if v.state = .unconfigured then m
  else if v.arrival then m.setZone z { v with arrival := false }
  else
    m.setZone z { v with
      silence := v.silence + 1
      silentDue := v.silentDue || decide (m.settings.silenceLimit ≤ v.silence + 1) }

/-- A frame start and every zone's silence count (R152). -/
def Monitor.countAllSilence (m : Monitor) : Monitor := (List.range Config.zones).foldl Monitor.countSilence m

/-! ### Offers (R86 to R89) -/

/-- Puts a frame on a zone link. -/
def ZoneLinks.send (l : ZoneLinks) (z : Nat) (f : ZoneFrameOut) : ZoneLinks := { l with sent := l.sent ++ [(z, f)] }

/-- Sends one zone its OFFER (R86). -/
def ZoneLinks.offer (l : ZoneLinks) (z : Nat) (launch : Word32) (number : Nat) (pages : List Page) : ZoneLinks :=
  let v := l.zone z
  (l.setZone z { v with offer := .sent, launch := some launch, pages := pages.length,
                        counts := { v.counts with offersSent := v.counts.offersSent + 1 } }).send z (.offer launch number pages)

/-- The offer state back in IDLE (R88, R89). -/
def ZoneLink.idle (v : ZoneLink) : ZoneLink := { v with offer := .idle, launch := none, pages := 0 }

/-- The count a judged offer falls under (R88, R95, log 17). -/
def ZoneLink.countJudged (v : ZoneLink) : ZoneLink :=
  match v.offer with
  | .taken => { v with counts := { v.counts with taken := v.counts.taken + 1 } }
  | .rejected => { v with counts := { v.counts with rejected := v.counts.rejected + 1 } }
  | .sent => { v with counts := { v.counts with noAnswer := v.counts.noAnswer + 1 } }
  | .idle => v

/-- Judges one zone's offer if it is due at this frame start: it counts, the state returns to IDLE, and the result goes to the
Zone Monitor unless the zone is now UNCONFIGURED (R88). -/
def State.judgeOffer (g : Word32) (z : Nat) (s : State) : State :=
  let v := s.zoneLinks.zone z
  if v.offer ≠ .idle ∧ v.launch = some g then
    let judged := s.changeZoneLink z (fun v => v.countJudged.idle)
    if s.monitor.configured z then judged.withMonitor (judged.monitor.judged z (decide (v.offer = .taken))) else judged
  else s

/-- The zones that answered TAKEN to the offer due at this frame start (R88). -/
def ZoneLinks.takenSet (l : ZoneLinks) (g : Word32) : ZoneSet :=
  (List.range Config.zones).foldl
    (fun set z => if (l.zone z).offer = .taken ∧ (l.zone z).launch = some g then set ||| ZoneSet.single z else set) 0

/-- Judges every offer due at this frame start (R88). -/
def State.judgeOffers (g : Word32) (s : State) : State :=
  (List.range Config.zones).foldl (fun s z => s.judgeOffer g z) s

/-- Withdraws one zone's outstanding offer with a WITHDRAW (R89). -/
def ZoneLinks.withdraw (l : ZoneLinks) (z : Nat) : ZoneLinks :=
  let v := l.zone z
  match v.launch with
  | none => l
  | some launch =>
    if v.offer = .idle then l
    else
      (l.setZone z { v.idle with counts := { v.counts with withdrawals := v.counts.withdrawals + 1 } }).send z
        (.withdraw launch)

/-- Withdraws every outstanding offer (R89). -/
def ZoneLinks.withdrawAll (l : ZoneLinks) : ZoneLinks := (List.range Config.zones).foldl ZoneLinks.withdraw l

/-! ### Answers and reports (R84, R87, R91, R92) -/

/-- A bad frame of a link: counted, and reported as FWD_FRAME_ERROR or REV_FRAME_ERROR for a configured zone (R84, log 19). DESIGN CHOICE: a
bad STATE or WINDOW of an UNCONFIGURED zone raises the bad forward or bad reverse count alone, and not the count of frames discarded from an
UNCONFIGURED zone (log 55). -/
def State.badZoneFrame (link : Nat) (kind : Operands.BadFrame) (s : State) : State :=
  match kind with
  | .forward => (s.countZone link (fun c => { c with badForward := c.badForward + 1 })).occurrence link .fwdFrameError
  | .reverse => (s.countZone link (fun c => { c with badReverse := c.badReverse + 1 })).occurrence link .revFrameError
  | .unattributed =>
    s.withZoneLinks { s.zoneLinks with unattributed := s.zoneLinks.unattributed + 1 }

/-- The forward record after an answer that names a launch frame count (R87). -/
def ZoneLink.answered (v : ZoneLink) (launch : Word32) (accepted : Bool) : ZoneLink :=
  if v.offer ≠ .idle ∧ v.launch = some launch then
    if v.offer = .sent then { v with offer := if accepted then .taken else .rejected }
    else { v with counts := { v.counts with duplicate := v.counts.duplicate + 1 } }
  else if v.offer = .idle ∨ decide (launch < v.launch.getD 0) then
    { v with counts := { v.counts with late := v.counts.late + 1 } }
  else { v with counts := { v.counts with unmatched := v.counts.unmatched + 1 } }

/-- The subscriber a unit address names, none for a foreign address (R26, R92). -/
def mapAddress (base : Option Nat) (a : Nat) : Option Nat :=
  match base with
  | none => none
  | some b => if b ≤ a ∧ a < b + Config.subscribers then some (a - b) else none

/-- Takes one item of a valid report (R92, R93). -/
def State.takeItem (zone : Nat) (i : Operands.WindowItem) (s : State) : State :=
  if s.link.partState = .config then s.countZone zone (fun c => { c with configDiscard := c.configDiscard + 1 })
  else
    match mapAddress s.cache.addressBase i.address with
    | none => s.countZone zone (fun c => { c with foreign := c.foreign + 1 })
    | some sub =>
      if s.zoneLinks.reverseQueue.length < Config.reversePlaces then
        let counted := s.countZone zone (fun c => { c with itemsTaken := c.itemsTaken + 1 })
        counted.withZoneLinks { counted.zoneLinks with
          reverseQueue := counted.zoneLinks.reverseQueue ++ [{ kind := i.kind, sub, tag := i.tag, code := i.code, zone }] }
      else s.countZone zone (fun c => { c with dropped := c.dropped + 1 })

end Sys2Proof.Machine
end

