-- ==== Sys2Proof/Machine/RetryList.lean ====
section
/-! DEFINITION. Settling an entry (R3, R124) and the Retry Unit's shared operations: the retry list's order, scheduling a retry, what
waits on a full posted-request queue, taking a launched entry (R30, R98, R104, R105, R108, R110). -/

namespace Sys2Proof.Machine

/-- The entry enters SETTLING with an outcome and joins the tail of the settle list with the cycle number of the moment
(R3, R124). -/
def State.settle (n : Nat) (outcome : EntryOutcome) (replyCode : Nat) (s : State) : State :=
  let settled := s.changeEntry n (fun e =>
    { e with state := .settling, outcome := some outcome, replyCode := some replyCode })
  settled.withCharging { settled.charging with
    settleList := settled.charging.settleList ++ [{ entry := n, outcomeCycle := s.timer.cycle }] }

/-- Changes the Retry Unit's counts. -/
def State.countRetry (f : RetryCounts → RetryCounts) (s : State) : State :=
  s.withRetry { s.retry with counts := f s.retry.counts }

/-- The admission sequence of an entry, 0 where the slot is free. -/
def Store.admissionOf (t : Store) (n : Nat) : Word32 :=
  match t.entry n with
  | none => 0
  | some e => e.admission

/-- Retry-list order: lower retry-at first, then lower admission sequence (R108). -/
def retryBefore (t : Store) (x y : RetryElement) : Bool :=
  decide (x.retryAt < y.retryAt) ||
    (decide (x.retryAt = y.retryAt) && decide (t.admissionOf x.entry < t.admissionOf y.entry))

/-- An element joins the retry list in the place its key gives; those there keep their order (R108). -/
def insertRetry (t : Store) (x : RetryElement) : List RetryElement → List RetryElement
  | [] => [x]
  | y :: rest => if retryBefore t x y then x :: y :: rest else y :: insertRetry t x rest

/-- Puts an element in the retry list; its entry is in RETRY_WAIT with that retry-at. -/
def State.joinRetryList (x : RetryElement) (s : State) : State :=
  let changed := s.changeEntry x.entry (fun e => { e with state := .retryWait, retryAt := some x.retryAt })
  changed.withRetry { changed.retry with list := insertRetry changed.store x changed.retry.list }

/-- Takes an entry out of the retry list. -/
def State.leaveRetryList (n : Nat) (s : State) : State :=
  s.withRetry { s.retry with list := s.retry.list.filter (fun x => decide (x.entry ≠ n)) }

/-- The backoff value after an entry's attempts, from the policy row of its original level as in force (R105, R112). -/
def Retry.backoff (r : Retry) (e : Entry) : Nat := (r.row e.originalLevel).backoff.getD (e.attempts - 1) 0

/-- A missed two-way entry or a one-way entry to be repeated joins the retry list with its provisional retry-at and its reach
mark set (R105, R110). -/
def State.awaitRetry (n : Nat) (missFrame cycle : Word32) (s : State) : State :=
  match s.store.entry n with
  | none => s
  | some e =>
    let retryAt := cycle + 1 + BitVec.ofNat 32 (s.retry.backoff e)
    s.joinRetryList { entry := n, sub := e.sub, tag := e.airTag, retryAt, missFrame := some missFrame, reachPending := true }

/-- Posts the reach read of a missed entry (R105, R106). -/
def State.postReachRead (n : Nat) (s : State) : State :=
  match s.store.entry n with
  | none => s
  | some e => s.post e.sub (.reachRead n e.admission e.attempts)

/-! ### Waiting on a full posted-request queue (R30, R104) -/

/-- A request of the Retry Unit is held by a full queue, and its work waits with it (R30, R104). -/
def State.retryBlocked (s : State) : Bool := s.cache.heldRequests.any (fun r => r.kind.isRetry)

/-- Replaces what the Retry Unit has still to act on. -/
def State.withAnnounced (s : State) (v : List Announced) : State := s.withRetry { s.retry with announced := v }

/-- What reaches the Retry Unit now waits: a request of it is held, or earlier events are still before it (R30, R104). -/
def State.retryWaits (s : State) : Bool := s.retryBlocked || !s.retry.announced.isEmpty

/-- An event that reaches the Retry Unit while it waits is taken afterwards, behind the items that have arrived (R104). -/
def State.holdOver (event : RetryEvent) (s : State) : State :=
  s.withAnnounced (s.retry.announced ++ [{ event, behind := some s.zoneLinks.reverseQueue.length }])

/-- The reach read of a ONE_WAY entry to be repeated is posted at once, or in its turn where the work of the Retry Unit waits (R104, R106,
R110; log 15). -/
def State.askReach (n : Nat) (s : State) : State :=
  if s.retryWaits then
    match s.store.entry n with
    | none => s
    | some e => s.holdOver (.reachRead n e.sub e.admission e.attempts)
  else s.postReachRead n

/-! ### Launched entries (R98, R110) -/

/-- A launched ONE_WAY entry is resolved at once; `cycle` is the cycle number announced with the launch frame start (R110). -/
def State.resolveOneWay (n : Nat) (launch cycle : Word32) (s : State) : State :=
  match s.store.entry n with
  | none => s
  | some e =>
    if e.repeats ≤ e.attempts ∨ e.maxAttempts ≤ e.attempts then
      (s.settle n .unconfirmed 0).countRetry (fun c => { c with unconfirmed := c.unconfirmed + 1 })
    else if e.cancelRequested then s.settle n .cancelled 0
    else ((s.awaitRetry n launch cycle).askReach n).countRetry (fun c => { c with repeats := c.repeats + 1 })

/-- The Retry Unit is handed an entry launched with a taken set: a TWO_WAY entry joins the await set with its deadline, a ONE_WAY entry is
resolved, both at the launch frame start whatever else of the unit waits (R3, R97, R98, R110; log 15). The reply mode is the one its
placement fixed (R63, R70; log 45). -/
def State.takeLaunched (p : Placed) (launch : Word32) (s : State) : State :=
  match p.mode with
  | .twoWay =>
    let changed := s.changeEntry p.entry (fun e => { e with state := .awaiting })
    let deadline := launch + BitVec.ofNat 32 s.timer.running.ackDelay + 2
    changed.withRetry { changed.retry with awaitSet := changed.retry.awaitSet ++
      [{ entry := p.entry, sub := p.sub, tag := p.tag, launch, deadline }] }
  | .oneWay => s.resolveOneWay p.entry launch s.timer.cycle

end Sys2Proof.Machine
end

