-- ==== Sys2Proof/Machine/FrameAssembly.lean ====
section
/-! DEFINITION. The Frame Assembler: filing, the walk, late arrivals, placement, aging, displacement, close, launch, withdrawal
and the reports of the Record Cache (R63 to R80). -/

namespace Sys2Proof.Machine

/-! ### Queues (R64) -/

/-- Changes the Frame Assembler's counts. -/
def State.countAssembly (f : AssemblyCounts → AssemblyCounts) (s : State) : State :=
  s.withAssembler { s.assembler with counts := f s.assembler.counts }

/-- A frame queue. -/
def Assembler.queue (a : Assembler) (k : Nat) : List Nat := Table.get [] a.queues k

/-- Replaces a frame queue. -/
def Assembler.setQueue (a : Assembler) (k : Nat) (l : List Nat) : Assembler := { a with queues := Table.set [] a.queues k l }

/-- The unit address of a subscriber (R26). -/
def Cache.unitAddress (c : Cache) (sub : Nat) : Nat := c.addressBase.getD 0 + sub

/-- The home frame of a subscriber, under the cycle length in force (R26). -/
def State.homeFrame (s : State) (sub : Nat) : Nat := s.cache.unitAddress sub % s.timer.lengthInForce

/-- Frame-queue order: lower current level first, then lower admission sequence (R64). -/
def queueBefore (t : Store) (m n : Nat) : Bool :=
  match t.entry m, t.entry n with
  | some d, some e =>
    decide (d.level < e.level) || (decide (d.level = e.level) && decide (d.admission < e.admission))
  | _, _ => false

/-- An entry joins a queue at the place its key gives; those there keep their order (R64). -/
def insertQueued (t : Store) (n : Nat) : List Nat → List Nat
  | [] => [n]
  | m :: rest => if queueBefore t n m then n :: m :: rest else m :: insertQueued t n rest

/-- Puts an entry in a queue. -/
def State.joinQueue (n k : Nat) (s : State) : State :=
  s.withAssembler (s.assembler.setQueue k (insertQueued s.store n (s.assembler.queue k)))

/-- Takes an entry out of the queue that holds it. -/
def State.leaveQueue (n : Nat) (s : State) : State :=
  match s.assembler.queues.find? (fun q => q.2.contains n) with
  | none => s
  | some q => s.withAssembler (s.assembler.setQueue q.1 (q.2.erase n))

/-- Takes an entry out of the miss-skip set (R68). -/
def State.leaveMissSkip (n : Nat) (s : State) : State :=
  s.withAssembler { s.assembler with missSkip := s.assembler.missSkip.filter (fun m => decide (m.entry ≠ n)) }

/-- What a filing comes to (R64): CANCELLED in RESTARTING, EXPIRED_LIFETIME past the lifetime, else the entry is queued. -/
def State.filingOutcome (n : Nat) (s : State) : Option EntryOutcome :=
  if s.link.partState = .restarting then some .cancelled
  else
    match s.store.entry n, s.assembler.openFrame with
    | some e, some f => if e.expiryCycle < f.cycle then some .expiredLifetime else none
    | _, _ => none

/-- Files an entry without trying it for the open frame (R64, R74). -/
def State.fileQuietly (n : Nat) (s : State) : State :=
  match s.filingOutcome n with
  | some outcome => s.settle n outcome 0
  | none =>
    match s.store.entry n with
    | none => s
    | some e => (s.changeEntry n (fun e => { e with state := .queued, retryAt := none })).joinQueue n (s.homeFrame e.sub)

/-! ### Frames (R63, R69, R70) -/

/-- The block count of a zone. -/
def Frame.block (f : Frame) (z : Nat) : Nat := Table.get 0 f.blocks z

/-- The zones of a mask that lack room for a page (R73). -/
def Frame.lacking (f : Frame) (mask : ZoneSet) (size : Nat) : ZoneSet :=
  (ZoneSet.toList mask).foldl
    (fun set z => if Config.blocksPerZone < f.block z + size then set ||| ZoneSet.single z else set) 0

/-- Every zone of the mask has room for the page (R67, step d). -/
def Frame.fits (f : Frame) (mask : ZoneSet) (size : Nat) : Bool := decide (f.lacking mask size = 0)

/-- Adds a page's size to the block count of every zone of its placed set (R70). -/
def Frame.addBlocks (f : Frame) (zones : ZoneSet) (size : Nat) : Frame :=
  { f with blocks := (ZoneSet.toList zones).foldl (fun b z => Table.set 0 b z (Table.get 0 b z + size)) f.blocks }

/-- Takes a page's size from the block count of every zone of its placed set (R74). -/
def Frame.takeBlocks (f : Frame) (zones : ZoneSet) (size : Nat) : Frame :=
  { f with blocks := (ZoneSet.toList zones).foldl (fun b z => Table.set 0 b z (Table.get 0 b z - size)) f.blocks }

/-- The subscriber's line of the tag tally. -/
def Frame.tallyOf (f : Frame) (sub : Nat) : Option Tally := f.tally.find? (fun t => t.sub == sub)

/-- The number of tags drawn for a subscriber in the frame (R63). -/
def Frame.drawn (f : Frame) (sub : Nat) : Nat :=
  match f.tallyOf sub with
  | none => 0
  | some t => t.drawn

/-- The next air tag of a subscriber: one more, modulo 16, than the tally's last, or than the record's (R70). -/
def Frame.nextTag (f : Frame) (sub : Nat) (recordTag : BitVec 4) : BitVec 4 :=
  match f.tallyOf sub with
  | none => recordTag + 1
  | some t => t.last + 1

/-- The tally counts one more tag and keeps it as its last (R70). -/
def Frame.countTag (f : Frame) (sub : Nat) (tag : BitVec 4) : Frame :=
  { f with tally := { sub, drawn := f.drawn sub + 1, last := tag } :: f.tally.filter (fun t => decide (t.sub ≠ sub)) }

/-- Replaces the open frame. -/
def State.withOpen (s : State) (f : Option Frame) : State := s.withAssembler { s.assembler with openFrame := f }

/-- The page size of an entry: one address block and its content blocks (R7). -/
def Entry.size (e : Entry) : Nat := 1 + e.blocks

/-- The zone mask of an entry, from its record and the Zone Monitor at this moment (R69). -/
def State.maskFor (s : State) (e : Entry) (r : Record) : ZoneSet :=
  let z := r.lastZone.getD r.host.homeZone
  zoneMask z (s.monitor.zone z).neighbours s.monitor.inService (escalationStep e.level e.attempts)

/-- Places an entry in the open frame: blocks, tag, placement update, PLACED. The record's reply mode goes with it to its launch (R63,
R70; log 45). -/
def State.place (n : Nat) (e : Entry) (r : Record) (mask : ZoneSet) (s : State) : State :=
  match s.assembler.openFrame with
  | none => s
  | some f =>
    let tag := f.nextTag e.sub r.airTag
    let counted := (f.addBlocks mask e.size).countTag e.sub tag
    let placed := { counted with
      placed := f.placed ++ [{ entry := n, sub := e.sub, zones := mask, size := e.size, tag, mode := r.host.mode }] }
    let probe := if r.unreachable then some (f.cycle + BitVec.ofNat 32 s.retry.probeInterval) else none
    let moved := (s.leaveQueue n).changeEntry n (fun e => { e with state := .placed, airTag := some tag })
    (moved.withOpen (some placed)).post e.sub (.update (.placement tag probe))

/-! ### Deferral and aging (R71) -/

/-- An entry that fails step d has its deferral counted; the second ages it (R71). -/
def State.defer (n : Nat) (s : State) : State :=
  let counted := s.countAssembly (fun c => { c with deferrals := c.deferrals + 1 })
  match counted.store.entry n with
  | none => counted
  | some e =>
    if e.deferral + 1 < 2 then counted.changeEntry n (fun e => { e with deferral := e.deferral + 1 })
    else if e.level ≤ 1 then counted.changeEntry n (fun e => { e with deferral := 0 })
    else
      match counted.assembler.queues.find? (fun q => q.2.contains n) with
      | none => counted.changeEntry n (fun e => { e with deferral := 0, level := e.level - 1 })
      | some q =>
        (((counted.leaveQueue n).changeEntry n (fun e => { e with deferral := 0, level := e.level - 1 })).joinQueue n
          q.1).countAssembly (fun c => { c with agings := c.agings + 1 })

/-! ### Displacement (R73, R74) -/

/-- A placed entry leaves the open frame, and its blocks are returned (R74). -/
def Frame.remove (f : Frame) (p : Placed) : Frame :=
  { f.takeBlocks p.zones p.size with placed := f.placed.filter (fun q => decide (q.entry ≠ p.entry)) }

/-- The current level of a placed entry. -/
def Store.levelOf (t : Store) (n : Nat) : Nat :=
  match t.entry n with
  | none => 0
  | some e => e.level

/-- The placed entries a level 0 page may displace: level 2 or 3, in a zone that lacks room (R73). -/
def Frame.eligible (f : Frame) (t : Store) (lacking : ZoneSet) : List Placed :=
  f.placed.filter (fun p => decide (2 ≤ t.levelOf p.entry) && decide (p.zones &&& lacking ≠ 0))

/-- Eviction order: level 3 before level 2, then the highest admission sequence first (R73). -/
def evictBefore (t : Store) (p q : Placed) : Bool :=
  decide (t.levelOf q.entry < t.levelOf p.entry) ||
    (decide (t.levelOf p.entry = t.levelOf q.entry) && decide (t.admissionOf q.entry < t.admissionOf p.entry))

/-- Puts a placed entry in its place of the eviction order. -/
def insertEviction (t : Store) (p : Placed) : List Placed → List Placed
  | [] => [p]
  | q :: rest => if evictBefore t p q then p :: q :: rest else q :: insertEviction t p rest

/-- The eligible entries in eviction order. -/
def evictionOrder (t : Store) (l : List Placed) : List Placed := l.foldl (fun acc p => insertEviction t p acc) []

/-- The sizes of the eligible entries placed in a zone. -/
def sizesIn (l : List Placed) (z : Nat) : Nat :=
  ((l.filter (fun p => ZoneSet.has p.zones z)).map Placed.size).sum

/-- The test of R73: without all eligible entries, the page fits every zone that lacks room. -/
def Frame.canDisplace (f : Frame) (t : Store) (mask : ZoneSet) (size : Nat) : Bool :=
  let lacking := f.lacking mask size
  let eligible := f.eligible t lacking
  (ZoneSet.toList lacking).all (fun z => decide (f.block z - sizesIn eligible z + size ≤ Config.blocksPerZone))

/-- Displaces one entry: it leaves the frame, is filed back and is not tried again in this frame (R74). -/
def State.displace (p : Placed) (s : State) : State :=
  match s.assembler.openFrame with
  | none => s
  | some f =>
    ((s.withOpen (some (f.remove p))).fileQuietly p.entry).countAssembly
      (fun c => { c with displacements := c.displacements + 1 })

/-- One step of eviction: nothing once the page fits, nothing for an entry in no zone that lacks room (R73). -/
def State.evictFor (mask : ZoneSet) (size : Nat) (s : State) (p : Placed) : State :=
  match s.assembler.openFrame with
  | none => s
  | some f => if f.fits mask size || decide (p.zones &&& f.lacking mask size = 0) then s else s.displace p

/-! ### Steps a to d (R67, R72) -/

/-- Steps c and d for an entry whose record is in hand (R67, R72, R73). -/
def State.tryWithRecord (late : Bool) (n : Nat) (e : Entry) (f : Frame) (r : Record) (s : State) : State :=
  let mask := s.maskFor e r
  if mask = 0 then s.countAssembly (fun c => { c with emptyMaskSkips := c.emptyMaskSkips + 1 })
  else if f.fits mask e.size then s.place n e r mask
  else if late && decide (e.level = 0) && f.canDisplace s.store mask e.size then
    ((evictionOrder s.store (f.eligible s.store (f.lacking mask e.size))).foldl
      (fun s p => s.evictFor mask e.size p) s).place n e r mask
  else s.defer n

/-- Tries an entry for the open frame. A late arrival of a READY report carries its record; otherwise the record is read (R67,
R68, R72). -/
def State.tryEntry (late : Bool) (report : Option Record) (n : Nat) (s : State) : State :=
  match s.store.entry n, s.assembler.openFrame with
  | some e, some f =>
    if 4 ≤ f.drawn e.sub then s.countAssembly (fun c => { c with tagLimitSkips := c.tagLimitSkips + 1 })
    else
      match report with
      | some r => (s.leaveMissSkip n).tryWithRecord late n e f r
      | none =>
        match s.nonWaitingRead e.sub with
        | (some r, read) => (read.leaveMissSkip n).tryWithRecord late n e f r
        | (none, read) =>
          let skipped := read.leaveMissSkip n
          (skipped.withAssembler { skipped.assembler with
            missSkip := skipped.assembler.missSkip ++ [{ entry := n, sub := e.sub, launch := f.launch }] }).countAssembly
              (fun c => { c with missSkips := c.missSkips + 1 })
  | _, _ => s

/-- Files an entry; one filed into the queue of the open frame is a late arrival and is tried at once (R64, R72). -/
def State.file (n : Nat) (s : State) : State :=
  let filed := s.fileQuietly n
  match s.filingOutcome n, s.store.entry n, s.assembler.openFrame with
  | none, some e, some f => if f.number = s.homeFrame e.sub then filed.tryEntry true none n else filed
  | _, _, _ => filed

/-! ### Reports of the Record Cache (R68) -/

/-- A READY report: the subscriber's entries leave the miss-skip set, and those the open frame skipped are tried on the record
it carries, in queue order. -/
def State.readyReport (sub : Nat) (r : Record) (s : State) : State :=
  let skipped := s.assembler.missSkip.filter (fun m => decide (m.sub = sub))
  let left := s.withAssembler { s.assembler with missSkip := s.assembler.missSkip.filter (fun m => decide (m.sub ≠ sub)) }
  match s.assembler.openFrame with
  | none => left
  | some f =>
    ((s.assembler.queue f.number).filter
      (fun n => skipped.any (fun m => decide (m.entry = n) && decide (m.launch = f.launch)))).foldl
        (fun s n => s.tryEntry true (some r) n) left

/-- The entries of all frame queues, queues rising, each in its order. -/
def Assembler.allQueued (a : Assembler) : List Nat := (List.range 128).flatMap a.queue

/-- A RECORD_FAULT report: the subscriber's entries of the miss-skip set settle FAULTED, in queue order. -/
def State.touchFault (sub : Nat) (s : State) : State :=
  let skipped := s.assembler.missSkip.filter (fun m => decide (m.sub = sub))
  let left := s.withAssembler { s.assembler with missSkip := s.assembler.missSkip.filter (fun m => decide (m.sub ≠ sub)) }
  (s.assembler.allQueued.filter (fun n => skipped.any (fun m => decide (m.entry = n)))).foldl
    (fun s n => (s.leaveQueue n).settle n .faulted 0) left

/-! ### The frame start (R65, R66, R75 to R78) -/

/-- A void attempt: settled CANCELLED on a pending cancel, else filed back with its attempts unchanged (R78). -/
def State.voidAttempt (n : Nat) (s : State) : State :=
  let counted := s.countAssembly (fun c => { c with voidAttempts := c.voidAttempts + 1 })
  match s.store.entry n with
  | none => counted
  | some e => if e.cancelRequested then counted.settle n .cancelled 0 else counted.file n

/-- Deals with one entry of the launching frame: its taken set, then the Retry Unit or a void attempt (R76 to R78). -/
def State.launchEntry (launch : Word32) (takenSet : ZoneSet) (s : State) (p : Placed) : State :=
  let mine := p.zones &&& takenSet
  let written := s.changeEntry p.entry (fun e => { e with takenSet := mine })
  if mine = 0 then written.voidAttempt p.entry
  else
    ((written.changeEntry p.entry (fun e => { e with attempts := e.attempts + 1 })).countAssembly
      (fun c => { c with placements := c.placements + 1 })).takeLaunched p launch

/-- Launches the offered frame (R76). Without one the frame launched is empty (R66). -/
def State.launchOffered (launch : Word32) (takenSet : ZoneSet) (s : State) : State :=
  match s.assembler.offered with
  | none => s
  | some o =>
    let dealt := o.frame.placed.foldl (fun s p => s.launchEntry launch takenSet p) s
    dealt.withAssembler { dealt.assembler with offered := none }

/-- The page a placed entry is offered as (R75): a downgraded one as TONE with no symbols. -/
def State.pageOf (s : State) (p : Placed) : Page :=
  let address := s.cache.unitAddress p.sub
  match s.store.entry p.entry with
  | none => { address, tag := p.tag, encoding := .tone, content := [] }
  | some e =>
    match s.store.body e.body with
    | none => { address, tag := p.tag, encoding := .tone, content := [] }
    | some b =>
      if e.downgraded then { address, tag := p.tag, encoding := .tone, content := [] }
      else { address, tag := p.tag, encoding := b.encoding, content := b.content }

/-- The list of pages placed for a zone, in placement order (R75). -/
def State.pagesFor (s : State) (f : Frame) (z : Nat) : List Page :=
  (f.placed.filter (fun p => ZoneSet.has p.zones z)).map s.pageOf

/-- Closes a frame and hands each zone in service its list, which goes out as an OFFER (R75, R86). -/
def State.closeFrame (f : Frame) (s : State) : State :=
  let zones := s.monitor.inService
  let links := (ZoneSet.toList zones).foldl (fun l z => l.offer z f.launch f.number (s.pagesFor f z)) s.zoneLinks
  let offered := f.placed.foldl (fun s p => s.changeEntry p.entry (fun e => { e with state := .offered })) s
  (offered.withZoneLinks links).withAssembler
    { offered.assembler with openFrame := none, offered := some { frame := f, handed := zones } }

/-- A frame with nothing in it. -/
def emptyFrame (launch : Word32) (number : Nat) (cycle : Word32) : Frame :=
  { launch, number, cycle, placed := [], blocks := [], tally := [] }

/-- The frame to close: the open frame, or an empty one where none is open (R66). -/
def State.frameToClose (s : State) : Frame :=
  match s.assembler.openFrame with
  | some f => f
  | none => emptyFrame (s.timer.frameCount + 1) (s.timer.frameNumber + 1) s.timer.cycle

/-- The cycle turn's lifetime step: every QUEUED entry past its lifetime settles EXPIRED_LIFETIME (R65). -/
def State.expireQueued (coming : Word32) (s : State) : State :=
  s.assembler.allQueued.foldl
    (fun s n =>
      match s.store.entry n with
      | none => s
      | some e =>
        if e.expiryCycle < coming then
          (((s.leaveMissSkip n).leaveQueue n).settle n .expiredLifetime 0).countAssembly
            (fun c => { c with lifetimeExpiries := c.lifetimeExpiries + 1 })
        else s) s

/-- The cycle turn's re-filing step: every queued entry goes to the queue of its home frame under the length in force (R65). -/
def State.refile (s : State) : State :=
  s.assembler.allQueued.foldl
    (fun s n =>
      match s.store.entry n with
      | none => s
      | some e => s.joinQueue n (s.homeFrame e.sub))
    (s.withAssembler { s.assembler with queues := [] })

/-- The frame opened at a frame start (R66): it launches two frame starts later. -/
def Timer.frameToOpen (t : Timer) : Frame :=
  if t.frameNumber + 2 < t.running.length then emptyFrame (t.frameCount + 2) (t.frameNumber + 2) t.cycle
  else emptyFrame (t.frameCount + 2) (t.frameNumber + 2 - t.running.length) (t.cycle + 1)

/-- Opens a frame and walks its queue (R66, R67). -/
def State.openAndWalk (s : State) : State :=
  let f := s.timer.frameToOpen
  (s.assembler.queue f.number).foldl (fun s n => s.tryEntry false none n) (s.withOpen (some f))

/-- The Frame Assembler's acts at a frame start: launch, close and offer, cycle turn, open and walk (R66). At a cycle turn
`coming` is the coming cycle number, and `relength` says that the cycle length changes (R65). -/
def State.assembleFrame (takenSet : ZoneSet) (coming : Option Word32) (relength : Bool) (s : State) : State :=
  let launched := s.launchOffered s.timer.frameCount takenSet
  let closed := launched.closeFrame launched.frameToClose
  let turned :=
    match coming with
    | none => closed
    | some k => if relength then (closed.expireQueued k).refile else closed.expireQueued k
  turned.openAndWalk

/-! ### Withdrawal (R79, R80) and cancel (R74) -/

/-- HOLD: the offered frame is withdrawn and its entries are void attempts, in placement order (R79). -/
def State.withdrawOffered (s : State) : State :=
  let withdrawn := s.withZoneLinks s.zoneLinks.withdrawAll
  match s.assembler.offered with
  | none => withdrawn
  | some o =>
    o.frame.placed.foldl (fun s p => s.voidAttempt p.entry)
      (withdrawn.withAssembler { withdrawn.assembler with offered := none })

/-- The placed entries of a frame in hand. -/
def placedIn : Option Frame → List Nat
  | none => []
  | some f => f.placed.map Placed.entry

/-- RESTARTING: every entry the Frame Assembler holds settles CANCELLED, and its frames and sets are emptied (R80). -/
def State.cancelAssembly (s : State) : State :=
  let entries := placedIn (s.assembler.offered.map OfferedFrame.frame) ++ placedIn s.assembler.openFrame
    ++ s.assembler.allQueued
  let settled := entries.foldl (fun s n => s.settle n .cancelled 0) s
  (settled.withZoneLinks settled.zoneLinks.withdrawAll).withAssembler
    { settled.assembler with queues := [], missSkip := [], openFrame := none, offered := none }

/-- A cancelled placed entry leaves the open frame; its tag stays spent (R74). -/
def State.unplace (n : Nat) (s : State) : State :=
  match s.assembler.openFrame with
  | none => s
  | some f =>
    match f.placed.find? (fun p => p.entry == n) with
    | none => s
    | some p => s.withOpen (some (f.remove p))

end Sys2Proof.Machine
end

