-- ==== Sys2Proof/Machine/Orders.lean ====
section
/-! DEFINITION. Orders in the order input queue: when a unit is ready for its next order and which orders keep it, the reply places set
aside for the orders that wait, taking an order, and making its reply (R161, R162). -/

namespace Sys2Proof.Machine

/-! ### How the orders begin on which the readiness of their unit depends -/

/-- The fields of an order, where its part state serves it and they are in range: else WRONG_STATE or BAD_VALUE (R162). -/
def readOrder {α : Type} (served : Bool) (read : List Byte → Option α) (body : List Byte) : Except ReplyCode α :=
  if served then
    match read body with
    | none => .error .badValue
    | some v => .ok v
  else .error .wrongState

/-- The fields of an order served in RUNNING alone. -/
def State.readRunning {α : Type} (s : State) (read : List Byte → Option α) (body : List Byte) : Except ReplyCode α :=
  readOrder (decide (s.link.partState = .running)) read body

/-- The fields of an order served in CONFIG and RUNNING. -/
def State.readOutsideRestart {α : Type} (s : State) (read : List Byte → Option α) (body : List Byte) : Except ReplyCode α :=
  readOrder (decide (s.link.partState ≠ .restarting)) read body

/-- The operands of a SUBMIT_GROUP: its group, the first member, the others, level and encoding. -/
structure GroupStart where
  group : Nat
  first : Nat
  others : List Nat
  level : Nat
  encoding : Encoding
deriving DecidableEq, Repr

/-- Checks 1 to 5 of a SUBMIT_GROUP (R14). -/
def State.groupStart (s : State) (body : List Byte) : Except ReplyCode GroupStart :=
  match s.readRunning Operands.submitGroupNumber body with
  | .error code => .error code
  | .ok group =>
    match Table.get [] s.store.groups group with
    | [] => .error .notFound
    | first :: others =>
      match Operands.submitGroupKind body with
      | none => .error .badValue
      | some (level, encoding) =>
        if s.store.available < others.length + 1 ∨ s.store.freeBodies.length = 0 then .error .storeFull
        else .ok { group, first, others, level, encoding }

/-- The checks of a CANCEL, and the entries it names, a mark for a CANCEL by message (R21, R22). -/
def State.cancelStart (s : State) (body : List Byte) : Except (ReplyCode × ReplyBody) (Bool × List Nat) :=
  match s.readRunning Operands.cancel body with
  | .error code => .error (code, .none)
  | .ok (.entry n) =>
    if Config.entrySlots ≤ n then .error (.badValue, .none)
    else if s.store.entry n = none then .error (.notFound, .none)
    else .ok (false, [n])
  | .ok (.message m) =>
    match s.store.findMessage m with
    | none => .error (.notFound, .none)
    | some (slot, _) =>
      match (s.store.entriesOf slot).map Prod.fst with
      | [] => .error (.alreadyDone, .cancelCounts 0 0 0)
      | requests => .ok (true, requests)

/-- A SUBMIT or a group member is in progress: it may still create one entry (R169). -/
def Intake.mayCreate (i : Intake) : Nat :=
  match i.order with
  | some (.submit ..) => 1
  | some (.group _) => 1
  | some (.cancel _) => 0
  | none => 0

/-- Replaces the part state. -/
def State.withPartState (s : State) (v : PartState) : State := s.withLink { s.link with partState := v }

/-- An INIT_RECORDS sweep is in progress (R168). -/
def Cache.initialising (c : Cache) : Bool :=
  match c.sweep with
  | some (.records ..) => true
  | some (.lines ..) => false
  | none => false

/-- The first check of START that fails (R168). -/
def State.startRefusal (s : State) : Option ReplyCode :=
  if s.link.partState ≠ .config then some .wrongState
  else if s.cache.addressBase = none then some .badValue
  else if s.monitor.inService = 0 then some .badValue
  else if s.cache.initialising then some .busy
  else none

/-- The first check of RESTART that fails (R169). -/
def State.restartRefusal (s : State) : Option ReplyCode :=
  if s.link.partState ≠ .running then some .wrongState
  else if s.log.available < s.store.occupancy + s.intake.mayCreate then some .logFull
  else none

/-! ### When a unit is ready (the table of R161) -/

/-- A unit is ready for its next order (the table of R161). -/
def State.ready (s : State) : OrderOwner → Bool
  | .intake => s.intake.order.isNone
  | .charging => s.charging.order.isNone
  | .cache => !s.cache.heldRequests.any (fun r => r.kind.isHostOrder)
  | .linkState => s.link.restart.isNone
  | .store | .timer | .retry | .monitor | .log | .linkStatus => true

/-- The request of a record order would be held at the Record Cache by a full queue (R30). -/
def Cache.holdsOrder (c : Cache) (n : Nat) : Bool := c.admitted.holdsBack (c.admitted.request n (.readSub 0 .posted))

/-- An order, were its unit to take it as the state stands, would keep its unit from its next order: it would pass its checks and be in
progress in the Intake or the Charging Unit or as a RESTART, or its request would be held by a full posted-request queue. Every other
order is answered, posted or begun at once (the table of R161; log 52). -/
def State.keepsUnit (s : State) (o : Order) : Bool :=
  match o.kind with
  | .submit => (s.readRunning Operands.submit o.body).isOk
  | .submitGroup => (s.groupStart o.body).isOk
  | .cancel => (s.cancelStart o.body).isOk
  | .topUp => (s.readOutsideRestart Operands.topUp o.body).isOk
  | .adjust => (s.readOutsideRestart Operands.adjust o.body).isOk
  | .restart => s.restartRefusal.isNone
  | .readSub => ((Operands.subscriber o.body 0).map s.cache.holdsOrder).getD false
  | .writeSub => ((s.readOutsideRestart Operands.writeSub o.body).map (fun v => s.cache.holdsOrder v.1)).toOption.getD false
  | .repairSub => ((s.readOutsideRestart Operands.repairSub o.body).map (fun v => s.cache.holdsOrder v.1)).toOption.getD false
  | .setAdmission | .queryMessage | .groupSet | .groupRead | .initRecords | .flush | .setCache | .setAddressBase | .setTiming
  | .setPolicy | .setReach | .planSet | .planRead | .closePeriod | .collect | .setNotices | .setZone | .zoneRestore
  | .setFaultHandling | .clearFaults | .readFaults | .status | .start => false

/-! ### An older order of the unit, taken (R161, R162) -/

/-- A REPAIR_SUB is answered as it is taken: a live entry names its subscriber, and nothing stands before it (R44). -/
def State.repairRefused (s : State) (n : Nat) : Bool :=
  let c := s.cache.admitted
  s.store.names n && !c.hasEarlier n && c.canServe (c.request n (.readSub 0 .posted))

/-- The state once a unit has taken an order that does not keep it, as far as the checks of that unit's later orders depend on it: START
begins RUNNING, a record order is posted, a sweep begins. Every other order leaves them as they stand (the table of R161; log 52). -/
def State.anticipate (s : State) (o : Order) : State :=
  match o.kind with
  | .start => if s.startRefusal.isNone then s.withPartState .running else s
  | .readSub =>
    match Operands.subscriber o.body 0 with
    | none => s
    | some n => s.post n (.readSub 0 .posted)
  | .writeSub =>
    match s.readOutsideRestart Operands.writeSub o.body with
    | .error _ => s
    | .ok v => s.post v.1 (.readSub 0 .posted)
  | .repairSub =>
    match s.readOutsideRestart Operands.repairSub o.body with
    | .error _ => s
    | .ok v => if s.repairRefused v.1 then s else s.post v.1 (.readSub 0 .posted)
  | .initRecords =>
    match Operands.initRecords o.body with
    | none => s
    | some (first, last) =>
      if s.link.partState = .config ∧ s.cache.sweep = none then s.withCache { s.cache with sweep := some (.records 0 first last 0) } else s
  | .flush =>
    if s.link.partState ≠ .restarting ∧ s.cache.sweep = none then s.withCache { s.cache with sweep := some (.lines (some 0) 0 0 0) } else s
  | .submit | .submitGroup | .cancel | .setAdmission | .queryMessage | .groupSet | .groupRead | .setCache | .setAddressBase
  | .setTiming | .setPolicy | .setReach | .planSet | .planRead | .closePeriod | .topUp | .adjust | .collect | .setNotices | .setZone
  | .zoneRestore | .setFaultHandling | .clearFaults | .readFaults | .status | .restart => s

/-- A unit that is ready takes these orders of its own one after another, each having its place, and none of them keeps it: each is judged
as the orders before it leave the state (log 52). -/
def State.passes : (s : State) → List Order → Bool
  | _, [] => true
  | s, o :: rest => o.place.isSome && !s.keepsUnit o && (s.anticipate o).passes rest

/-! ### Reply places for the orders that wait (R162) -/

/-- An order that stands behind others in the queue is in its turn: its unit is ready to take it, now or once it has taken the older
orders of its own. -/
def State.inTurn (s : State) (before : List Order) (o : Order) : Bool :=
  s.ready o.kind.owner && s.passes (before.filter (fun x => decide (x.kind.owner = o.kind.owner)))

/-- The orders that wait, each place that was set aside for one no longer in its turn given back. -/
def keepPlaces (inTurn : List Order → Order → Bool) : (before : List Order) → List Order → List Order
  | _, [] => []
  | before, o :: rest =>
    let kept := if inTurn before o then o else { o with place := none }
    kept :: keepPlaces inTurn (before ++ [kept]) rest

/-- Gives free reply places to the orders that wait for one, the oldest first: to each that is in its turn. -/
def givePlaces (inTurn : List Order → Order → Bool) : (free : List Nat) → (before : List Order) → List Order → List Order
  | _, _, [] => []
  | free, before, o :: rest =>
    if o.place.isSome || !inTurn before o then o :: givePlaces inTurn free (before ++ [o]) rest
    else
      match free with
      | [] => o :: rest
      | place :: free =>
        let placed := { o with place := some place }
        placed :: givePlaces inTurn free (before ++ [placed]) rest

/-- Replaces the orders that wait. -/
def State.withOrders (s : State) (orders : List Order) : State := s.withLink { s.link with orders }

/-- The places set aside for orders no longer in their turn are given back. An order that is the oldest of a unit that is ready keeps its
place until its unit takes it (R162; log 52). -/
def State.takeBackPlaces (s : State) : State := s.withOrders (keepPlaces s.inTurn [] s.link.orders)

/-- The free reply places are set aside for the orders in their turn, the oldest first (R162; logs 25 and 52). -/
def State.giveFreePlaces (s : State) : State := s.withOrders (givePlaces s.inTurn s.link.freeList [] s.link.orders)

/-- Sets the reply places aside for the orders that wait. It follows every act in which a place frees, a unit becomes ready or an order
joins the queue, and all settling down (R162; logs 25 and 52). -/
def State.setPlaces (s : State) : State := s.takeBackPlaces.giveFreePlaces

/-- Makes the reply of a taken order. A place this frees, or the unit it makes ready, lets the next order have its place (R162). -/
def State.reply (place : Nat) (code : ReplyCode) (body : ReplyBody) (s : State) : State :=
  (s.withLink (s.link.makeReply place code body)).setPlaces

/-! ### Taking an order (R161) -/

/-- The oldest order of a unit, and the orders without it. -/
def oldestOf (owner : OrderOwner) : List Order → Option (Order × List Order)
  | [] => none
  | o :: rest => if o.kind.owner = owner then some (o, rest) else (oldestOf owner rest).map (fun r => (r.1, o :: r.2))

/-- Takes an order of this kind: the oldest of its unit, the unit being ready and a reply place set aside for it. Its place, its body, and
the state with the order out of the queue (R161, R162). -/
def State.takeOrder (kind : OrderKind) (s : State) : Option (Nat × List Byte × State) :=
  match oldestOf kind.owner s.link.orders with
  | none => none
  | some (o, rest) =>
    match o.place with
    | none => none
    | some place =>
      if o.kind = kind ∧ s.ready kind.owner = true then
        some (place, o.body,
          s.withLink { s.link with orders := rest, taken := s.link.taken ++ [{ place, kind, tag := o.tag }] })
      else none

/-- What an order answered at once comes to: its code, the fields of its reply, and the state it leaves. -/
abbrev Answer := ReplyCode × ReplyBody × State

/-- A refusal: the code alone, and nothing changed. -/
def refuse (code : ReplyCode) (s : State) : Answer := (code, .none, s)

/-- Takes an order that is answered in the same act, if its unit can take it now; otherwise the order waits (R161). -/
def State.answerOrder (kind : OrderKind) (act : List Byte → State → Answer) (s : State) : State :=
  match s.takeOrder kind with
  | none => s
  | some (place, body, s) =>
    let a := act body s
    a.2.2.reply place a.1 a.2.1

/-- The orders served in CONFIG and RUNNING (10.6): WRONG_STATE in RESTARTING. -/
def outsideRestart (act : List Byte → State → Answer) (body : List Byte) (s : State) : Answer :=
  if s.link.partState = .restarting then refuse .wrongState s else act body s

/-- An order whose fields are read first: BAD_VALUE where one is out of range (R162). -/
def withOperand {α : Type} (read : List Byte → Option α) (act : α → State → Answer) (body : List Byte) (s : State) : Answer :=
  match read body with
  | none => refuse .badValue s
  | some v => act v s

end Sys2Proof.Machine
end

