-- ==== Sys2Proof/Machine/Serve.lean ====
section
/-! DEFINITION. Serving the posted-request queue: the requests of one subscriber in their order, as far as lines, holds and sweeps
allow, and the admission of requests held at their requesters (R30 to R33, R35, R37, R42 to R44). -/

namespace Sys2Proof.Machine

/-- The first queued request of a subscriber takes another kind in its place: the next phase of a host record order. -/
def Cache.changeFront (c : Cache) (n : Nat) (kind : RequestKind) : Cache :=
  { c with queue := go c.queue }
where
  go : List Request → List Request
    | [] => []
    | r :: rest => if r.sub == n then { r with kind } :: rest else r :: go rest

/-- Answers a READ_SUB from the line that holds its subscriber: a due roll is an update, the LRU mark is set (R42). -/
def State.answerFromLine (place n way : Nat) (s : State) : State :=
  let c := s.cache.access s.charging.period n way
  let l := c.line n way
  (s.withCache c).reply place .ok (.record .line l.state l.deferral l.record)

/-- A REPAIR_SUB in its turn (R44): BUSY if a live entry names the subscriber; else the line, if any, takes the repaired record,
CLEAN with count 0, and the write is issued. The LRU mark stays (log 44). -/
def State.beginRepair (place n : Nat) (fields : HostFields) (balance : Nat) (s : State) : State :=
  if s.store.names n then (s.withCache (s.cache.withoutFront n)).reply place .busy .none
  else
    let r := Record.fresh fields balance s.charging.period
    let replaced := match s.cache.onChip n with
      | none => s.cache
      | some way => s.cache.setLine n way { s.cache.line n way with state := .clean, deferral := 0, record := r }
    s.withCache ((replaced.changeFront n (.repairSub place fields balance .writing)).issue (.hostWrite n r))

/-- Serves the first queued request of a subscriber if it can be served now; none where it waits. Holding reads and a posted
READ_SUB wait for the commands that serve them (log 10). -/
def State.serveFront (n : Nat) (s : State) : Option State :=
  match s.cache.front n with
  | none => none
  | some r =>
    if s.cache.isHeld n || s.cache.waitsForSweep r then none
    else
      match r.kind with
      | .update u =>
        (s.cache.onChip n).map (fun way => (s.withCache (s.cache.withoutFront n)).serveOnLine (.update u) n way)
      | .reachRead entry admission attempts =>
        (s.cache.onChip n).map (fun way =>
          (s.withCache (s.cache.withoutFront n)).serveOnLine (.reachRead entry admission attempts) n way)
      | .touch =>
        (s.cache.onChip n).map (fun way =>
          let c := (s.cache.withoutFront n).access s.charging.period n way
          (s.withCache c).readyReport n (c.line n way).record)
      | .readSub place .joined =>
        (s.cache.onChip n).map (fun way => (s.withCache (s.cache.withoutFront n)).answerFromLine place n way)
      | .writeSub place fields .waiting =>
        if s.cache.filling n then none
        else some (s.withCache ((s.cache.changeFront n (.writeSub place fields .reading)).issue (.hostWriteRead n)))
      | .repairSub place fields balance .waiting =>
        if s.cache.filling n then none else some (s.beginRepair place n fields balance)
      | .readSub _ .posted | .readSub _ .reading | .writeSub _ _ .reading | .writeSub _ _ .writing
      | .repairSub _ _ _ .reading | .repairSub _ _ _ .writing
      | .intakeRead | .memberRead | .settlementRead | .topUpRead | .adjustRead => none

/-- Serves the requests of a subscriber in their order for at most so many steps. -/
def State.serveMany (n : Nat) : Nat → State → State
  | 0, s => s
  | fuel + 1, s =>
    match s.serveFront n with
    | none => s
    | some served => served.serveMany n fuel

/-- Serves the requests of a subscriber in their order until one must wait. A touch can bring up to four placement updates of its
own, and a subscriber has at most one touch queued. -/
def State.serveSub (n : Nat) (s : State) : State := s.serveMany n (2 * s.cache.queue.length + 8)

/-- Serves every subscriber that has a request queued. -/
def State.serveAll (s : State) : State := s.cache.queue.foldl (fun s r => s.serveSub r.sub) s

/-- Admits the requests held by a full queue, in the order they were made, while places are free (R30). -/
def State.admitHeld : Nat → State → State
  | 0, s => s
  | fuel + 1, s =>
    match s.cache.heldRequests with
    | [] => s
    | r :: rest =>
      if s.cache.isFull then s
      else
        ((s.withCache (Cache.enqueue { s.cache with heldRequests := rest } r)).serveSub r.sub).admitHeld fuel

/-- The waiting misses are tried (R35). -/
def State.tryMisses (s : State) : State := s.withCache s.cache.tryMisses

/-- The Record Cache goes on as far as it can: it serves what can be served, tries the waiting misses in the order their requests were
posted, and then admits held requests, whose misses are the youngest (R30, R35). A placement update that a touch served here brings
joins a full queue beyond its places, and is served before an older request of its subscriber that is still held: the model's
choice (log 54). -/
def State.runCache (s : State) : State := (s.serveAll.tryMisses.admitHeld s.cache.heldRequests.length).tryMisses

end Sys2Proof.Machine
end

