-- ==== Sys2Proof/Machine/Admission.lean ====
section
/-! DEFINITION. Admission: clamping (R7), the checks on the record (R8, R9), filing (R11), the hold list (R19, R20, R169) and the
end of an entry with the hold release that its freeing may bring (R4, R5, R19). -/

namespace Sys2Proof.Machine

/-! ### Clamping (R7) -/

/-- A byte a NUMERIC page carries: a digit, space, "-", "(", ")", "*" or "#". -/
def numericByte (b : Byte) : Bool :=
  (decide (0x30 ≤ b) && decide (b ≤ 0x39)) || [0x20, 0x2D, 0x28, 0x29, 0x2A, 0x23].contains b

/-- A byte a TEXT page carries: 0x20 to 0x7E. -/
def textByte (b : Byte) : Bool := decide (0x20 ≤ b) && decide (b ≤ 0x7E)

/-- Content cut to a limit, its unfit bytes replaced, its blocks of so many bytes counted (R7). -/
def clampTo (level : Nat) (encoding : Encoding) (limit perBlock : Nat) (fits : Byte → Bool) (substitute : Byte)
    (given : List Byte) : Submission :=
  let kept := given.take limit
  { level, encoding, content := kept.map (fun b => if fits b then b else substitute),
    blocks := (kept.length + perBlock - 1) / perBlock, truncated := decide (limit < given.length),
    substitutions := (kept.filter (fun b => !fits b)).length }

/-- The content of a submission as clamped (R7). TONE has no limit to exceed, so it is never truncated (log 40). -/
def clamp (level : Nat) (encoding : Encoding) (given : List Byte) : Submission :=
  match encoding with
  | .tone => { level, encoding, content := [], blocks := 0, truncated := false, substitutions := 0 }
  | .numeric => clampTo level .numeric 40 8 numericByte 0x20 given
  | .text => clampTo level .text 200 4 textByte 0x3F given

/-! ### The reservation estimate (R123) -/

/-- Scaling by a factor in sixteenths, rounding half up (7.2). -/
def scaled (amount factor : Nat) : Nat := (amount * factor + 8) / 16

/-- An active plan (R117). -/
def Charging.activePlan (c : Charging) (n : Nat) : Plan := Table.get defaultPlan c.active n

/-- The base and block fees of a page, scaled by the factor of its original level (R121, steps 2 and 3). -/
def Plan.pageFee (p : Plan) (blocks level : Nat) : Nat := scaled (p.base + p.block * blocks) (p.priority.getD level 16)

/-- The group step, for a group member (R121, step 6). -/
def Plan.groupStep (p : Plan) (member : Bool) (sum : Nat) : Nat := if member then scaled sum p.group else sum

/-- The reservation estimate (R123). -/
def Plan.estimate (p : Plan) (blocks level maxAttempts : Nat) (member : Bool) : Nat :=
  min (p.groupStep member (p.pageFee blocks level + p.retry * (maxAttempts - 1))) p.cap

/-! ### The checks on the record (R8, R9) -/

/-- A TONE_ONLY pager is sent the address block alone of a NUMERIC or TEXT page (R9). -/
def downgrades (encoding : Encoding) (capability : Capability) : Bool :=
  decide (capability = .toneOnly) && decide (encoding ≠ .tone)

/-- The content blocks of an entry after any downgrade (R9). -/
def blocksFor (m : Submission) (r : Record) : Nat := if downgrades m.encoding r.host.capability then 0 else m.blocks

/-- The reservation an entry would carry: the estimate for PREPAID, 0 for POSTPAID (R8). -/
def State.reservationFor (s : State) (m : Submission) (r : Record) (member : Bool) : Nat :=
  match r.host.account with
  | .postpaid => 0
  | .prepaid =>
    (s.charging.activePlan r.host.plan).estimate (blocksFor m r) m.level (s.retry.row m.level).maxAttempts member

/-- The first of checks 5 to 9 that a record fails, with what its refusal gives (R8). `room` is check 8. -/
def admissionRefusal (m : Submission) (r : Record) (room : Bool) (reservation : Nat) : Option (ReplyCode × ReplyBody) :=
  if r.host.status ≠ .active then some (.subRefused, .statusFound r.host.status)
  else if m.encoding = .text ∧ r.host.capability = .numeric then some (.capability, .none)
  else if Config.subscriberLimit ≤ r.live then some (.subLimit, .none)
  else if room = false then some (.storeFull, .none)
  else if r.host.account = .prepaid ∧ (r.exhausted = true ∨ r.balance < r.reserved + reservation) then some (.noFunds, .none)
  else none

/-- The intake update: one more live entry, its reservation added (R10, step 5). -/
def intakeUpdate (reservation : Nat) (r : Record) : Record :=
  { r with live := r.live + 1, reserved := r.reserved + reservation }

/-! ### Filing and the hold list (R11, R19, R20) -/

/-- Files a new entry by its record and the effective admission level (R11). In RESTARTING it settles CANCELLED wherever it
would have gone (R64, R114, R169). -/
def State.fileNew (n : Nat) (r : Record) (s : State) : State :=
  match s.store.entry n with
  | none => s
  | some e =>
    if r.unreachable then
      if s.link.partState = .restarting then s.settle n .cancelled 0
      else
        s.joinRetryList { entry := n, sub := e.sub, tag := none, retryAt := r.nextProbe, missFrame := none, reachPending := false }
    else if e.level ≤ s.effectiveLevel then s.file n
    else if s.link.partState = .restarting then s.settle n .cancelled 0
    else
      (s.changeEntry n (fun e => { e with state := .held })).withIntake
        { s.intake with holdList := s.intake.holdList ++ [n] }

/-- Takes an entry off the hold list. -/
def State.leaveHoldList (n : Nat) (s : State) : State :=
  s.withIntake { s.intake with holdList := s.intake.holdList.erase n }

/-- Releases a held entry into its frame queue if its level is not above the effective level (R19). -/
def State.releaseOne (level : Nat) (s : State) (n : Nat) : State :=
  match s.store.entry n with
  | none => s
  | some e => if e.level ≤ level then (s.leaveHoldList n).file n else s

/-- The effective admission level is re-evaluated: where it has risen above what it was, the hold list is walked in order (R19). -/
def State.releaseHeld (before : Nat) (s : State) : State :=
  if before < s.effectiveLevel then s.intake.holdList.foldl (State.releaseOne s.effectiveLevel) s else s

/-- The cycle turn's expiry of held entries, in list order (R20). -/
def State.expireHeld (coming : Word32) (s : State) : State :=
  s.intake.holdList.foldl
    (fun s n =>
      match s.store.entry n with
      | none => s
      | some e => if e.expiryCycle < coming then (s.leaveHoldList n).settle n .expiredLifetime 0 else s) s

/-- An entry is freed; the fall of occupancy may raise the congestion level and so release held entries (R4, R5, R19). -/
def State.endEntry (n : Nat) (s : State) : State := (s.freeEntry n).releaseHeld s.effectiveLevel

/-! ### The hold list at RESTARTING (R169) -/

/-- The Intake Unit at RESTARTING: every held entry settles CANCELLED, in list order (R169). -/
def State.cancelHeld (s : State) : State :=
  let settled := s.intake.holdList.foldl (fun s n => s.settle n .cancelled 0) s
  settled.withIntake { settled.intake with holdList := [] }

/-- In RESTARTING the held entries settle as soon as no submission is in progress that may still create an entry (R169). -/
def State.cancelHeldWhenDue (s : State) : State :=
  if s.link.partState = .restarting ∧ s.intake.mayCreate = 0 then s.cancelHeld else s

end Sys2Proof.Machine
end

