-- ==== Sys2Proof/Machine/Settling.lean ====
section
/-! DEFINITION. Settlement: the stages of the head of the settle list (R125), pricing (R121, R122), the money (R127 to R129), the
billing record, its append and the notice step (R130, R131, R136 to R139, R144). -/

namespace Sys2Proof.Machine

/-! ### Pricing an outcome (R121, R122) -/

/-- The page reached its subscriber or was sent its repeats (R121). -/
def EntryOutcome.isDelivered : EntryOutcome → Bool
  | .delivered | .unconfirmed => true
  | .expiredRetries | .expiredLifetime | .cancelled | .faulted => false

/-- An entry is within allowance: it was delivered, and allowance remains (R121, steps 1 and 2). -/
def Plan.within (p : Plan) (outcome : EntryOutcome) (used : Nat) : Bool := outcome.isDelivered && decide (used < p.allowance)

/-- The charge of an entry by its outcome (R121, R122). -/
def Plan.charge (p : Plan) (outcome : EntryOutcome) (e : Entry) (used : Nat) : Nat :=
  match outcome with
  | .delivered | .unconfirmed =>
    let raw := if p.within outcome used then 0 else p.base + p.block * e.blocks
    let sum := scaled raw (p.priority.getD e.originalLevel 16) + p.retry * (e.attempts - 1)
    min (p.groupStep e.group.isSome sum) p.cap
  | .expiredRetries | .expiredLifetime => min (scaled p.base p.expiry) p.cap
  | .cancelled | .faulted => 0

/-- What a settlement comes to (R126 to R128). -/
structure Money where
  charge : Nat
  deducted : Nat
  shortfall : Nat
  within : Bool
deriving DecidableEq, Repr

/-- The money of a FAULTED settlement (R131). -/
def Money.zero : Money := { charge := 0, deducted := 0, shortfall := 0, within := false }

/-- The reservations of the subscriber's other live entries (R127). -/
def Record.others (r : Record) (reservation : Nat) : Nat := r.reserved - reservation

/-- The charge, and how much of it the balance gives (R127, R128). -/
def moneyOf (p : Plan) (e : Entry) (outcome : EntryOutcome) (r : Record) : Money :=
  let charge := p.charge outcome e r.allowanceUsed
  let deducted := match r.host.account with
    | .postpaid => 0
    | .prepaid => min charge (r.balance - r.others e.reservation)
  { charge, deducted, within := p.within outcome r.allowanceUsed,
    shortfall := match r.host.account with
      | .postpaid => 0
      | .prepaid => charge - deducted }

/-- The settlement update (R127 to R129). -/
def settlementUpdate (m : Money) (e : Entry) (outcome : EntryOutcome) (r : Record) : Record :=
  { r with
    balance := r.balance - m.deducted
    reserved := r.others e.reservation
    exhausted := r.exhausted || decide (0 < m.shortfall)
    charges := min Config.max32 (r.charges + m.charge)
    messages := if outcome.isDelivered then min Config.max16 (r.messages + 1) else r.messages
    allowanceUsed := if m.within then r.allowanceUsed + 1 else r.allowanceUsed
    live := r.live - 1 }

/-! ### The billing record and the notice step (R130, R137 to R139, R144) -/

/-- The billing record of an entry (R130, R138). -/
def State.billingRecord (s : State) (e : Entry) (el : SettleElement) (m : Money) (plan : Option Nat) : BillingRecord :=
  { sequence := s.log.nextSequence
    message := match s.store.body e.body with
      | none => 0
      | some b => b.message.getD 0
    sub := e.sub, group := e.group, outcome := e.outcome.getD .cancelled, replyCode := e.replyCode.getD 0,
    attempts := e.attempts, blocks := e.blocks, level := e.originalLevel, plan, period := s.charging.period,
    charge := m.charge, deducted := m.deducted, shortfall := m.shortfall, withinAllowance := m.within, fault := plan.isNone,
    admissionCycle := e.admissionCycle, outcomeCycle := el.outcomeCycle, takenSet := e.takenSet }

/-- The LOG_HIGH notice of the log as it stands (R139). -/
def BillingLog.highNotice (l : BillingLog) : NoticeBody :=
  .logHigh l.records.length (firstSequence l.records) (lastSequence l.records) l.setAside

/-- Offers a LOG_HIGH notice, and the mark becomes SENT (R139, R142). -/
def State.warnHigh (s : State) : State :=
  (s.notice s.log.highNotice).withLog
    { s.log with high := .sent, counts := { s.log.counts with highNotices := s.log.counts.highNotices + 1 } }

/-- A record fills the set-aside place, and the LOG_HIGH test follows (R137, R139). -/
def State.appendRecord (r : BillingRecord) (s : State) : State :=
  let l := s.log
  let held := l.records.length + 1
  let appended := s.withLog { l with
    records := l.records ++ [r], setAside := false, nextSequence := nextNumber l.nextSequence,
    greatest := max l.greatest held, counts := { l.counts with appended := l.counts.appended + 1 } }
  if l.high = .armed ∧ Config.logHigh ≤ held then appended.warnHigh else appended

/-- The selection calls for an OUTCOME notice (R144). -/
def NoticeSelection.wants (n : NoticeSelection) (outcome : EntryOutcome) (replyCode : Nat) : Bool :=
  match n with
  | .all => true
  | .none => false
  | .failuresAndReplies =>
    match outcome with
    | .expiredRetries | .expiredLifetime | .cancelled | .faulted => true
    | .delivered => decide (replyCode ≠ 0)
    | .unconfirmed => false

/-- The notice step of a settlement (R144). -/
def State.outcomeNotice (entry : Nat) (r : BillingRecord) (s : State) : State :=
  let l := s.log
  if l.selection.wants r.outcome r.replyCode then
    (s.notice (.outcome r.message entry r.sub r.group r.outcome r.replyCode r.attempts r.charge r.shortfall r.sequence)).withLog
      { l with counts := { l.counts with outcomesOffered := l.counts.outcomesOffered + 1 } }
  else s.withLog { l with counts := { l.counts with outcomesPassed := l.counts.outcomesPassed + 1 } }

/-- Lowers the reference count of a body by one (R130, step 2). -/
def State.lowerReferences (body : Nat) (s : State) : State := s.withStore (s.store.lowerReferences body)

/-- The counts of the Charging Unit after a settlement (R132). -/
def ChargingCounts.afterSettlement (c : ChargingCounts) (m : Money) (fault : Bool) : ChargingCounts :=
  { c with
    ended := c.ended + 1
    shortfalls := if 0 < m.shortfall then c.shortfalls + 1 else c.shortfalls
    faulted := if fault then c.faulted + 1 else c.faulted }

/-- Finishes the settlement of the head in the order of R130: record, body, entry, notice; the next entry then becomes the head.
No plan marks a FAULTED settlement (R131). -/
def State.finishSettlement (el : SettleElement) (e : Entry) (m : Money) (plan : Option Nat) (s : State) : State :=
  let r := s.billingRecord e el m plan
  let ended := (((s.appendRecord r).lowerReferences e.body).endEntry el.entry).outcomeNotice el.entry r
  ended.withCharging { ended.charging with
    settleList := ended.charging.settleList.tail, head := .idle,
    counts := ended.charging.counts.afterSettlement m plan.isNone }

/-! ### The stages of the head (R125) -/

/-- The head waits for its body's group submission: the mark is set and no other live entry names the body (R17, R125). -/
def Store.bodyWaits (t : Store) (e : Entry) : Bool :=
  match t.body e.body with
  | none => false
  | some b => b.inSubmission && decide (b.references ≤ 1)

/-- The head takes up a wait: its state shows it, and it is counted once, as the wait begins (R125, R132; log 49). -/
def State.headWaits (state : HeadState) (count : ChargingCounts → ChargingCounts) (s : State) : State :=
  if s.charging.head = state then s
  else s.withCharging { s.charging with head := state, counts := count s.charging.counts }

/-- The head asks for a log place: the log with it set aside, if there is one or it has been granted (R136). -/
def State.logPlace (s : State) : Option BillingLog :=
  if s.charging.head = .logRoom then (if s.log.setAside then some s.log else none)
  else if 0 < s.log.free then some { s.log with setAside := true }
  else none

/-- The third stage: a FAULTED entry is settled at once, another posts its settlement read (R125, R131). The mark says whether
the settlement has ended. -/
def State.thirdStage (el : SettleElement) (e : Entry) (s : State) : State × Bool :=
  if e.outcome = some .faulted then (s.finishSettlement el e Money.zero none, true)
  else ((s.withCharging { s.charging with head := .record }).post e.sub .settlementRead, false)

/-- Takes the heads of the settle list through their stages until one must wait (R125). -/
def State.settleHeads : Nat → State → State
  | 0, s => s
  | fuel + 1, s =>
    match s.charging.settleList, s.charging.head with
    | [], _ => s
    | _, .record => s
    | el :: _, _ =>
      match s.store.entry el.entry with
      | none => s
      | some e =>
        if s.charging.head ≠ .logRoom ∧ s.store.bodyWaits e = true then
          s.headWaits .bodyInSubmission (fun c => { c with waitedSubmission := c.waitedSubmission + 1 })
        else
          match s.logPlace with
          | none =>
            let waits := s.headWaits .logRoom (fun c => { c with waitedLogRoom := c.waitedLogRoom + 1 })
            waits.withLog { waits.log with waiting := true }
          | some log =>
            match (s.withLog log).thirdStage el e with
            | (settled, true) => settled.settleHeads fuel
            | (posted, false) => posted

/-- The settle list goes on as far as it can (R125). -/
def State.runCharging (s : State) : State := s.settleHeads (s.charging.settleList.length + 1)

/-- The head of the settle list and its entry, while it waits for its record. -/
def State.awaitedHead (s : State) : Option (SettleElement × Entry) :=
  match s.charging.head, s.charging.settleList with
  | .record, el :: _ => (s.store.entry el.entry).map (fun e => (el, e))
  | _, _ => none

/-- The settlement read met a record fault: the outcome becomes FAULTED, the reply code 0, and the head settles so (R131). -/
def State.faultHead (s : State) : State :=
  match s.awaitedHead with
  | none => s
  | some (el, e) =>
    let faulted : Entry := { e with outcome := some .faulted, replyCode := some 0 }
    (s.changeEntry el.entry (fun _ => faulted)).finishSettlement el faulted Money.zero none

/-- The head is settled on the record its read has just served: the closing update, then R130 (R126 to R130). -/
def State.settleServed (n way : Nat) (s : State) : State :=
  match s.awaitedHead with
  | none => s
  | some (el, e) =>
    let r := s.lineRecord n way
    let outcome := e.outcome.getD .cancelled
    let m := moneyOf (s.charging.activePlan r.host.plan) e outcome r
    (s.closingUpdate n way (settlementUpdate m e outcome)).finishSettlement el e m (some r.host.plan)

end Sys2Proof.Machine
end

