-- ==== Sys2Proof/Machine/Submission.lean ====
section
/-! DEFINITION. Submissions and cancels on their way: the end of a SUBMIT (R8, R10, R11), the members of a group submission
(R15 to R17) and the cancel requests (R21, R22). -/

namespace Sys2Proof.Machine

/-- Replaces the Intake order in progress. -/
def State.withOrder (s : State) (v : Option IntakeOrder) : State := s.withIntake { s.intake with order := v }

/-- The state an entry is reported as filed in: one placed at once as a late arrival was filed QUEUED (R11, R72). -/
def EntryState.asFiled : EntryState → EntryState
  | .placed => .queued
  | .held => .held
  | .queued => .queued
  | .offered => .offered
  | .awaiting => .awaiting
  | .retryWait => .retryWait
  | .settling => .settling

/-- The state in which a new entry was filed. -/
def State.filedState (s : State) (n : Nat) : EntryState :=
  match s.store.entry n with
  | none => .settling
  | some e => e.state.asFiled

/-- Creates the entry of a subscriber whose record is held, posts the intake update, which ends the hold, lets the requests behind
it be served, and files the entry (R10, steps 3 to 5; R11). -/
def State.admitEntry (sub way body : Nat) (group : Option Nat) (m : Submission) (r : Record) (reservation : Nat) (s : State) :
    Option (Nat × State) :=
  (s.createEntry (newEntry s sub body group m.level (blocksFor m r) reservation
    (downgrades m.encoding r.host.capability))).map
      (fun p => (p.1, ((p.2.closingUpdate sub way (intakeUpdate reservation)).serveSub sub).fileNew p.1 r))

/-! ### SUBMIT (R8, R10) -/

/-- A refused SUBMIT: the record is released unchanged, and the refusal is the reply (R6, R8). -/
def State.refuseSubmit (place sub : Nat) (code : ReplyCode) (body : ReplyBody) (s : State) : State :=
  ((s.release sub).withOrder none).reply place code body

/-- Check 8: a body slot is free and an entry is available (R8). -/
def Store.hasRoom (t : Store) : Bool := decide (0 < t.freeBodies.length) && decide (0 < t.available)

/-- Creates the message of a SUBMIT that has passed every check and makes its reply (R10, R11). -/
def State.createMessage (place sub way : Nat) (m : Submission) (r : Record) (reservation : Nat) (s : State) : Option State := do
  let (body, store) ← s.store.takeBody m (some s.store.nextMessage) 1 false
  let drawn := s.withStore { store with nextMessage := nextNumber store.nextMessage }
  let (entry, filed) ← drawn.admitEntry sub way body none m r reservation
  return (filed.withOrder none).reply place .ok
    (.submitted s.store.nextMessage entry (filed.filedState entry) (blocksFor m r) reservation m.substitutions m.truncated
      (downgrades m.encoding r.host.capability))

/-- Checks 5 to 9 on the record as held, and what follows (R8). -/
def State.completeSubmit (place sub way : Nat) (m : Submission) (s : State) : State :=
  let r := s.lineRecord sub way
  let reservation := s.reservationFor m r false
  match admissionRefusal m r s.store.hasRoom reservation with
  | some (code, body) => s.refuseSubmit place sub code body
  | none =>
    match s.createMessage place sub way m r reservation with
    | some created => created
    | none => s.refuseSubmit place sub .storeFull .none

/-! ### Group submissions (R15 to R17) -/

/-- The group submission ends: the mark is cleared, a body with no entry is freed, and the reply is made (R16). -/
def State.endGroup (g : GroupOrder) (s : State) : State :=
  match s.store.body g.body with
  | none => s.withOrder none
  | some b =>
    let store := (s.store.setBody g.body (some { b with inSubmission := false })).releaseIfUnused g.body
    ((s.withStore store).withOrder none).reply g.place .ok
      (.groupEnded (b.message.getD 0) g.counts g.message.blocks g.message.substitutions g.message.truncated)

/-- The member in progress has been dealt with: the next one's read is posted, or the submission ends. When the part has left
RUNNING, the members that remain are not processed and give back their entries (R15 to R17). -/
def State.nextMember (g : GroupOrder) (s : State) : State :=
  match g.members with
  | [] => s.endGroup g
  | m :: rest =>
    if s.link.partState = .restarting then
      (s.withStore { s.store with setAside := s.store.setAside - (rest.length + 1) }).endGroup
        { g with members := [], counts := { g.counts with notProcessed := g.counts.notProcessed + (rest.length + 1) } }
    else (s.withOrder (some (.group g))).post m .memberRead

/-- The count a refused member falls under (R15). -/
def MemberCounts.refused (c : MemberCounts) : ReplyCode → MemberCounts
  | .subRefused => { c with subRefused := c.subRefused + 1 }
  | .capability => { c with capability := c.capability + 1 }
  | .subLimit => { c with subLimit := c.subLimit + 1 }
  | .noFunds => { c with noFunds := c.noFunds + 1 }
  | .recordFault => { c with recordFault := c.recordFault + 1 }
  | .ok | .busy | .badFormat | .badValue | .unknownOrder | .wrongState | .storeFull | .pending | .notFound | .alreadyDone
  | .faultSet | .logFull => c

/-- The counts a created member falls under (R15; log 20 for one settled at filing). -/
def MemberCounts.created (c : MemberCounts) (filed : EntryState) (downgraded : Bool) : MemberCounts :=
  let d := if downgraded then { c with downgraded := c.downgraded + 1 } else c
  match filed with
  | .held => { d with held := d.held + 1 }
  | .retryWait => { d with retryWait := d.retryWait + 1 }
  | .settling => { d with settling := d.settling + 1 }
  | .queued | .placed | .offered | .awaiting => { d with queued := d.queued + 1 }

/-- The set-aside count falls by one: a member takes its entry, or gives it back (R15). -/
def State.dropSetAside (s : State) : State := s.withStore { s.store with setAside := s.store.setAside - 1 }

/-- A refused member gives back its entry and is counted (R15). -/
def State.refuseMember (g : GroupOrder) (code : ReplyCode) (s : State) : State :=
  s.dropSetAside.nextMember { g with members := g.members.tail, counts := g.counts.refused code }

/-- The body of a group submission gains an entry; its first entry draws the message number (R15). -/
def Store.addReference (t : Store) (body : Nat) : Store :=
  match t.body body with
  | none => t
  | some b =>
    match b.message with
    | some _ => t.setBody body (some { b with references := b.references + 1 })
    | none =>
      { t.setBody body (some { b with references := b.references + 1, message := some t.nextMessage }) with
        nextMessage := nextNumber t.nextMessage }

/-- The record of the member in progress is held: checks 5 to 9, and the member is created and filed, or refused (R15). -/
def State.completeMember (g : GroupOrder) (sub way : Nat) (s : State) : State :=
  let r := s.lineRecord sub way
  let reservation := s.reservationFor g.message r true
  match admissionRefusal g.message r true reservation with
  | some (code, _) => (s.release sub).refuseMember g code
  | none =>
    let taken := s.dropSetAside
    match (taken.withStore (taken.store.addReference g.body)).admitEntry sub way g.body (some g.group) g.message r reservation with
    | none => (s.release sub).refuseMember g .storeFull
    | some (entry, filed) =>
      filed.nextMember { g with
        members := g.members.tail
        counts := g.counts.created (filed.filedState entry) (downgrades g.message.encoding r.host.capability) }

/-! ### Cancel requests (R21, R22) -/

/-- What a cancel request came to. -/
inductive CancelResult where
  | cancelled
  | requested
  | settling (outcome : Option EntryOutcome)
deriving DecidableEq, Repr

/-- The holder of an entry takes a cancel request (R21). An entry that is no longer live had settled (log 21). -/
def State.cancelEntry (n : Nat) (s : State) : CancelResult × State :=
  match s.store.entry n with
  | none => (.settling none, s)
  | some e =>
    match e.state with
    | .held => (.cancelled, (s.leaveHoldList n).settle n .cancelled 0)
    | .queued => (.cancelled, ((s.leaveMissSkip n).leaveQueue n).settle n .cancelled 0)
    | .retryWait => (.cancelled, (s.leaveRetryList n).settle n .cancelled 0)
    | .placed => (.cancelled, (s.unplace n).settle n .cancelled 0)
    | .offered | .awaiting => (.requested, s.changeEntry n (fun e => { e with cancelRequested := true }))
    | .settling => (.settling e.outcome, s)

/-- Counts one result of a CANCEL (R22). -/
def CancelOrder.count (c : CancelOrder) : CancelResult → CancelOrder
  | .cancelled => { c with cancelled := c.cancelled + 1 }
  | .requested => { c with requested := c.requested + 1 }
  | .settling _ => { c with settling := c.settling + 1 }

/-- The reply of a CANCEL by entry (R21). -/
def CancelResult.reply : CancelResult → ReplyCode × ReplyBody
  | .cancelled => (.ok, .cancelled)
  | .requested => (.ok, .requested)
  | .settling outcome => (.alreadyDone, .alreadySettling outcome)

/-- The reply of a CANCEL by message (R22). -/
def CancelOrder.reply (c : CancelOrder) : ReplyCode × ReplyBody :=
  (if 0 < c.cancelled + c.requested then .ok else .alreadyDone, .cancelCounts c.cancelled c.requested c.settling)

/-- A cancel request is acted on; the last one makes the reply (R21, R22). -/
def State.takeCancelRequest (c : CancelOrder) (n : Nat) (rest : List Nat) (s : State) : State :=
  let (result, acted) := s.cancelEntry n
  let counted := { c.count result with requests := rest }
  match rest with
  | _ :: _ => acted.withOrder (some (.cancel counted))
  | [] =>
    let r := if c.byMessage then counted.reply else result.reply
    (acted.withOrder none).reply c.place r.1 r.2

end Sys2Proof.Machine
end

