-- ==== Sys2Proof/Machine/Run.lean ====
section
/-! DEFINITION. What follows of itself from a step: the Record Cache and the settle list go on as far as they can; a failed fill
answers its waiters (R38); the head of the record memory port is carried out (R36). -/

namespace Sys2Proof.Machine

/-- The Record Cache and the Charging Unit go on as far as they can (R30, R35, R125); in RESTARTING the Intake Unit first settles what it
holds, once no submission is in progress (R169); last an order of a unit that has become ready has its reply place (R162). Every command
that can set one of them going ends with it. -/
def State.settleDown (s : State) : State := s.cancelHeldWhenDue.runCache.runCharging.runCache.setPlaces

/-! ### A failed fill (R38) -/

/-- The Record Cache queues a RECORD_FAULT notice (R38, R42, R43). -/
def State.noteFault (sub : Nat) (source : FaultSource) (s : State) : State := s.notice (.recordFault sub source)

/-- Changes the counts of the Record Cache. -/
def State.countCache (f : CacheCounts → CacheCounts) (s : State) : State :=
  s.withCache { s.cache with counts := f s.cache.counts }

/-- The Charging order in progress is answered RECORD_FAULT (R133, R134). -/
def State.faultMoney (s : State) : State :=
  match s.charging.order with
  | none => s
  | some (.topUp place _ _) => (s.withCharging { s.charging with order := none }).reply place .recordFault .none
  | some (.adjust place _ _) => (s.withCharging { s.charging with order := none }).reply place .recordFault .none

/-- The intake read of the order in progress meets a record fault: check 4 (R8, R15). -/
def State.faultIntake (s : State) : State :=
  match s.intake.order with
  | some (.submit place _ _) => (s.withOrder none).reply place .recordFault .none
  | some (.group g) => s.refuseMember g .recordFault
  | some (.cancel _) => s
  | none => s

/-- The answer RECORD_FAULT of a reach read joins those on their way to the Retry Unit (R106). -/
def State.faultReach (entry : Nat) (admission : Word32) (attempts : Nat) (s : State) : State :=
  s.withRetry { s.retry with answers := s.retry.answers ++
    [{ entry, admission, attempts, unreachable := false, nextProbe := 0, fault := true }] }

/-- What a waiter of a failed fill receives (R38). -/
def State.failWaiter (s : State) (r : Request) : State :=
  match r.kind with
  | .intakeRead | .memberRead => s.faultIntake
  | .touch => s.touchFault r.sub
  | .settlementRead => s.faultHead
  | .reachRead entry admission attempts => s.faultReach entry admission attempts
  | .topUpRead | .adjustRead => s.faultMoney
  | .readSub place _ => s.reply place .recordFault .none
  | .update _ => s.countCache (fun c => { c with discardedUpdates := c.discardedUpdates + 1 })
  | .writeSub .. | .repairSub .. => s

/-- A host record write outlives a failed fill: it goes on to its own memory operations (R38). -/
def RequestKind.survivesFault : RequestKind → Bool
  | .writeSub .. | .repairSub .. => true
  | .intakeRead | .memberRead | .settlementRead | .topUpRead | .adjustRead | .reachRead .. | .touch | .update _
  | .readSub .. => false

/-- A waiter of a fill: a queued request of its subscriber, but for host record writes (R35, R38, log 22) and for requests that wait for
the subscriber's default record to be written (R45). -/
def Cache.waitsOnFill (c : Cache) (sub : Nat) (r : Request) : Bool :=
  r.sub == sub && !r.kind.survivesFault && !c.waitsForSweep r

/-- A fill whose check word fails: the way becomes INVALID, the count and the notice, then the waiters in order (R38). -/
def State.failFill (sub way : Nat) (s : State) : State :=
  let c := s.cache
  let waiters := c.queue.filter (c.waitsOnFill sub)
  let dropped := { c.setLine sub way {} with
    queue := c.queue.filter (fun r => !c.waitsOnFill sub r),
    counts := { c.counts with fillFaults := c.counts.fillFaults + 1 } }
  waiters.foldl State.failWaiter ((s.withCache dropped).noteFault sub .fill)

/-- A fill whose check word passes installs the record, CLEAN with count 0, and the LRU mark names the other way (R37). -/
def Cache.install (c : Cache) (sub way : Nat) (r : Record) : Cache :=
  (c.setLine sub way { state := .clean, tag := Cache.tagOf sub, deferral := 0, record := r }).markUsed sub way

/-- The miss-list place of a fill is freed (R35). -/
def Cache.endFill (c : Cache) (sub : Nat) : Cache := { c with fills := c.fills.filter (fun f => decide (f.sub ≠ sub)) }

/-! ### The record memory port (R36) -/

/-- Writes a record to memory with a fresh check word (R27). -/
def State.writeRecord (sub : Nat) (r : Record) (s : State) : State := s.withMem (Memory.writeRecord s.mem sub r)

/-- The port's oldest operation that ends with a step of its own, and the state without it. Default record writes ahead of it,
other than a sweep's last, are carried out first; no step of the table marks their end (log 11). -/
def State.completion (s : State) : Option (PortOp × State) := go s.cache.port s.mem
where
  go : List PortOp → List Host.Cell → Option (PortOp × State)
    | .initWrite sub r false :: rest, mem =>
      if sub < Config.subscribers then go rest (Memory.writeRecord mem sub r) else none
    | op :: rest, mem => some (op, (s.withMem mem).withCache { s.cache with port := rest })
    | [], _ => none

/-- The subscriber of a port operation. -/
def PortOp.sub : PortOp → Nat
  | .fill sub _ | .castout sub _ | .writeBack sub _ _ | .throughWrite sub _ | .hostRead sub | .hostWriteRead sub
  | .hostWrite sub _ | .initWrite sub _ _ => sub

/-- A write-back of the subscriber is still in flight (R40). -/
def Cache.writeBackInFlight (c : Cache) (sub : Nat) : Bool :=
  c.port.any (fun op => match op with
    | .writeBack n _ _ => n == sub
    | .fill .. | .castout .. | .throughWrite .. | .hostRead _ | .hostWriteRead _ | .hostWrite .. | .initWrite .. => false)

/-- A write-back has been carried out: a line still CASTING becomes CLEAN if it was the latest issued for it (R40). -/
def Cache.endWriteBack (c : Cache) (sub : Nat) : Cache :=
  match c.onChip sub with
  | none => c
  | some way =>
    if (c.line sub way).state = .casting ∧ c.writeBackInFlight sub = false then
      c.setLine sub way { c.line sub way with state := .clean }
    else c

end Sys2Proof.Machine
end

