-- ==== Sys2Proof/Machine/RetryUnit.lean ====
section
/-! DEFINITION. The Retry Unit: deadlines, the cycle turn, reverse items, answers of reach reads, its settings (chapter 6). -/

namespace Sys2Proof.Machine

/-! ### Deadlines (R104, R105) -/

/-- An await-set element that has missed: it is marked and counted, once. -/
def Retry.markMissed (r : Retry) (n : Nat) : Retry :=
  { r with
    awaitSet := r.awaitSet.map (fun b => if b.entry = n then { b with missed := true } else b)
    counts := { r.counts with misses := r.counts.misses + 1 } }

/-- The deadline-miss update of a missed entry is posted, once, with U as in force now, also where a full queue then holds it (R104,
log 48). -/
def State.postMiss (a : AwaitElement) (s : State) : State :=
  if a.missed then s else (s.withRetry (s.retry.markMissed a.entry)).post a.sub (.update (.deadlineMiss s.retry.missLimit))

/-- An entry leaves the await set. -/
def State.leaveAwaitSet (n : Nat) (s : State) : State :=
  s.withRetry { s.retry with awaitSet := s.retry.awaitSet.filter (fun b => decide (b.entry ≠ n)) }

/-- A missed entry leaves the await set and is resolved (R105). -/
def State.resolveMiss (n : Nat) (frameCount cycle : Word32) (s : State) : State :=
  let left := s.leaveAwaitSet n
  match left.store.entry n with
  | none => left
  | some e =>
    if e.cancelRequested then left.settle n .cancelled 0
    else if e.maxAttempts ≤ e.attempts then
      (left.settle n .expiredRetries 0).countRetry (fun c => { c with expiredRetries := c.expiredRetries + 1 })
    else ((left.awaitRetry n frameCount cycle).postReachRead n).countRetry (fun c => { c with retries := c.retries + 1 })

/-- A missed entry: its deadline-miss update is posted first, and it is then resolved, unless a full queue holds that update: its
resolution then waits with the update, the entry standing in the await set (R3, R30, R104, R105; log 15). -/
def State.missDeadline (frameCount cycle : Word32) (a : AwaitElement) (s : State) : State :=
  let posted := s.postMiss a
  if posted.retryBlocked then posted else posted.resolveMiss a.entry frameCount cycle

/-- The oldest await-set element whose deadline falls at a frame count. -/
def Retry.dueAt (r : Retry) (frameCount : Word32) : Option AwaitElement :=
  r.awaitSet.find? (fun a => decide (a.deadline = frameCount))

/-- Passes the deadlines of a frame count, in await-set order, as far as the posted-request queue allows (R104). -/
def State.passDeadlines (frameCount cycle : Word32) : Nat → State → State
  | 0, s => s
  | fuel + 1, s =>
    if s.retryBlocked then s
    else
      match s.retry.dueAt frameCount with
      | none => s
      | some a => (s.missDeadline frameCount cycle a).passDeadlines frameCount cycle fuel

/-! ### The cycle turn (R109) -/

/-- The lifetime step: entries whose expiry cycle is below the coming cycle settle, in list order (R109). -/
def State.expireRetries (coming : Word32) (s : State) : State :=
  s.retry.list.foldl
    (fun s x =>
      match s.store.entry x.entry with
      | none => s
      | some e =>
        if e.expiryCycle < coming then
          ((s.leaveRetryList x.entry).settle x.entry .expiredLifetime 0).countRetry
            (fun c => { c with expiredLifetime := c.expiredLifetime + 1 })
        else s) s

/-- The release step: entries due, their reach mark clear, are filed in list order (R109). -/
def State.releaseDue (coming : Word32) (s : State) : State :=
  s.retry.list.foldl
    (fun s x =>
      if x.reachPending = false ∧ x.retryAt ≤ coming then
        ((s.leaveRetryList x.entry).file x.entry).countRetry (fun c => { c with releases := c.releases + 1 })
      else s) s

/-- The Retry Unit acts on a cycle turn: lifetime, release, and the release horizon (R109). -/
def State.turnRetries (coming : Word32) (s : State) : State :=
  let released := (s.expireRetries coming).releaseDue coming
  released.withRetry { released.retry with horizon := coming }

/-! ### What the Retry Unit has still to act on (R104) -/

/-- No item that arrived before the event is still to be taken. -/
def Announced.ripe (a : Announced) : Bool := decide (a.behind.getD 0 = 0)

/-- Acts on an event that is the oldest and ripe, `rest` being those after it. A frame start whose deadlines a full queue lets pass only
in part stays, and no item passes it any more (R104, log 15). -/
def State.actOn (a : Announced) (rest : List Announced) (s : State) : State :=
  match a.event with
  | .reachRead entry sub admission attempts => (s.withAnnounced rest).post sub (.reachRead entry admission attempts)
  | .cycleTurn coming => (s.withAnnounced rest).turnRetries coming
  | .frameStart frameCount cycle =>
    let passed := s.passDeadlines frameCount cycle s.retry.awaitSet.length
    passed.withAnnounced
      (if (passed.retry.dueAt frameCount).isSome then { a with behind := some 0 } :: rest else rest)

/-- Acts on what the Retry Unit has been told, in its order, as far as the posted-request queue and the items before it allow. -/
def State.drainAnnounced : Nat → State → State
  | 0, s => s
  | fuel + 1, s =>
    match s.retry.announced with
    | [] => s
    | a :: rest => if s.retryBlocked || !a.ripe then s else (s.actOn a rest).drainAnnounced fuel

/-- Acts on all the Retry Unit has been told. -/
def State.takeAnnounced (s : State) : State := s.drainAnnounced s.retry.announced.length

/-- DEADLINE_MISS (R104): the deadlines that the announced frame starts meet are passed, and what waited with them is taken. -/
def execDeadlineMiss (s : State) : Result :=
  .next (match s.retry.announced with
    | [] => s
    | _ :: _ => s.takeAnnounced.settleDown)

/-! ### Reverse items (R94, R99 to R103) -/

/-- The Retry Unit can take an item: nothing of it is held, and no event that arrived before the item still waits (R104). -/
def State.retryFree (s : State) : Bool := !s.retryBlocked && s.retry.announced.all (fun a => decide (a.behind ≠ some 0))

/-- An item that arrived before the event has been taken (R104). -/
def Announced.passItem (a : Announced) : Announced := { a with behind := a.behind.map (fun k => k - 1) }

/-- The item at the head of the reverse item queue is taken out of it, and no event waits for it any more (R94, R104). -/
def State.dequeueItem (rest : List ReverseItem) (s : State) : State :=
  (s.withZoneLinks { s.zoneLinks with reverseQueue := rest }).withAnnounced (s.retry.announced.map Announced.passItem)

/-- The item at the head of the reverse item queue, of one kind, and the state without it (R94). -/
def State.nextItem (kind : ItemKind) (s : State) : Option (ReverseItem × State) :=
  match s.zoneLinks.reverseQueue with
  | [] => none
  | i :: rest =>
    if i.kind = kind ∧ s.retryFree = true then some (i, s.dequeueItem rest) else none

/-- Posts the reverse-item update of an item (R99). -/
def State.postReverse (i : ReverseItem) (s : State) : State := s.post i.sub (.update (.reverseItem i.zone))

/-- The later of two candidates for a late match: the later miss frame count, and of equals the later in list order (R101). -/
def laterMatch (best : Option RetryElement) (x : RetryElement) : Option RetryElement :=
  match best with
  | none => some x
  | some b => if b.missFrame.getD 0 ≤ x.missFrame.getD 0 then some x else some b

/-- The retry-list element an ACK matches (R101). -/
def Retry.lateMatch (r : Retry) (sub : Nat) (tag : BitVec 4) : Option RetryElement :=
  (r.list.filter (fun x => decide (x.sub = sub) && decide (x.tag = some tag))).foldl laterMatch none

/-- An ACK decides the entry it matches in the await set, then in the retry list, or is a stray (R100 to R102). -/
def State.matchAck (i : ReverseItem) (s : State) : State :=
  match s.retry.awaitSet.find? (fun a => decide (a.sub = i.sub) && decide (a.tag = i.tag)) with
  | some a =>
    ((s.leaveAwaitSet a.entry).countRetry (fun c => { c with awaitMatches := c.awaitMatches + 1 })).settle a.entry .delivered i.code
  | none =>
    match s.retry.lateMatch i.sub i.tag with
    | some x =>
      ((s.leaveRetryList x.entry).settle x.entry .delivered i.code).countRetry
        (fun c => { c with lateMatches := c.lateMatches + 1 })
    | none => s.countRetry (fun c => { c with strays := c.strays + 1 })

/-- ACK (R99 to R102). DESIGN CHOICE: the item is matched at once, even where a full posted-request queue holds its own update (R30, log
56). -/
def execAck (s : State) : Result :=
  .next (match s.nextItem .ack with
    | none => s
    | some (i, taken) => ((taken.postReverse i).matchAck i).settleDown)

/-- A REGISTER releases one entry of its subscriber to its frame queue (R103). -/
def State.releaseRegistered (s : State) (x : RetryElement) : State :=
  ((s.leaveRetryList x.entry).file x.entry).countRetry (fun c => { c with registerReleases := c.registerReleases + 1 })

/-- A REGISTER releases every retry-list entry of its subscriber, in list order (R103). -/
def State.registerItem (i : ReverseItem) (s : State) : State :=
  (s.retry.list.filter (fun x => decide (x.sub = i.sub))).foldl State.releaseRegistered
    (s.countRetry (fun c => { c with registrations := c.registrations + 1 }))

/-- REGISTER (R99, R103). DESIGN CHOICE: the release is made at once, even where a full posted-request queue holds the item's own update
(R30, log 56). -/
def execRegister (s : State) : Result :=
  .next (match s.nextItem .register with
    | none => s
    | some (i, taken) => ((taken.postReverse i).registerItem i).settleDown)

/-! ### Answers of reach reads (R106, R107) -/

/-- The retry-list element a reach read's answer is for, still there under the same admission and attempts (R106, log 30). -/
def State.answered (s : State) (a : ReachAnswer) : Option (RetryElement × Entry) :=
  match s.retry.list.find? (fun x => decide (x.entry = a.entry) && x.reachPending), s.store.entry a.entry with
  | some x, some e => if e.admission = a.admission ∧ e.attempts = a.attempts then some (x, e) else none
  | _, _ => none

/-- The retry-at an answer fixes: the greater of the provisional one and the next probe cycle of an UNREACHABLE record (R107). -/
def ReachAnswer.retryAt (a : ReachAnswer) (provisional : Word32) : Word32 :=
  if a.unreachable ∧ provisional < a.nextProbe then a.nextProbe else provisional

/-- The Retry Unit acts on the answer of a reach read. An entry filed at once is not counted as released at a cycle turn (R106, R107,
R116; log 47), and an answer of RECORD_FAULT that is ignored, its entry having left the retry list, is not counted as a reach fault: the
model's choice (log 57). -/
def State.takeAnswer (a : ReachAnswer) (s : State) : State :=
  match s.answered a with
  | none => s
  | some (x, e) =>
    let retryAt := a.retryAt x.retryAt
    let left := s.leaveRetryList x.entry
    if a.fault then
      (left.settle x.entry .faulted 0).countRetry (fun c => { c with reachFaults := c.reachFaults + 1 })
    else if e.expiryCycle < retryAt then
      (left.settle x.entry .expiredLifetime 0).countRetry (fun c => { c with expiredLifetime := c.expiredLifetime + 1 })
    else if retryAt ≤ s.retry.horizon then left.file x.entry
    else left.joinRetryList { x with retryAt, reachPending := false }

/-- REACH_READ_ANSWER (R107). An answer waits only while a request of the Retry Unit is held (log 15). -/
def execReachReadAnswer (s : State) : Result :=
  .next (match s.retry.answers with
    | [] => s
    | a :: rest =>
      if s.retryBlocked then s else ((s.withRetry { s.retry with answers := rest }).takeAnswer a).settleDown)

/-! ### Settings (R112, R113) -/

/-- SET_POLICY carried out (R112). -/
def setPolicyAct (v : Nat × PolicyRow) (s : State) : Answer :=
  (.ok, .policyRow v.1 v.2, s.withRetry { s.retry with policy := s.retry.policy.set v.1 v.2 })

/-- SET_POLICY (R112). -/
def execSetPolicy (s : State) : Result :=
  .next (s.answerOrder .setPolicy (outsideRestart (withOperand Operands.setPolicy setPolicyAct)))

/-- SET_REACH carried out (R113). -/
def setReachAct (v : Nat × Nat) (s : State) : Answer :=
  (.ok, .reach v.1 v.2, s.withRetry { s.retry with missLimit := v.1, probeInterval := v.2 })

/-- SET_REACH (R113). -/
def execSetReach (s : State) : Result :=
  .next (s.answerOrder .setReach (outsideRestart (withOperand Operands.setReach setReachAct)))

end Sys2Proof.Machine
end

