-- ==== Sys2Proof/Machine/AirTimer.lean ====
section
/-! DEFINITION. The Air Timer: frame starts, cycle turns, strobes, HOLD, SET_TIMING, and the announcement of a frame start to the
units that act on it (chapter 3; R56, R66, R88, R104, R152). -/

namespace Sys2Proof.Machine

/-! ### Advancing (R52, R54) -/

/-- The frame count, frame number and cycle number of the next frame start; at a wrap the coming settings become the running ones
(R52). -/
def Timer.advance (t : Timer) : Timer :=
  if t.frameNumber + 1 < t.running.length then { t with frameCount := t.frameCount + 1, frameNumber := t.frameNumber + 1 }
  else
    { t with
      frameCount := t.frameCount + 1, frameNumber := 0, cycle := t.cycle + 1, running := t.coming.getD t.running,
      coming := none }

/-- The frame number reached makes this frame start the cycle turn (R54). -/
def Timer.atTurn (t : Timer) : Bool := decide (t.frameNumber + 2 = t.running.length)

/-- Staged values over the settings they would replace (R54, R62). -/
def Staged.over (g : Staged) (t : Timing) : Timing :=
  { length := g.length.getD t.length, ackDelay := g.ackDelay.getD t.ackDelay, source := g.source.getD t.source }

/-- The cycle turn fixes the coming settings, clears the pending marks and brings the coming length into force (R54). -/
def Timer.turn (t : Timer) : Timer :=
  { t with coming := some (t.staged.over t.running), staged := {}, lengthInForce := (t.staged.over t.running).length }

/-- The timer after one frame start: advanced, and turned where it is the cycle turn (R52, R54). -/
def Timer.nextFrame (t : Timer) : Timer := if t.advance.atTurn then t.advance.turn else t.advance

/-! ### The announcement (R53, R56, log 8) -/

/-- The Retry Unit hears of a cycle turn: it acts at once, or takes it afterwards where its work waits (R104, R109). -/
def State.announceTurn (coming : Word32) (s : State) : State :=
  if s.retryWaits then s.holdOver (.cycleTurn coming) else s.turnRetries coming

/-- The Retry Unit hears of a frame start: DEADLINE_MISS passes its deadlines, with items before it or after it, or in its turn where
the unit's work waits (R100, R104, log 14). -/
def State.announceFrame (frameCount cycle : Word32) (s : State) : State :=
  if s.retryWaits then s.holdOver (.frameStart frameCount cycle)
  else s.withAnnounced [{ event := .frameStart frameCount cycle, behind := none }]

/-- A frame start, and the cycle turn if it is one, are announced to the units: the offers are judged, silence is counted, the
frames move on, held and retried entries expire or are released at a turn, and the Retry Unit has its deadlines to pass. The close comes
before the recording of an UNTAKEN or a REV_SILENT that this frame start makes due (R53, R56; logs 8 and 50). -/
def State.announce (coming : Option Word32) (relength : Bool) (s : State) : State :=
  let g := s.timer.frameCount
  let judged := s.judgeOffers g
  let assembled :=
    (judged.withMonitor judged.monitor.countAllSilence).assembleFrame (s.zoneLinks.takenSet g) coming relength
  let turned := match coming with
    | none => assembled
    | some k => (assembled.expireHeld k).announceTurn k
  turned.announceFrame g s.timer.cycle

/-- What is still due from the last frame start is dealt with before the next one acts (log 13, log 14). -/
def State.finishLastFrame (s : State) : State := s.recordAllDue.takeAnnounced

/-- The coming cycle number of a cycle turn (R56). -/
def Timer.comingCycle (t : Timer) : Option Word32 := if t.atTurn then some (t.cycle + 1) else none

/-- A frame start is taken and announced. -/
def State.startFrame (s : State) : State :=
  let last := s.finishLastFrame
  let next := last.timer.nextFrame
  (((last.withTimer next).announce next.comingCycle (decide (next.lengthInForce ≠ last.timer.lengthInForce))).settleDown)

/-! ### Frame starts of the internal source (R50) -/

/-- The timer is RUNNING from the source kind. -/
def Timer.runsOn (t : Timer) (kind : SourceKind) : Bool := decide (t.state = .running) && decide (t.running.source.kind = kind)

/-- FRAME_START (R52): the nominal duration of the INTERNAL source has passed. -/
def execFrameStart (s : State) : Result := .next (if s.timer.runsOn .internal then s.startFrame else s)

/-- CYCLE_TURN (R54): the frame start of the INTERNAL source that reaches frame running length − 2 (log 27). -/
def execCycleTurn (s : State) : Result :=
  .next (if s.timer.runsOn .internal ∧ s.timer.advance.atTurn = true then s.startFrame else s)

/-! ### Strobes (R51, R59, R60) -/

/-- The strobe that ends a hold: RUNNING again, a frame start, and AIR_RESUME with the time held, in milliseconds (R60). -/
def State.resume (heldMs : Nat) (s : State) : State :=
  let last := s.finishLastFrame
  let next := { last.timer.nextFrame with state := .running }
  let resumed := (last.withTimer next).notice
    (.airResume next.frameCount next.frameNumber next.cycle (min Config.max32 heldMs))
  (resumed.announce next.comingCycle (decide (next.lengthInForce ≠ last.timer.lengthInForce))).settleDown

/-- The time spent in HOLD, in milliseconds: HOLD began one and a half nominal durations after the last frame start. Both times
are in half milliseconds (R48, log 4). -/
def Timer.heldMs (t : Timer) (elapsed : Nat) : Nat := (elapsed - 3 * t.running.source.nominal) / 2

/-- STROBE (R51, R60). `elapsed` is the time since the last frame start in half milliseconds, so half a nominal duration of n
milliseconds is n. -/
def execStrobe (elapsed : Nat) (s : State) : Result :=
  .next (match s.timer.state with
    | .stopped => s.withTimer { s.timer with ignored := s.timer.ignored + 1 }
    | .hold => s.resume (s.timer.heldMs elapsed)
    | .running =>
      match s.timer.running.source.kind with
      | .internal => s.withTimer { s.timer with ignored := s.timer.ignored + 1 }
      | .external =>
        if elapsed < s.timer.running.source.nominal then s.withTimer { s.timer with early := s.timer.early + 1 }
        else s.startFrame)

/-- The timer enters HOLD (R59). -/
def Timer.hold (t : Timer) : Timer := { t with state := .hold, holds := t.holds + 1 }

/-- STROBE_LOSS (R59): HOLD, AIR_HOLD, and the offered frame withdrawn. -/
def execStrobeLoss (s : State) : Result :=
  .next (if s.timer.runsOn .external then
      (((s.withTimer s.timer.hold).notice
        (.airHold s.timer.frameCount s.timer.frameNumber s.timer.cycle)).withdrawOffered).settleDown
    else s)

/-! ### SET_TIMING (R57, R58) -/

/-- What a SET_TIMING reply and STATUS report. -/
def Timer.figures (t : Timer) : TimingFigures :=
  { running := t.running, lengthInForce := t.lengthInForce, coming := t.coming, staged := t.staged }

/-- A SET_TIMING applied at once, in CONFIG (R57). -/
def Timer.apply (t : Timer) (g : Staged) : Timer :=
  { t with running := g.over t.running, lengthInForce := g.length.getD t.lengthInForce }

/-- A named parameter has a pending value already (R58). -/
def Staged.clashes (held g : Staged) : Bool :=
  (held.length.isSome && g.length.isSome) || (held.ackDelay.isSome && g.ackDelay.isSome) ||
    (held.source.isSome && g.source.isSome)

/-- The staged values with those a SET_TIMING names (R58). -/
def Staged.stage (held g : Staged) : Staged :=
  { length := g.length.or held.length, ackDelay := g.ackDelay.or held.ackDelay, source := g.source.or held.source }

/-- SET_TIMING carried out, its values being in range (R57, R58). -/
def setTimingAct (g : Staged) (s : State) : Answer :=
  if s.link.partState = .config then
    (.ok, .timing (s.timer.apply g).figures, s.withTimer (s.timer.apply g))
  else if s.timer.staged.clashes g then refuse .pending s
  else
    let staged := { s.timer with staged := s.timer.staged.stage g }
    (.ok, .timing staged.figures, s.withTimer staged)

/-- SET_TIMING (R57). -/
def execSetTiming (s : State) : Result :=
  .next (s.answerOrder .setTiming (outsideRestart (withOperand Operands.setTiming setTimingAct)))

/-! ### START and RESTART (R61, R62) -/

/-- The timer at START (R61). -/
def Timer.start (t : Timer) : Timer :=
  { t with state := .running, frameCount := 0, frameNumber := 0, cycle := 0, coming := none, lengthInForce := t.running.length }

/-- The timer at RESTART: stopped, the coming settings and then the staged values made running (R62). -/
def Timer.stop (t : Timer) : Timer :=
  let running := t.staged.over (t.coming.getD t.running)
  { t with state := .stopped, running, staged := {}, coming := none, lengthInForce := running.length, frameNumber := 0 }

end Sys2Proof.Machine
end

