-- ==== Sys2Proof/Machine/Billing.lean ====
section
/-! DEFINITION. The orders of the Billing Log: COLLECT and SET_NOTICES (chapter 8). -/

namespace Sys2Proof.Machine

/-- What a COLLECT names: the release count and the most returned (R140, 12.2). -/
def collectCounts (body : List Byte) : Nat × Nat := (Bytes.field body 0 1, Bytes.field body 1 1)

/-- A COLLECT passes checks 1 and 2 (R140). -/
def BillingLog.allows (l : BillingLog) (release most : Nat) : Bool :=
  decide (1 ≤ most) && decide (most ≤ 16) && decide (release ≤ l.lastReturned)

/-- A refused COLLECT changes nothing but its count (R140). -/
def BillingLog.refused (l : BillingLog) : BillingLog := { l with counts := { l.counts with refused := l.counts.refused + 1 } }

/-- Step 1: the oldest records are removed; a waiting request is granted the first place freed; below 768 the high mark is ARMED
again (R136, R139, R140). -/
def BillingLog.release (l : BillingLog) (r : Nat) : BillingLog :=
  let kept := l.records.drop r
  let removed := l.records.length - kept.length
  let grants := l.waiting && decide (0 < removed)
  { l with
    records := kept
    setAside := l.setAside || grants
    waiting := l.waiting && !grants
    high := if 0 < removed ∧ kept.length < Config.logHigh then .armed else l.high
    counts := { l.counts with released := l.counts.released + BitVec.ofNat 32 removed } }

/-- Steps 2 and 3: the oldest records that remain are copied, and their number is the last-returned count (R140). -/
def BillingLog.return (l : BillingLog) (most : Nat) : BillingLog × List BillingRecord :=
  let copied := l.records.take most
  ({ l with lastReturned := copied.length,
            counts := { l.counts with returned := l.counts.returned + BitVec.ofNat 32 copied.length } }, copied)

/-- COLLECT carried out (R140). -/
def collectAct (body : List Byte) (s : State) : Answer :=
  let (release, most) := collectCounts body
  if s.log.allows release most then
    let (log, copied) := (s.log.release release).return most
    (.ok, .collected (s.log.records.length - log.records.length) log.records.length copied, s.withLog log)
  else (.badValue, .collectRefused s.log.lastReturned s.log.records.length, s.withLog s.log.refused)

/-- COLLECT (R140): served in every part state. A place it frees lets the head of the settle list go on (R136). -/
def execCollect (s : State) : Result :=
  .next (match s.takeOrder .collect with
    | none => s
    | some (place, body, taken) =>
      ((collectAct body taken).2.2.reply place (collectAct body taken).1 (collectAct body taken).2.1).settleDown)

/-- SET_NOTICES carried out (R145). -/
def setNoticesAct (v : NoticeSelection) (s : State) : Answer :=
  (.ok, .selection v, s.withLog { s.log with selection := v })

/-- SET_NOTICES (R145). -/
def execSetNotices (s : State) : Result :=
  .next (s.answerOrder .setNotices (outsideRestart (withOperand Operands.setNotices setNoticesAct)))

end Sys2Proof.Machine
end

