-- ==== Sys2Proof/Machine/ChargingUnit.lean ====
section
/-! DEFINITION. The orders of the Charging Unit and the settlement of the head on its record (chapter 7). -/

namespace Sys2Proof.Machine

/-! ### Plans and periods (R118 to R120) -/

/-- The pending copy of a plan and its mark (R117). -/
def Charging.pendingPlan (c : Charging) (n : Nat) : PendingPlan := Table.get {} c.pending n

/-- PLAN_SET in RUNNING: the pending copy and its mark (R118). -/
def Charging.stagePlan (c : Charging) (n : Nat) (p : Plan) : Charging :=
  { c with pending := Table.set {} c.pending n { plan := p, mark := true } }

/-- PLAN_SET in CONFIG: both copies, the mark clear (R118). -/
def Charging.storePlan (c : Charging) (n : Nat) (p : Plan) : Charging :=
  { c with active := Table.set defaultPlan c.active n p, pending := Table.set {} c.pending n { plan := p, mark := false } }

/-- PLAN_SET carried out (R118). -/
def planSetAct (v : Nat × Plan) (s : State) : Answer :=
  if s.link.partState = .config then (.ok, .planStored v.1 false, s.withCharging (s.charging.storePlan v.1 v.2))
  else (.ok, .planStored v.1 true, s.withCharging (s.charging.stagePlan v.1 v.2))

/-- PLAN_SET (R118). -/
def execPlanSet (s : State) : Result :=
  .next (s.answerOrder .planSet (outsideRestart (withOperand Operands.planSet planSetAct)))

/-- PLAN_READ carried out (R119). -/
def planReadAct (n : Nat) (s : State) : Answer :=
  let p := s.charging.pendingPlan n
  (.ok, .planCopies (s.charging.activePlan n) (if p.mark then some p.plan else none) s.charging.period, s)

/-- PLAN_READ (R119). -/
def execPlanRead (s : State) : Result :=
  .next (s.answerOrder .planRead (outsideRestart (withOperand Operands.planRead planReadAct)))

/-- The plans whose pending mark is set (R120). -/
def Charging.marked (c : Charging) : List Nat := (List.range 64).filter (fun n => (c.pendingPlan n).mark)

/-- CLOSE_PERIOD: the next period, and every marked plan applied, its mark cleared (R120). -/
def Charging.closePeriod (c : Charging) : Charging :=
  { c.marked.foldl (fun c n => c.storePlan n (c.pendingPlan n).plan) c with period := c.period + 1 }

/-- CLOSE_PERIOD carried out: served in RUNNING alone (R120). -/
def closePeriodAct (_ : List Byte) (s : State) : Answer :=
  if s.link.partState ≠ .running then refuse .wrongState s
  else (.ok, .periodClosed (s.charging.period + 1) s.charging.marked.length, s.withCharging s.charging.closePeriod)

/-- CLOSE_PERIOD (R120). -/
def execClosePeriod (s : State) : Result := .next (s.answerOrder .closePeriod closePeriodAct)

/-! ### TOP_UP and ADJUST (R133, R134) -/

/-- Replaces the Charging order in progress. -/
def State.withMoneyOrder (s : State) (v : Option ChargingOrder) : State := s.withCharging { s.charging with order := v }

/-- TOP_UP is taken, and its holding read posted (R133). -/
def State.takeTopUp (place : Nat) (body : List Byte) (s : State) : State :=
  match s.readOutsideRestart Operands.topUp body with
  | .error code => s.reply place code .none
  | .ok (sub, amount) => (s.withMoneyOrder (some (.topUp place sub amount))).post sub .topUpRead

/-- TOP_UP (R133). -/
def execTopUp (s : State) : Result :=
  .next (match s.takeOrder .topUp with
    | none => s
    | some (place, body, taken) => (taken.takeTopUp place body).settleDown)

/-- A balance given to a record; EXHAUSTED is cleared if the balance is above reserved (R133, R134). -/
def Record.withBalance (r : Record) (balance : Nat) : Record :=
  { r with balance, exhausted := r.exhausted && decide (balance ≤ r.reserved) }

/-- The balance a TOP_UP leaves (R133). -/
def topUpBalance (r : Record) (amount : Nat) : Nat := min Config.max32 (r.balance + amount)

/-- TOP_UP on the record as held: the closing update and the reply (R133). -/
def State.completeTopUp (place sub way amount : Nat) (s : State) : State :=
  let r := s.lineRecord sub way
  let after := r.withBalance (topUpBalance r amount)
  ((s.closingUpdate sub way (fun r => r.withBalance (topUpBalance r amount))).withMoneyOrder none).reply place .ok
    (.toppedUp after.balance after.exhausted)

/-- TOP_UP_READ_SERVED (R133). -/
def execTopUpReadServed (s : State) : Result :=
  .next (match s.heldTurn .topUpRead, s.charging.order with
    | some (sub, way), some (.topUp place _ amount) => ((s.serveHolding sub way).completeTopUp place sub way amount).settleDown
    | _, _ => s)

/-- ADJUST is taken, and its holding read posted (R134). -/
def State.takeAdjust (place : Nat) (body : List Byte) (s : State) : State :=
  match s.readOutsideRestart Operands.adjust body with
  | .error code => s.reply place code .none
  | .ok (sub, amount) => (s.withMoneyOrder (some (.adjust place sub amount))).post sub .adjustRead

/-- ADJUST (R134). -/
def execAdjust (s : State) : Result :=
  .next (match s.takeOrder .adjust with
    | none => s
    | some (place, body, taken) => (taken.takeAdjust place body).settleDown)

/-- The balance an ADJUST leaves: raised to reserved if it would fall below it, lowered to the maximum if it would pass it
(R134). -/
def adjustBalance (r : Record) (amount : Int) : Nat :=
  min Config.max32 (max r.reserved ((r.balance : Int) + amount).toNat)

/-- ADJUST on the record as held: a POSTPAID record is refused and released, a PREPAID one adjusted (R134). -/
def State.completeAdjust (place sub way : Nat) (amount : Int) (s : State) : State :=
  let r := s.lineRecord sub way
  match r.host.account with
  | .postpaid => ((s.release sub).withMoneyOrder none).reply place .badValue .none
  | .prepaid =>
    let balance := adjustBalance r amount
    ((s.closingUpdate sub way (fun r => r.withBalance (adjustBalance r amount))).withMoneyOrder none).reply place .ok
      (.adjusted ((balance : Int) - (r.balance : Int)) balance)

/-- ADJUST_READ_SERVED (R134). -/
def execAdjustReadServed (s : State) : Result :=
  .next (match s.heldTurn .adjustRead, s.charging.order with
    | some (sub, way), some (.adjust place _ amount) => ((s.serveHolding sub way).completeAdjust place sub way amount).settleDown
    | _, _ => s)

/-! ### SETTLEMENT (R126) -/

/-- SETTLEMENT (R126): the settlement read of the head is served, and the head is settled in one act. -/
def execSettlement (s : State) : Result :=
  .next (match s.heldTurn .settlementRead, s.awaitedHead with
    | some (sub, way), some _ => ((s.serveHolding sub way).settleServed sub way).settleDown
    | _, _ => s)

end Sys2Proof.Machine
end

