-- ==== Sys2Proof/Machine/HostLink.lean ====
section
/-! DEFINITION. The host link: the receiver, the order checks, link reset and the transmitter (chapter 10). -/

namespace Sys2Proof.Machine

/-- Changes the counts of the Link Interface. -/
def Link.count (l : Link) (f : LinkCounts → LinkCounts) : Link := { l with counts := f l.counts }

/-- The receiver is gathering a frame: not in a break, when it takes no bytes (R157, R159). -/
def Link.gathering (l : Link) : Bool := decide (l.receiver = .gathering) && !l.inBreak

/-- A frame being gathered is discarded, the receiver hunts again, and its cause is counted (R158). -/
def Link.discard (l : Link) (f : LinkCounts → LinkCounts) : Link := { l.count f with receiver := .hunting }

/-! ### The order checks (R160) -/

/-- The count of a refusal made by the Link Interface (R160). -/
def LinkCounts.refusal (c : LinkCounts) : ReplyCode → LinkCounts
  | .busy => { c with busy := c.busy + 1 }
  | .unknownOrder => { c with unknownOrder := c.unknownOrder + 1 }
  | .badFormat => { c with badFormat := c.badFormat + 1 }
  | .ok | .badValue | .wrongState | .subRefused | .capability | .subLimit | .storeFull | .noFunds | .recordFault | .pending
  | .notFound | .alreadyDone | .faultSet | .logFull => c

/-- A refusal by the Link Interface takes a free reply place at once and is counted; with none free the frame is dropped as an overrun. A
place set aside for an order that waits is not free (R160, R162). -/
def Link.refuse (l : Link) (kind tag : Byte) (code : ReplyCode) : Link :=
  match l.freeList with
  | [] => l.count (fun c => { c with overruns := c.overruns + 1 })
  | place :: _ =>
    Link.startSending { l with
      ready := l.ready ++ [(place, { kind, tag, code, body := .none })], counts := l.counts.refusal code }

/-- An order that passes the three checks joins the tail of the order input queue (R160). -/
def Link.accept (l : Link) (kind : OrderKind) (tag : Byte) (body : List Byte) : Link :=
  { l with orders := l.orders ++ [{ kind, tag, body }], counts := { l.counts with accepted := l.counts.accepted + 1 } }

/-- The first of the three checks that a good frame fails (R160). -/
def Link.orderRefusal (l : Link) (kind : Byte) (body : List Byte) : Option ReplyCode :=
  match OrderKind.ofCode kind with
  | none => some .unknownOrder
  | some k =>
    if k.lengthFits body = false then some .badFormat
    else if Config.orderPlaces ≤ l.orders.length then some .busy
    else none

/-- A good frame: an order, or a refusal (R160). A place that is free is set aside for an accepted order whose unit is ready (R162). -/
def State.takeFrame (kind tag : Byte) (body : List Byte) (s : State) : State :=
  match s.link.orderRefusal kind body, OrderKind.ofCode kind with
  | none, some k => (s.withLink (s.link.accept k tag body)).setPlaces
  | some code, _ => s.withLink (s.link.refuse kind tag code)
  | none, none => s

/-- A frame whose last CHECK byte has arrived: good, or a check error (R157, R158). -/
def State.receive (kind tag : Byte) (body : List Byte) (check : Word16) (s : State) : State :=
  if check = frameCheck kind tag body then
    (s.withLink (s.link.discard (fun c => { c with goodFrames := c.goodFrames + 1 }))).takeFrame kind tag body
  else s.withLink (s.link.discard (fun c => { c with checkErrors := c.checkErrors + 1 }))

/-- HOST_FRAME (R157, R158, R160): a frame has arrived whole. A hunting receiver finds its SYNC byte within it; during a break
no byte is taken (log 28). -/
def execHostFrame (kind tag : Byte) (body : List Byte) (check : Word16) (s : State) : Result :=
  if body.length ≤ Config.maxBody then
    .next (if s.link.inBreak then s else s.receive kind tag body check)
  else .refused .noSuchEvent

/-- HOST_SYNC (R157). -/
def execHostSync (s : State) : Result :=
  .next (if s.link.receiver = .hunting ∧ s.link.inBreak = false then s.withLink { s.link with receiver := .gathering } else s)

/-- HOST_GAP_TIMEOUT (R158). -/
def execHostGapTimeout (s : State) : Result :=
  .next (if s.link.gathering then
      s.withLink (s.link.discard (fun c => { c with gapDiscards := c.gapDiscards + 1 }))
    else s)

/-- HOST_LINE_ERROR (R158). -/
def execHostLineError (s : State) : Result :=
  .next (if s.link.gathering then
      s.withLink (s.link.discard (fun c => { c with lineErrors := c.lineErrors + 1 }))
    else s)

/-- HOST_LENGTH_DISCARD (R158): the LENGTH received names a body above 508 bytes. -/
def execHostLengthDiscard (length : Word16) (s : State) : Result :=
  if Config.maxBody < length.toNat then
    .next (if s.link.gathering then
        s.withLink (s.link.discard (fun c => { c with lengthDiscards := c.lengthDiscards + 1 }))
      else s)
  else .refused .noSuchEvent

/-! ### Link reset (R159, R142) -/

/-- A taken order marked: its reply is discarded when it is made (R159). -/
def TakenOrder.mark (t : TakenOrder) : TakenOrder := { t with marked := true }

/-- The Link Interface at a link reset (R159). -/
def Link.reset (l : Link) : Link :=
  { l with
    receiver := .hunting, inBreak := true, orders := [], taken := l.taken.map TakenOrder.mark, ready := [], sending := .idle,
    notices := []
    counts := { l.counts with
      linkResets := l.counts.linkResets + 1
      ordersDiscarded := l.counts.ordersDiscarded + BitVec.ofNat 32 l.orders.length
      repliesDiscarded := l.counts.repliesDiscarded + BitVec.ofNat 32 l.repliesHeld
      noticesDiscarded := l.counts.noticesDiscarded + BitVec.ofNat 32 l.noticeCount } }

/-- The Billing Log at a link reset: last-returned 0, and a fresh LOG_HIGH notice at 768 records or more (R142). -/
def State.logReset (s : State) : State :=
  let reset := s.withLog { s.log with lastReturned := 0 }
  if Config.logHigh ≤ s.log.records.length then reset.warnHigh else reset

/-- LINK_RESET (R159): a break held longer is still one link reset. -/
def execLinkReset (s : State) : Result :=
  .next (if s.link.inBreak then s else (s.withLink s.link.reset).logReset)

/-- BREAK_END (R159): the receiver hunts and the transmitter resumes. -/
def execBreakEnd (s : State) : Result :=
  .next (if s.link.inBreak then
      s.withLink (Link.startSending { s.link with inBreak := false, receiver := .hunting })
    else s)

/-! ### The transmitter (R164) -/

/-- The last byte of a frame has been sent: it is counted, its place is free, and the next frame starts (R162 to R164). -/
def Link.sent (l : Link) : Link :=
  match l.sending with
  | .idle => l
  | .reply _ _ =>
    Link.startSending { l with sending := .idle, counts := { l.counts with repliesSent := l.counts.repliesSent + 1 } }
  | .notice _ =>
    Link.startSending { l with sending := .idle, counts := { l.counts with noticesSent := l.counts.noticesSent + 1 } }

/-- The transmitter is sending a reply. -/
def Link.sendsReply (l : Link) : Bool :=
  match l.sending with
  | .reply _ _ => true
  | .notice _ => false
  | .idle => false

/-- FRAME_SENT (R164). The place of a reply is then free, and an order that waits for one has it (R162). -/
def execFrameSent (s : State) : Result :=
  .next (if s.link.sendsReply then (s.withLink s.link.sent).setPlaces else s.withLink s.link.sent)

end Sys2Proof.Machine
end

