-- ==== Sys2Proof/Machine/Intake.lean ====
section
/-! DEFINITION. The commands of the Intake Unit and of the Message Store (chapter 1). An order no unit can take now, and a step
whose event cannot occur, leave the state unchanged (log 1, log 3). -/

namespace Sys2Proof.Machine

/-! ### SUBMIT -/

/-- SUBMIT is taken: checks 1 to 3, then its content is clamped and its intake read posted (R6, R7). -/
def State.takeSubmit (place : Nat) (body : List Byte) (s : State) : State :=
  match s.readRunning Operands.submit body with
  | .error code => s.reply place code .none
  | .ok (sub, level, encoding) =>
    (s.withOrder (some (.submit place sub (clamp level encoding (Operands.content body))))).post sub .intakeRead

/-- SUBMIT (R6). -/
def execSubmit (s : State) : Result :=
  .next (match s.takeOrder .submit with
    | none => s
    | some (place, body, taken) => (taken.takeSubmit place body).settleDown)

/-- INTAKE_READ_SERVED (R8): the intake read places its hold, and the SUBMIT goes through checks 5 to 9. -/
def execIntakeReadServed (s : State) : Result :=
  .next (match s.heldTurn .intakeRead, s.intake.order with
    | some (sub, way), some (.submit place _ m) => ((s.serveHolding sub way).completeSubmit place sub way m).settleDown
    | _, _ => s)

/-! ### SUBMIT_GROUP -/

/-- SUBMIT_GROUP is taken: checks 1 to 5, the body with its mark set, the entries set aside, and the first member's read (R14). -/
def State.takeSubmitGroup (place : Nat) (body : List Byte) (s : State) : State :=
  match s.groupStart body with
  | .error code => s.reply place code .none
  | .ok g =>
    let message := clamp g.level g.encoding (Operands.content body)
    match s.store.takeBody message none 0 true with
    | none => s.reply place .storeFull .none
    | some (slot, store) =>
      let begun := s.withStore { store with setAside := store.setAside + (g.others.length + 1) }
      begun.nextMember { place, group := g.group, body := slot, message, members := g.first :: g.others, counts := {} }

/-- SUBMIT_GROUP (R14). -/
def execSubmitGroup (s : State) : Result :=
  .next (match s.takeOrder .submitGroup with
    | none => s
    | some (place, body, taken) => (taken.takeSubmitGroup place body).settleDown)

/-- GROUP_MEMBER_READ_SERVED (R15): the read of the member in progress places its hold, and the member is created or refused. -/
def execGroupMemberReadServed (s : State) : Result :=
  .next (match s.heldTurn .memberRead, s.intake.order with
    | some (sub, way), some (.group g) => ((s.serveHolding sub way).completeMember g sub way).settleDown
    | _, _ => s)

/-! ### CANCEL -/

/-- CANCEL is taken: its checks, and its cancel requests set on their way (R21, R22). -/
def State.takeCancel (place : Nat) (body : List Byte) (s : State) : State :=
  match s.cancelStart body with
  | .error (code, reply) => s.reply place code reply
  | .ok (byMessage, requests) => s.withOrder (some (.cancel { place, byMessage, requests }))

/-- CANCEL (R21). -/
def execCancel (s : State) : Result :=
  .next (match s.takeOrder .cancel with
    | none => s
    | some (place, body, taken) => taken.takeCancel place body)

/-- CANCEL_REQUEST (R21): the next cancel request is taken by the unit that now holds its entry. -/
def execCancelRequest (s : State) : Result :=
  .next (match s.intake.order with
    | some (.cancel c) =>
      match c.requests with
      | [] => s
      | n :: rest => (s.takeCancelRequest c n rest).settleDown
    | some (.submit ..) => s
    | some (.group _) => s
    | none => s)

/-! ### SET_ADMISSION -/

/-- SET_ADMISSION carried out: both settings are replaced, and the hold list follows a rise of the effective level (R18, R19). -/
def setAdmissionAct (v : Nat × Bool) (s : State) : Answer :=
  let set := s.withIntake { s.intake with hostLevel := v.1, congestionControl := v.2 }
  (.ok, .effectiveLevel set.effectiveLevel, (set.releaseHeld s.effectiveLevel).settleDown)

/-- SET_ADMISSION (R18). -/
def execSetAdmission (s : State) : Result :=
  .next (s.answerOrder .setAdmission (outsideRestart (withOperand Operands.setAdmission setAdmissionAct)))

/-! ### QUERY_MESSAGE -/

/-- The summary of an entry (R23): its outcome and reply code are those of a SETTLING entry. -/
def Entry.summary (n : Nat) (e : Entry) : EntrySummary :=
  { entry := n, sub := e.sub, group := e.group, state := e.state, originalLevel := e.originalLevel, level := e.level,
    attempts := e.attempts, airTag := e.airTag, cancelRequested := e.cancelRequested, outcome := e.outcome,
    replyCode := e.replyCode }

/-- The number of entries in a state. -/
def countState (l : List (Nat × Entry)) (st : EntryState) : Nat := (l.filter (fun p => decide (p.2.state = st))).length

/-- The count of a message's entries in each state (R23). -/
def stateCounts (l : List (Nat × Entry)) : StateCounts :=
  { held := countState l .held, queued := countState l .queued, placed := countState l .placed,
    offered := countState l .offered, awaiting := countState l .awaiting, retryWait := countState l .retryWait,
    settling := countState l .settling }

/-- QUERY_MESSAGE carried out (R23). -/
def queryMessageAct (body : List Byte) (s : State) : Answer :=
  let number : Word32 := BitVec.ofNat 32 (Bytes.field body 0 4)
  match s.store.findMessage number with
  | none => refuse .notFound s
  | some (slot, b) =>
    let entries := s.store.entriesOf slot
    (.ok, .message number b.encoding b.content.length b.references (stateCounts entries)
      ((entries.take 32).map (fun p => p.2.summary p.1)), s)

/-- QUERY_MESSAGE (R23). -/
def execQueryMessage (s : State) : Result := .next (s.answerOrder .queryMessage (outsideRestart queryMessageAct))

/-! ### GROUP_SET and GROUP_READ -/

/-- A group submission of this group is in progress (R12). -/
def Intake.groupBusy (i : Intake) (group : Nat) : Bool :=
  match i.order with
  | some (.group g) => g.group == group
  | some (.submit ..) => false
  | some (.cancel _) => false
  | none => false

/-- The unfinished list of a group (R12). -/
def Store.unfinishedList (t : Store) (group : Nat) : Option UnfinishedList := Table.get none t.unfinished group

/-- The slots an unfinished list of a group has taken from the pool (R12). -/
def Store.unfinishedSlots (t : Store) (group : Nat) : Nat :=
  match t.unfinishedList group with
  | none => 0
  | some u => u.total

/-- A list of so many members, of which these have been given: it comes into force when it is complete, and the old list's slots
return to the pool; until then it is unfinished (R12). -/
def Store.putMembers (t : Store) (group total : Nat) (members : List Nat) : Store :=
  if members.length = total then
    { t with
      groups := Table.set [] t.groups group members
      unfinished := Table.set none t.unfinished group none
      poolFree := t.poolFree + (Table.get [] t.groups group).length }
  else { t with unfinished := Table.set none t.unfinished group (some { total, members }) }

/-- The answer to a piece that was taken (R12). -/
def pieceTaken (p : Operands.GroupPiece) (members : List Nat) (t : Store) (s : State) : Answer :=
  (.ok, .groupPiece members.length (decide (members.length = p.total)), s.withStore (t.putMembers p.group p.total members))

/-- GROUP_SET carried out, its ranges being good (R12, checks 3 to 5). The free slots are judged after the unfinished list of the
group has been discarded (log 16). -/
def groupSetAct (p : Operands.GroupPiece) (s : State) : Answer :=
  if s.intake.groupBusy p.group then refuse .busy s
  else if p.position = 0 then
    let free := s.store.poolFree + s.store.unfinishedSlots p.group
    if free < p.total then refuse .storeFull s
    else pieceTaken p p.members { s.store with poolFree := free - p.total } s
  else
    match s.store.unfinishedList p.group with
    | none => refuse .badValue s
    | some u =>
      if u.total = p.total ∧ u.members.length = p.position then pieceTaken p (u.members ++ p.members) s.store s
      else refuse .badValue s

/-- GROUP_SET (R12). -/
def execGroupSet (s : State) : Result :=
  .next (s.answerOrder .groupSet (outsideRestart (withOperand Operands.groupSet groupSetAct)))

/-- GROUP_READ carried out, its group and count being in range (R13). -/
def groupReadAct (v : Nat × Nat × Nat) (s : State) : Answer :=
  let list := Table.get [] s.store.groups v.1
  if list.length < v.2.1 then refuse .badValue s
  else (.ok, .groupMembers list.length ((list.drop v.2.1).take v.2.2), s)

/-- GROUP_READ (R13). -/
def execGroupRead (s : State) : Result :=
  .next (s.answerOrder .groupRead (outsideRestart (withOperand Operands.groupRead groupReadAct)))

end Sys2Proof.Machine
end

