-- ==== Sys2Proof/Machine/Records.lean ====
section
/-! DEFINITION. The commands of the Record Cache: the host record orders, the sweeps, the settings and the completions of the record
memory port (chapter 2). -/

namespace Sys2Proof.Machine

/-! ### READ_SUB (R42) -/

/-- READ_SUB is taken and posted in its subscriber's order; one that finds a fill in flight joins its waiters (R42). -/
def State.takeReadSub (place : Nat) (body : List Byte) (s : State) : State :=
  match Operands.subscriber body 0 with
  | none => s.reply place .badValue .none
  | some n => s.post n (.readSub place (if s.cache.filling n then .joined else .posted))

/-- READ_SUB (R42). -/
def execReadSub (s : State) : Result :=
  .next (match s.takeOrder .readSub with
    | none => s
    | some (place, body, taken) => (taken.takeReadSub place body).settleDown)

/-- A READ_SUB in its turn: from the line that holds its subscriber, or joined to the fill in flight, or by a memory read (R42). -/
def State.serveReadSub (place n : Nat) (s : State) : State :=
  match s.cache.onChip n with
  | some way => (s.withCache (s.cache.withoutFront n)).answerFromLine place n way
  | none =>
    if s.cache.filling n then s.withCache (s.cache.changeFront n (.readSub place .joined))
    else s.withCache ((s.cache.changeFront n (.readSub place .reading)).issue (.hostRead n))

/-- The READ_SUB whose turn it is for a subscriber: its reply place (R30, R42). -/
def State.readSubTurn (n : Nat) (s : State) : Option Nat :=
  match s.cache.front n with
  | none => none
  | some r =>
    if s.cache.isHeld n || s.cache.waitsForSweep r then none
    else
      match r.kind with
      | .readSub place .posted => some place
      | .readSub place .joined => if s.cache.filling n then none else some place
      | .readSub _ .reading => none
      | .intakeRead | .memberRead | .settlementRead | .topUpRead | .adjustRead | .reachRead .. | .touch | .update _
      | .writeSub .. | .repairSub .. => none

/-- READ_SUB_SERVED (R42). -/
def execReadSubServed (n : Nat) (s : State) : Result :=
  if n < Config.subscribers then
    .next (match s.readSubTurn n with
      | none => s
      | some place => (s.serveReadSub place n).settleDown)
  else .refused .noSuchEvent

/-- A memory read of a host order has failed its check word: the reply is RECORD_FAULT, and then the count rises and the notice is queued.
R42 gives that order for READ_SUB; R43 gives none for WRITE_SUB, and there it is the model's choice (log 59). -/
def State.failHostRead (place n : Nat) (source : FaultSource) (s : State) : State :=
  ((s.reply place .recordFault .none).countCache (fun c => { c with hostReadFaults := c.hostReadFaults + 1 })).noteFault n source

/-- The memory read of a READ_SUB has returned: the record as rolled, or RECORD_FAULT (R42). -/
def State.endHostRead (place n : Nat) (s : State) : State :=
  let served := s.withCache (s.cache.withoutFront n)
  match Memory.readRecord s.mem n with
  | some r => served.reply place .ok (.record .memory .invalid 0 (r.roll s.charging.period))
  | none => served.failHostRead place n .hostRead

/-- HOST_READ_DONE (R42). -/
def execHostReadDone (s : State) : Result :=
  match s.completion with
  | some (.hostRead n, rest) =>
    if n < Config.subscribers then
      .next (match rest.cache.front n with
        | some { kind := .readSub place .reading, .. } => (rest.endHostRead place n).settleDown
        | _ => rest)
    else .fault (.noSuchRecord n)
  | _ => .next s

/-! ### WRITE_SUB and REPAIR_SUB (R43, R44) -/

/-- WRITE_SUB is taken and posted as a request (R43). -/
def State.takeWriteSub (place : Nat) (body : List Byte) (s : State) : State :=
  match s.readOutsideRestart Operands.writeSub body with
  | .error code => s.reply place code .none
  | .ok (n, fields) => s.post n (.writeSub place fields .waiting)

/-- WRITE_SUB (R43): in its turn, with no fill in flight, it reads its record from memory. -/
def execWriteSub (s : State) : Result :=
  .next (match s.takeOrder .writeSub with
    | none => s
    | some (place, body, taken) => (taken.takeWriteSub place body).settleDown)

/-- The six host-owned fields of a line that holds the subscriber are replaced (R43). The LRU mark stays (log 44). -/
def Cache.replaceHost (c : Cache) (n : Nat) (fields : HostFields) : Cache :=
  match c.onChip n with
  | none => c
  | some way => c.setLine n way { c.line n way with record := { (c.line n way).record with host := fields } }

/-- The read that begins a WRITE_SUB has returned: the write with the new host-owned fields, or RECORD_FAULT
(R43; that its reply is made before its notice is the model's choice, log 59). -/
def State.endWriteRead (place n : Nat) (fields : HostFields) (s : State) : State :=
  match Memory.readRecord s.mem n with
  | some r =>
    s.withCache (((s.cache.replaceHost n fields).changeFront n (.writeSub place fields .writing)).issue
      (.hostWrite n { r with host := fields }))
  | none => (s.withCache (s.cache.withoutFront n)).failHostRead place n .hostWrite

/-- WRITE_SUB_READ_DONE (R43). -/
def execWriteSubReadDone (s : State) : Result :=
  match s.completion with
  | some (.hostWriteRead n, rest) =>
    if n < Config.subscribers then
      .next (match rest.cache.front n with
        | some { kind := .writeSub place fields .reading, .. } => (rest.endWriteRead place n fields).settleDown
        | _ => rest)
    else .fault (.noSuchRecord n)
  | _ => .next s

/-- REPAIR_SUB is taken and posted as a request (R44). -/
def State.takeRepairSub (place : Nat) (body : List Byte) (s : State) : State :=
  match s.readOutsideRestart Operands.repairSub body with
  | .error code => s.reply place code .none
  | .ok (n, fields, balance) => s.post n (.repairSub place fields balance .waiting)

/-- REPAIR_SUB (R44): in its turn, with no fill in flight, it scans the store and writes the repaired record. -/
def execRepairSub (s : State) : Result :=
  .next (match s.takeOrder .repairSub with
    | none => s
    | some (place, body, taken) => (taken.takeRepairSub place body).settleDown)

/-- The write of a WRITE_SUB or REPAIR_SUB has been carried out: the pin goes and the OK reply is made (R43, R44). -/
def State.endHostWrite (n : Nat) (r : Record) (s : State) : State :=
  let written := s.writeRecord n r
  match s.cache.front n with
  | some { kind := .writeSub place _ .writing, .. } => (written.withCache (written.cache.withoutFront n)).reply place .ok .none
  | some { kind := .repairSub place _ _ .writing, .. } => (written.withCache (written.cache.withoutFront n)).reply place .ok .none
  | _ => written

/-- HOST_WRITE_DONE (R43, R44). -/
def execHostWriteDone (s : State) : Result :=
  match s.completion with
  | some (.hostWrite n r, rest) =>
    if n < Config.subscribers then .next (rest.endHostWrite n r).settleDown else .fault (.noSuchRecord n)
  | _ => .next s

/-! ### INIT_RECORDS (R45) -/

/-- INIT_RECORDS is taken: the sweep begins, or the order is refused (R45). -/
def State.takeInitRecords (place : Nat) (body : List Byte) (s : State) : State :=
  if s.link.partState ≠ .config then s.reply place .wrongState .none
  else
    match Operands.initRecords body with
    | none => s.reply place .badValue .none
    | some (first, last) =>
      if s.cache.sweep.isSome then s.reply place .busy .none
      else s.withCache { s.cache with sweep := some (.records place first last 0) }

/-- INIT_RECORDS (R45). -/
def execInitRecords (s : State) : Result :=
  .next (match s.takeOrder .initRecords with
    | none => s
    | some (place, body, taken) => taken.takeInitRecords place body)

/-- Every earlier request of the subscriber has been served, and no hold stands: the sweep may write its default record (R45). -/
def Cache.readyToInit (c : Cache) (n : Nat) : Bool :=
  !(c.queue ++ c.heldRequests).any (fun r => r.sub == n && !r.behindSweep) && !c.isHeld n

/-- A request that waited for the default record of its subscriber waits no longer (R45). -/
def Request.sweepPassed (n : Nat) (r : Request) : Request := if r.sub = n then { r with behindSweep := false } else r

/-- A line that holds the subscriber becomes INVALID, its deferred changes discarded (R45). -/
def Cache.invalidate (c : Cache) (n : Nat) : Cache :=
  match c.onChip n with
  | none => c
  | some way => c.setLine n way {}

/-- The sweep issues the default record of its next index (R45). -/
def State.writeDefault (place next last written : Nat) (s : State) : State :=
  let c := s.cache.invalidate next
  s.withCache { c.issue (.initWrite next (Record.fresh HostFields.default 0 s.charging.period) (decide (next = last))) with
    queue := c.queue.map (Request.sweepPassed next)
    heldRequests := c.heldRequests.map (Request.sweepPassed next)
    sweep := some (.records place (next + 1) last (written + 1)) }

/-- INIT_RECORD_WRITE (R45). -/
def execInitRecordWrite (s : State) : Result :=
  .next (match s.cache.sweep with
    | some (.records place next last written) =>
      if next ≤ last ∧ s.cache.readyToInit next = true then (s.writeDefault place next last written).settleDown else s
    | some (.lines ..) => s
    | none => s)

/-- INIT_RECORDS_DONE (R45): the last write has been carried out, and the reply is made. -/
def execInitRecordsDone (s : State) : Result :=
  match s.completion with
  | some (.initWrite n r true, rest) =>
    if n < Config.subscribers then
      .next (match rest.cache.sweep with
        | some (.records place _ _ written) =>
          (((rest.writeRecord n r).withCache { rest.cache with sweep := none }).reply place .ok (.swept written)).settleDown
        | some (.lines ..) => rest.writeRecord n r
        | none => rest.writeRecord n r)
    else .fault (.noSuchRecord n)
  | _ => .next s

/-! ### FLUSH (R46) -/

/-- FLUSH is taken: the sweep begins, or the order is refused (R46). -/
def flushTake (place : Nat) (s : State) : State :=
  if s.link.partState = .restarting then s.reply place .wrongState .none
  else if s.cache.sweep.isSome then s.reply place .busy .none
  else s.withCache { s.cache with sweep := some (.lines (some place) 0 0 0) }

/-- FLUSH (R46). -/
def execFlush (s : State) : Result :=
  .next (match s.takeOrder .flush with
    | none => s
    | some (place, _, taken) => flushTake place taken)

/-- The line a sweep visits, by its number, and the subscriber it holds (R29, R46). -/
def Cache.lineAt (c : Cache) (i : Nat) : Line := Table.get {} c.lines i

/-- The subscriber the line of a number holds. -/
def Cache.subAt (c : Cache) (i : Nat) : Nat := Cache.subOf (i / 2) (c.lineAt i).tag

/-- A sweep visits a line: a DIRTY one is written back, becomes CASTING with count 0, and is counted (R46). -/
def Cache.visit (c : Cache) (place : Option Nat) (next written outstanding : Nat) : Cache :=
  let l := c.lineAt next
  if l.state = .dirty then
    let cast := { c with lines := Table.set {} c.lines next { l with state := .casting, deferral := 0 } }
    { cast.issueWrite (.writeBack (c.subAt next) l.record true) with
      sweep := some (.lines place (next + 1) (written + 1) (outstanding + 1)) }
  else { c with sweep := some (.lines place (next + 1) written outstanding) }

/-- FLUSH_VISIT (R46): the sweep, of a FLUSH or of the restart, visits its next line. -/
def execFlushVisit (s : State) : Result :=
  .next (match s.cache.sweep with
    | some (.lines place next written outstanding) =>
      if next < Config.cacheLines then (s.withCache (s.cache.visit place next written outstanding)).settleDown else s
    | some (.records ..) => s
    | none => s)

/-- The end of a sweep of lines: all 512 are visited, and none of its write-backs is outstanding, or the last one completes now
(R46, log 12). The reply place, the number of lines written, and the state with the sweep ended. -/
def State.sweepEnd (s : State) : Option (Option Nat × Nat × State) :=
  match s.cache.sweep with
  | some (.lines place next written outstanding) =>
    if next < Config.cacheLines then none
    else
      match outstanding with
      | 0 => some (place, written, s.withCache { s.cache with sweep := none })
      | 1 =>
        match s.completion with
        | some (.writeBack n r true, rest) =>
          if n < Config.subscribers then
            let done := rest.writeRecord n r
            some (place, written, done.withCache { done.cache.endWriteBack n with sweep := none })
          else none
        | _ => none
      | _ + 2 => none
  | some (.records ..) => none
  | none => none

/-- FLUSH_DONE (R46): the host's sweep has ended, and the reply gives the lines written. -/
def execFlushDone (s : State) : Result :=
  .next (match s.sweepEnd with
    | some (some place, written, ended) => (ended.reply place .ok (.swept written)).settleDown
    | some (none, _, _) => s
    | none => s)

/-! ### SET_CACHE and SET_ADDRESS_BASE -/

/-- The number of lines in a state. -/
def Cache.linesIn (c : Cache) (st : LineState) : Nat :=
  ((List.range Config.cacheLines).filter (fun i => decide ((c.lineAt i).state = st))).length

/-- SET_CACHE carried out (R41). Only BOUNDED brings a limit; another policy leaves the limit held as it was (log 36). -/
def setCacheAct (v : WritePolicy × Option Nat) (s : State) : Answer :=
  let limit := v.2.getD s.cache.limit
  (.ok, .cachePolicy v.1 limit (s.cache.linesIn .dirty), s.withCache { s.cache with policy := v.1, limit })

/-- SET_CACHE (R41). -/
def execSetCache (s : State) : Result :=
  .next (s.answerOrder .setCache (outsideRestart (withOperand Operands.setCache setCacheAct)))

/-- SET_ADDRESS_BASE carried out (R26). -/
def setAddressBaseAct (v : Nat) (s : State) : Answer := (.ok, .none, s.withCache { s.cache with addressBase := some v })

/-- The orders served in CONFIG alone (R26). -/
def inConfig (act : List Byte → State → Answer) (body : List Byte) (s : State) : Answer :=
  if s.link.partState = .config then act body s else refuse .wrongState s

/-- SET_ADDRESS_BASE (R26). -/
def execSetAddressBase (s : State) : Result :=
  .next (s.answerOrder .setAddressBase (inConfig (withOperand Operands.setAddressBase setAddressBaseAct)))

/-! ### Completions of the record memory port (R36 to R40) -/

/-- A fill read has returned (R37, R38). -/
def State.endFillRead (n way : Nat) (s : State) : State :=
  let freed := s.withCache (s.cache.endFill n)
  match Memory.readRecord s.mem n with
  | some r => freed.withCache (freed.cache.install n way r)
  | none => freed.failFill n way

/-- FILL_DONE (R37, R38). -/
def execFillDone (s : State) : Result :=
  match s.completion with
  | some (.fill n way, rest) =>
    if n < Config.subscribers then .next (rest.endFillRead n way).settleDown else .fault (.noSuchRecord n)
  | _ => .next s

/-- CASTOUT_DONE (R36): memory takes the record; no line changes. -/
def execCastoutDone (s : State) : Result :=
  match s.completion with
  | some (.castout n r, rest) =>
    if n < Config.subscribers then .next (rest.writeRecord n r) else .fault (.noSuchRecord n)
  | _ => .next s

/-- A write-back that ends a finished sweep is not this step's: FLUSH_DONE and RESTART_COMPLETE are (R46, R170). -/
def State.isLastOfSweep (s : State) (bySweep : Bool) : Bool :=
  match s.cache.sweep with
  | some (.lines _ next _ outstanding) => bySweep && decide (Config.cacheLines ≤ next) && decide (outstanding ≤ 1)
  | some (.records ..) => false
  | none => false

/-- One write-back fewer of the sweep is outstanding (R46). -/
def Cache.countDown (c : Cache) (bySweep : Bool) : Cache :=
  match c.sweep with
  | some (.lines place next written outstanding) =>
    if bySweep then { c with sweep := some (.lines place next written (outstanding - 1)) } else c
  | some (.records ..) => c
  | none => c

/-- A write-back has been carried out (R40). -/
def State.endWriteBack (n : Nat) (r : Record) (bySweep : Bool) (s : State) : State :=
  let written := s.writeRecord n r
  written.withCache ((written.cache.endWriteBack n).countDown bySweep)

/-- WRITE_BACK_DONE (R40). -/
def execWriteBackDone (s : State) : Result :=
  match s.completion with
  | some (.writeBack n r bySweep, rest) =>
    if n < Config.subscribers then
      .next (if s.isLastOfSweep bySweep then s else (rest.endWriteBack n r bySweep).settleDown)
    else .fault (.noSuchRecord n)
  | _ => .next s

/-- THROUGH_WRITE_DONE (R39): memory takes the record. -/
def execThroughWriteDone (s : State) : Result :=
  match s.completion with
  | some (.throughWrite n r, rest) =>
    if n < Config.subscribers then .next (rest.writeRecord n r) else .fault (.noSuchRecord n)
  | _ => .next s

end Sys2Proof.Machine
end

