-- ==== Sys2Proof/Machine/Status.lean ====
section
/-! DEFINITION. STATUS: the figures of the ten sections as they stand at one moment (R165 and the STATUS rule of each chapter). -/

namespace Sys2Proof.Machine

/-! ### Counting -/

/-- The number of entries in all frame queues (R81). -/
def Assembler.queuedCount (a : Assembler) : Nat := a.allQueued.length

/-- The retry-list elements whose reach mark is set (R116). -/
def Retry.markedCount (r : Retry) : Nat := (r.list.filter RetryElement.reachPending).length

/-- The zones of a device total (R165). -/
def ZoneLinks.total (l : ZoneLinks) (f : ZoneLinkCounts → Word32) : Word32 :=
  (List.range Config.zones).foldl (fun n z => n + f (l.zone z).counts) 0

/-! ### Sections (R165) -/

/-- SUMMARY. -/
def State.summaryFigures (s : State) : SummaryFigures :=
  { vendor := Config.vendorCode, part := Config.partCode, revision := Config.revision, partState := s.link.partState,
    live := s.store.occupancy, freeBodies := s.store.freeBodies.length, available := s.store.available,
    setAside := s.store.setAside, held := s.intake.holdList.length, queued := s.assembler.queuedCount,
    awaiting := s.retry.awaitSet.length, retrying := s.retry.list.length, settling := s.charging.settleList.length,
    logged := s.log.records.length, congestion := s.store.congestion, hostLevel := s.intake.hostLevel,
    control := s.intake.congestionControl, effective := s.effectiveLevel, timer := s.timer.state,
    frameCount := s.timer.frameCount, frameNumber := s.timer.frameNumber, cycle := s.timer.cycle,
    lengthInForce := s.timer.lengthInForce, counts := s.link.counts, strays := s.retry.counts.strays,
    foreign := s.zoneLinks.total ZoneLinkCounts.foreign, dropped := s.zoneLinks.total ZoneLinkCounts.dropped,
    nextAdmission := s.store.nextAdmission, nextSequence := s.log.nextSequence, appended := s.log.counts.appended,
    zoneStates := (List.range Config.zones).map (fun z => (s.monitor.zone z).state), inService := s.monitor.inService,
    faulted := s.monitor.summary }

/-- What STATUS gives of a group submission in progress, which fits the one reply body of its section: R165 names the submission and not its
figures, and which they are is the model's choice (log 58). -/
def GroupOrder.figures (g : GroupOrder) : GroupFigures :=
  { group := g.group, body := g.body, level := g.message.level, encoding := g.message.encoding, blocks := g.message.blocks,
    remaining := g.members.length, counts := g.counts }

/-- The group submission in progress, by its figures (R165; log 58). -/
def Intake.groupInProgress (i : Intake) : Option GroupFigures :=
  match i.order with
  | some (.group g) => some g.figures
  | some (.submit ..) => none
  | some (.cancel _) => none
  | none => none

/-- STORE. Its figures of the group submission in progress are the model's choice (log 58). -/
def State.storeFigures (s : State) : StoreFigures :=
  { freeBodies := s.store.freeBodies.length, freeEntries := s.store.freeEntries.length, setAside := s.store.setAside,
    occupancy := s.store.occupancy, congestion := s.store.congestion, hostLevel := s.intake.hostLevel,
    control := s.intake.congestionControl, effective := s.effectiveLevel, held := s.intake.holdList.length,
    nextMessage := s.store.nextMessage, nextAdmission := s.store.nextAdmission, poolFree := s.store.poolFree,
    group := s.intake.groupInProgress }

/-- CACHE (R47). -/
def State.cacheFigures (s : State) : CacheFigures :=
  { counts := s.cache.counts, invalid := s.cache.linesIn .invalid, clean := s.cache.linesIn .clean,
    dirty := s.cache.linesIn .dirty, filling := s.cache.linesIn .filling, casting := s.cache.linesIn .casting,
    queued := s.cache.occupancy, misses := s.cache.fills.length, policy := s.cache.policy, limit := s.cache.limit,
    addressBase := s.cache.addressBase }

/-- A frame in hand (R81). -/
def Frame.figures (f : Frame) : FrameFigures :=
  { launch := f.launch, number := f.number, placed := f.placed.length, blocks := (List.range Config.zones).map f.block }

/-- ASSEMBLY (R81). -/
def State.assemblyFigures (s : State) : AssemblyFigures :=
  { counts := s.assembler.counts, queued := s.assembler.queuedCount, missSkipped := s.assembler.missSkip.length,
    openFrame := s.assembler.openFrame.map Frame.figures,
    offeredFrame := s.assembler.offered.map (fun o => o.frame.figures) }

/-- ZONE (R95). DESIGN CHOICE: R95 has STATUS report the occupancy of the reverse item queue and R165 names no section for it; the model gives
it here, whichever zone is named (log 61). -/
def State.zoneFigures (s : State) (z : Nat) : ZoneFigures :=
  { link := s.zoneLinks.zone z, zoneState := (s.monitor.zone z).state, inService := ZoneSet.has s.monitor.inService z,
    faulted := ZoneSet.has s.monitor.summary z, reverseQueued := s.zoneLinks.reverseQueue.length,
    unattributed := s.zoneLinks.unattributed }

/-- RETRY (R116). -/
def State.retryFigures (s : State) : RetryFigures :=
  { counts := s.retry.counts, awaiting := s.retry.awaitSet.length, retrying := s.retry.list.length,
    marked := s.retry.markedCount, horizon := s.retry.horizon, policy := s.retry.policy, missLimit := s.retry.missLimit,
    probeInterval := s.retry.probeInterval }

/-- CHARGING (R132). -/
def State.chargingFigures (s : State) : ChargingFigures :=
  { counts := s.charging.counts, settling := s.charging.settleList.length, head := s.charging.head,
    headEntry := s.charging.settleList.head?.map SettleElement.entry, period := s.charging.period }

/-- LOG (R146). -/
def State.logFigures (s : State) : LogFigures :=
  { counts := s.log.counts, held := s.log.records.length, available := s.log.available, setAside := s.log.setAside,
    waiting := s.log.waiting, nextSequence := s.log.nextSequence, oldest := firstSequence s.log.records,
    newest := lastSequence s.log.records, lastReturned := s.log.lastReturned, high := s.log.high,
    greatest := s.log.greatest, selection := s.log.selection }

/-- HOST (R166): every term of its sum. The STATUS order itself counts among those taken and unanswered (log 38). -/
def State.hostFigures (s : State) : HostFigures :=
  { lineRate := s.link.lineRate, receiver := s.link.receiver, queued := s.link.orders.length,
    unanswered := s.link.taken.length, marked := (s.link.taken.filter TakenOrder.marked).length,
    ready := s.link.repliesHeld, noticesQueued := s.link.noticeCount,
    nextNotice := s.link.nextNotice, counts := s.link.counts }

/-- The reply of a section (R165). -/
def State.sectionBody (s : State) : Operands.Section → ReplyBody
  | .summary => .statusSummary s.summaryFigures
  | .store => .statusStore s.storeFigures
  | .cache => .statusCache s.cacheFigures
  | .air =>
    .statusAir s.timer.figures s.timer.state s.timer.frameCount s.timer.frameNumber s.timer.cycle s.timer.ignored
      s.timer.early s.timer.holds
  | .assembly => .statusAssembly s.assemblyFigures
  | .zone z => .statusZone (s.zoneFigures z)
  | .retry => .statusRetry s.retryFigures
  | .charging => .statusCharging s.chargingFigures
  | .log => .statusLog s.logFigures
  | .host => .statusHost s.hostFigures

/-- STATUS carried out: it changes nothing (R165). -/
def statusAct (v : Operands.Section) (s : State) : Answer := (.ok, s.sectionBody v, s)

/-- STATUS (R165): served in every part state. -/
def execStatus (s : State) : Result := .next (s.answerOrder .status (withOperand Operands.status statusAct))

end Sys2Proof.Machine
end

