-- ==== Sys2Proof/Machine/Zones.lean ====
section
/-! DEFINITION. The zone links and the Zone Monitor: answers, reports and bad frames of the zones, derived occurrences, and the
orders that configure, restore and clear (chapters 5 and 9). -/

namespace Sys2Proof.Machine

/-! ### Frames from a zone (R83, R84, R87, R90, R91) -/

/-- The link and body lie where a zone link can bring them (R83). -/
def zoneFrameFits (link : Nat) (body : List Byte) : Bool :=
  decide (link < Config.zones) && decide (body.length ≤ Config.maxBody)

/-- An answer is compared with the forward record of its link (R87). -/
def State.answerOffer (link : Nat) (launch : Word32) (accepted : Bool) (s : State) : State :=
  s.changeZoneLink link (fun v => v.answered launch accepted)

/-- TAKEN (R87). -/
def execTaken (link : Nat) (body : List Byte) (s : State) : Result :=
  if zoneFrameFits link body then
    .next (match Operands.taken link body with
      | none => s.badZoneFrame link .forward
      | some launch => s.answerOffer link launch true)
  else .refused .noSuchEvent

/-- REJECT (R87): every REJECT of a configured zone is an occurrence of FWD_FRAME_ERROR. -/
def execReject (link : Nat) (body : List Byte) (s : State) : Result :=
  if zoneFrameFits link body then
    .next (match Operands.reject link body with
      | none => s.badZoneFrame link .forward
      | some launch => (s.answerOffer link launch false).occurrence link .fwdFrameError)
  else .refused .noSuchEvent

/-- A frame of an UNCONFIGURED zone is counted and discarded (R84). -/
def State.discardUnconfigured (link : Nat) (s : State) : State :=
  s.countZone link (fun c => { c with unconfigured := c.unconfigured + 1 })

/-- A STATE of a configured zone: the reference state, and REF_UNLOCK for each UNLOCKED (R90). -/
def State.takeReference (link : Nat) (reference : ReferenceState) (s : State) : State :=
  let set := s.changeZoneLink link (fun v => { v with reference })
  if reference = .unlocked then set.occurrence link .refUnlock else set

/-- STATE (R90). -/
def execStateReport (link : Nat) (body : List Byte) (s : State) : Result :=
  if zoneFrameFits link body then
    .next (match Operands.stateReport link body with
      | none => s.badZoneFrame link .forward
      | some reference =>
        if s.monitor.configured link then s.takeReference link reference else s.discardUnconfigured link)
  else .refused .noSuchEvent

/-- The arrival of a valid report clears the silence count and sets the arrival mark (R91, R152). -/
def Zone.heard (v : Zone) : Zone := { v with silence := 0, arrival := true }

/-- A valid report of a configured zone: its arrival, its window frame count, the count, and its items in order (R91 to R93). A
REV_SILENT occurrence due from the last frame start was recorded before it (R152, log 13). -/
def State.takeReport (link : Nat) (windowCount : Word32) (items : List Operands.WindowItem) (s : State) : State :=
  let heard := (s.recordSilent link).changeZone link Zone.heard
  let noted := heard.changeZoneLink link (fun v =>
    { v with lastWindow := some windowCount, counts := { v.counts with validReports := v.counts.validReports + 1 } })
  items.foldl (fun s i => s.takeItem link i) noted

/-- WINDOW (R91). -/
def execWindow (link : Nat) (body : List Byte) (s : State) : Result :=
  if zoneFrameFits link body then
    .next (match Operands.window link body with
      | none => s.badZoneFrame link .reverse
      | some (windowCount, items) =>
        if s.monitor.configured link then s.takeReport link windowCount items else s.discardUnconfigured link)
  else .refused .noSuchEvent

/-- ZONE_BAD_FRAME (R83, R84): a frame that fails the envelope or field checks. A good frame is not this event. -/
def execZoneBadFrame (link : Nat) (frame : ZoneFrameIn) (s : State) : Result :=
  if (Instr.zoneBadFrame link frame).wellFormed then
    .next (match Operands.badFrame link frame with
      | none => s
      | some attribution => s.badZoneFrame link attribution)
  else .refused .noSuchEvent

/-- ZONE_GAP_TIMEOUT (R83, R84): the frame being gathered is a bad frame, attributed by its KIND byte if that had arrived. -/
def execZoneGapTimeout (link : Nat) (kind : Option Byte) (s : State) : Result :=
  if link < Config.zones then .next (s.badZoneFrame link (Operands.attribution kind)) else .refused .noSuchEvent

/-! ### Derived occurrences (R151, R152, log 13) -/

/-- UNTAKEN (R151): the run of the zone had reached T. -/
def execUntaken (zone : Nat) (s : State) : Result :=
  if zone < Config.zones then .next (s.recordUntaken zone) else .refused .noSuchEvent

/-- REV_SILENT (R152): the silence count of the zone had reached S. -/
def execRevSilent (zone : Nat) (s : State) : Result :=
  if zone < Config.zones then .next (s.recordSilent zone) else .refused .noSuchEvent

/-! ### SET_ZONE and ZONE_RESTORE (R148, R149) -/

/-- All five conditions. -/
def allConditions : FaultSet := 31

/-- A zone with its run and count at 0 and its arrival mark clear; what was due has been recorded, and nothing is (log 13). -/
def Zone.settled (v : Zone) : Zone :=
  { v with untakenRun := 0, silence := 0, arrival := false, untakenDue := false, silentDue := false }

/-- SET_ZONE carried out on the Zone Monitor (R148). -/
def Monitor.configure (m : Monitor) (z : Nat) (enable : Bool) (neighbours : ZoneSet) : Monitor :=
  let named := m.setZone z { m.zone z with neighbours }
  let v := named.zone z
  if enable then
    if v.state = .unconfigured then named.setZone z { v.settled with state := .inService, faults := 0 } else named
  else if v.state = .unconfigured then named
  else
    let cleared := (named.clear z allConditions).1
    cleared.setZone z { (cleared.zone z).settled with state := .unconfigured }

/-- A configured zone is about to be disabled: what it has still to record is recorded first (R154, log 13). -/
def State.beforeSetZone (z : Nat) (enable : Bool) (s : State) : State :=
  if !enable && s.monitor.configured z then s.recordDue z else s

/-- SET_ZONE carried out (R148). -/
def setZoneAct (v : Nat × Bool × ZoneSet) (s : State) : Answer :=
  let recorded := s.beforeSetZone v.1 v.2.1
  let m := recorded.monitor.configure v.1 v.2.1 v.2.2
  (.ok, .zoneSet (m.zone v.1).state (m.zone v.1).neighbours, recorded.withMonitor m)

/-- SET_ZONE (R148). -/
def execSetZone (s : State) : Result :=
  .next (s.answerOrder .setZone (outsideRestart (withOperand Operands.setZone setZoneAct)))

/-- A fault set holds a condition whose severity is SERVICE_LOSS as in force (R149). -/
def Monitor.holdsLoss (m : Monitor) (faults : FaultSet) : Bool :=
  Condition.all.any (fun c => FaultSet.has faults c && decide ((m.settings.conditions.get c).severity = .serviceLoss))

/-- A zone restored to service: its run and count at 0 and its arrival mark clear. An occurrence still due takes it out again when
it is recorded (R149, log 13). -/
def Zone.restored (v : Zone) : Zone := { v with state := .inService, untakenRun := 0, silence := 0, arrival := false }

/-- ZONE_RESTORE carried out (R149). DESIGN CHOICE: the OK reply for a zone already IN_SERVICE, whose contents R149 does not give, carries the
zone state and the fault set, as for a zone restored (log 60). -/
def zoneRestoreAct (z : Nat) (s : State) : Answer :=
  let v := s.monitor.zone z
  match v.state with
  | .unconfigured => refuse .badValue s
  | .inService => (.ok, .zoneRestored .inService v.faults, s)
  | .outOfService =>
    if s.monitor.holdsLoss v.faults then (.faultSet, .faultsHeld v.faults, s)
    else (.ok, .zoneRestored .inService v.faults, s.withMonitor (s.monitor.setZone z v.restored))

/-- ZONE_RESTORE (R149). -/
def execZoneRestore (s : State) : Result :=
  .next (s.answerOrder .zoneRestore (outsideRestart (withOperand Operands.zoneRestore zoneRestoreAct)))

/-! ### Fault handling (R153, R155, R156) -/

/-- SET_FAULT_HANDLING carried out (R153). -/
def setFaultHandlingAct (v : FaultSettings) (s : State) : Answer :=
  (.ok, .faultSettings v, s.withMonitor { s.monitor with settings := v })

/-- SET_FAULT_HANDLING (R153). -/
def execSetFaultHandling (s : State) : Result :=
  .next (s.answerOrder .setFaultHandling (outsideRestart (withOperand Operands.setFaultHandling setFaultHandlingAct)))

/-- CLEAR_FAULTS carried out (R155). -/
def clearFaultsAct (v : Nat × FaultSet) (s : State) : Answer :=
  let cleared := s.monitor.clear v.1 v.2
  (.ok, .faultsCleared (cleared.1.zone v.1).faults cleared.2, s.withMonitor cleared.1)

/-- CLEAR_FAULTS (R155). -/
def execClearFaults (s : State) : Result :=
  .next (s.answerOrder .clearFaults (outsideRestart (withOperand Operands.clearFaults clearFaultsAct)))

/-- The fault figures of one zone (R156). -/
def State.zoneFaults (s : State) (z : Nat) : ZoneFaultFigures :=
  let v := s.monitor.zone z
  let l := s.zoneLinks.zone z
  { state := v.state, neighbours := v.neighbours, faults := v.faults, untakenRun := v.untakenRun, silence := v.silence,
    occurrences := v.occurrences, reference := l.reference, lastWindow := l.lastWindow }

/-- READ_FAULTS carried out (R156). -/
def readFaultsAct (_ : List Byte) (s : State) : Answer :=
  (.ok, .faults ((List.range Config.zones).map s.zoneFaults) s.monitor.summary s.monitor.first s.monitor.settings, s)

/-- READ_FAULTS (R156): served in every part state. -/
def execReadFaults (s : State) : Result := .next (s.answerOrder .readFaults readFaultsAct)

/-- The zone as the end of a restart leaves it, what was due having been recorded (R156). -/
def Zone.afterRestart (v : Zone) : Zone :=
  { v.settled with faults := 0, state := if v.state = .unconfigured then .unconfigured else .inService }

/-- The Zone Monitor when a restart reaches CONFIG (R156). -/
def Monitor.afterRestart (m : Monitor) : Monitor :=
  { (List.range Config.zones).foldl (fun m z => m.setZone z (m.zone z).afterRestart) m with summary := 0, first := none }

end Sys2Proof.Machine
end

