-- ==== Sys2Proof/Machine/PartStates.lean ====
section
/-! DEFINITION. The part states: power-on, START, RESTART and the two steps that complete it (chapter 11). -/

namespace Sys2Proof.Machine

/-! ### POWER_ON (R167) -/

/-- Every unit at its power-on values, the rates sampled from the pins, record memory as found, the commands still to come as they
wait (R167, R157, R83, R47). -/
def State.powerOn (hostRate zoneRate : Nat) (s : State) : State :=
  { State.reset with
    pending := s.pending, mem := s.mem, link := { lineRate := hostRate }, zoneLinks := { lineRate := zoneRate } }

/-- POWER_ON (R167). -/
def execPowerOn (hostRate zoneRate : Nat) (s : State) : Result :=
  if (Instr.powerOn hostRate zoneRate).wellFormed then .next (s.powerOn hostRate zoneRate) else .refused .noSuchEvent

/-! ### START (R168) -/

/-- START carried out: RUNNING, the timer from 0, the release horizon 0, and frame 0 begun and announced (R61, R82, R109, R168). -/
def State.begin (s : State) : State :=
  let running := (s.withPartState .running).withTimer s.timer.start
  ((running.withRetry { running.retry with horizon := 0 }).announce none false).settleDown

/-- START, its checks and its reply, which gives the settings in force and the in-service set (R168). -/
def startAct (_ : List Byte) (s : State) : Answer :=
  match s.startRefusal with
  | some code => refuse code s
  | none =>
    (.ok, .started s.timer.running.length s.timer.running.ackDelay s.timer.running.source s.monitor.inService, s.begin)

/-- START (R168). -/
def execStart (s : State) : Result := .next (s.answerOrder .start startAct)

/-! ### RESTART (R169) -/

/-- The Retry Unit at RESTARTING: the await set and then the retry list settle CANCELLED (R114). What it had still to act on finds
nothing left (log 39). -/
def State.cancelRetries (s : State) : State :=
  let entries := s.retry.awaitSet.map AwaitElement.entry ++ s.retry.list.map RetryElement.entry
  let settled := entries.foldl (fun s n => s.settle n .cancelled 0) s
  settled.withRetry { settled.retry with awaitSet := [], list := [], announced := [] }

/-- RESTART passing its checks: RESTARTING, the timer stopped, and every live entry that no other outcome has reached settles
CANCELLED; the hold list waits for a submission in progress (R62, R80, R114, R169; log 9 for the order of the units). -/
def State.beginRestart (place : Nat) (s : State) : State :=
  let stopped := (s.withLink { s.link with
    partState := .restarting, restart := some { place, settledBefore := s.charging.counts.ended } }).withTimer s.timer.stop
  (stopped.cancelRetries.cancelHeldWhenDue.cancelAssembly).settleDown

/-- RESTART is taken. A refusal gives the places available and the live entries (R169). -/
def State.takeRestart (place : Nat) (s : State) : State :=
  match s.restartRefusal with
  | some code => s.reply place code (.noLogRoom s.log.available s.store.occupancy)
  | none => s.beginRestart place

/-- RESTART (R169). -/
def execRestart (s : State) : Result :=
  .next (match s.takeOrder .restart with
    | none => s
    | some (place, _, taken) => taken.takeRestart place)

/-! ### The completion of a restart (R170) -/

/-- The drain has ended: no entry is live, the settle list is empty, no Intake order is in progress, and no sweep of the host is
still running (R46, R170). -/
def State.drained (s : State) : Bool :=
  decide (s.link.partState = .restarting) && decide (s.store.occupancy = 0) && s.charging.settleList.isEmpty
    && s.intake.order.isNone && s.cache.sweep.isNone

/-- RESTART_DRAIN_DONE (R170): the restart sweep begins. -/
def execRestartDrainDone (s : State) : Result :=
  .next (if s.drained then s.withCache { s.cache with sweep := some (.lines none 0 0 0) } else s)

/-- The restart reaches CONFIG: what is due is recorded, the zone fault state is cleared, the part state changes, and the reply is made
(R154, R156, R170; log 13). -/
def State.endRestart (linesWritten : Nat) (s : State) : State :=
  let recorded := s.recordAllDue
  let cleared := recorded.withMonitor recorded.monitor.afterRestart
  match s.link.restart with
  | none => cleared.withPartState .config
  | some r =>
    (cleared.withLink { cleared.link with partState := .config, restart := none }).reply r.place .ok
      (.restarted (s.charging.counts.ended - r.settledBefore) s.log.nextSequence linesWritten)

/-- RESTART_COMPLETE (R170): the restart's sweep has ended. -/
def execRestartComplete (s : State) : Result :=
  .next (match s.link.partState, s.sweepEnd with
    | .restarting, some (none, written, ended) => (ended.endRestart written).settleDown
    | _, _ => s)

end Sys2Proof.Machine
end

