-- ==== Sys2Proof/Machine/Dispatch.lean ====
section
/-! DEFINITION. What each command does to the state: one arm for each row of spec/opcode_table.json. -/

namespace Sys2Proof.Machine

def exec (i : Instr) (s : State) : Host.Outcome State Fault Refusal :=
  match i with
  | .powerOn hostRate zoneRate => Sys2Proof.Machine.execPowerOn hostRate zoneRate s
  | .submit => Sys2Proof.Machine.execSubmit s
  | .intakeReadServed => Sys2Proof.Machine.execIntakeReadServed s
  | .submitGroup => Sys2Proof.Machine.execSubmitGroup s
  | .groupMemberReadServed => Sys2Proof.Machine.execGroupMemberReadServed s
  | .cancel => Sys2Proof.Machine.execCancel s
  | .cancelRequest => Sys2Proof.Machine.execCancelRequest s
  | .setAdmission => Sys2Proof.Machine.execSetAdmission s
  | .queryMessage => Sys2Proof.Machine.execQueryMessage s
  | .groupSet => Sys2Proof.Machine.execGroupSet s
  | .groupRead => Sys2Proof.Machine.execGroupRead s
  | .readSub => Sys2Proof.Machine.execReadSub s
  | .readSubServed sub => Sys2Proof.Machine.execReadSubServed sub s
  | .hostReadDone => Sys2Proof.Machine.execHostReadDone s
  | .writeSub => Sys2Proof.Machine.execWriteSub s
  | .writeSubReadDone => Sys2Proof.Machine.execWriteSubReadDone s
  | .repairSub => Sys2Proof.Machine.execRepairSub s
  | .hostWriteDone => Sys2Proof.Machine.execHostWriteDone s
  | .initRecords => Sys2Proof.Machine.execInitRecords s
  | .initRecordWrite => Sys2Proof.Machine.execInitRecordWrite s
  | .initRecordsDone => Sys2Proof.Machine.execInitRecordsDone s
  | .flush => Sys2Proof.Machine.execFlush s
  | .flushVisit => Sys2Proof.Machine.execFlushVisit s
  | .flushDone => Sys2Proof.Machine.execFlushDone s
  | .setCache => Sys2Proof.Machine.execSetCache s
  | .setAddressBase => Sys2Proof.Machine.execSetAddressBase s
  | .fillDone => Sys2Proof.Machine.execFillDone s
  | .castoutDone => Sys2Proof.Machine.execCastoutDone s
  | .writeBackDone => Sys2Proof.Machine.execWriteBackDone s
  | .throughWriteDone => Sys2Proof.Machine.execThroughWriteDone s
  | .setTiming => Sys2Proof.Machine.execSetTiming s
  | .frameStart => Sys2Proof.Machine.execFrameStart s
  | .strobe elapsed => Sys2Proof.Machine.execStrobe elapsed s
  | .strobeLoss => Sys2Proof.Machine.execStrobeLoss s
  | .cycleTurn => Sys2Proof.Machine.execCycleTurn s
  | .taken link body => Sys2Proof.Machine.execTaken link body s
  | .reject link body => Sys2Proof.Machine.execReject link body s
  | .stateReport link body => Sys2Proof.Machine.execStateReport link body s
  | .window link body => Sys2Proof.Machine.execWindow link body s
  | .zoneBadFrame link frame => Sys2Proof.Machine.execZoneBadFrame link frame s
  | .zoneGapTimeout link kind => Sys2Proof.Machine.execZoneGapTimeout link kind s
  | .ack => Sys2Proof.Machine.execAck s
  | .register => Sys2Proof.Machine.execRegister s
  | .deadlineMiss => Sys2Proof.Machine.execDeadlineMiss s
  | .reachReadAnswer => Sys2Proof.Machine.execReachReadAnswer s
  | .setPolicy => Sys2Proof.Machine.execSetPolicy s
  | .setReach => Sys2Proof.Machine.execSetReach s
  | .planSet => Sys2Proof.Machine.execPlanSet s
  | .planRead => Sys2Proof.Machine.execPlanRead s
  | .closePeriod => Sys2Proof.Machine.execClosePeriod s
  | .topUp => Sys2Proof.Machine.execTopUp s
  | .topUpReadServed => Sys2Proof.Machine.execTopUpReadServed s
  | .adjust => Sys2Proof.Machine.execAdjust s
  | .adjustReadServed => Sys2Proof.Machine.execAdjustReadServed s
  | .settlement => Sys2Proof.Machine.execSettlement s
  | .collect => Sys2Proof.Machine.execCollect s
  | .setNotices => Sys2Proof.Machine.execSetNotices s
  | .setZone => Sys2Proof.Machine.execSetZone s
  | .zoneRestore => Sys2Proof.Machine.execZoneRestore s
  | .setFaultHandling => Sys2Proof.Machine.execSetFaultHandling s
  | .clearFaults => Sys2Proof.Machine.execClearFaults s
  | .readFaults => Sys2Proof.Machine.execReadFaults s
  | .untaken zone => Sys2Proof.Machine.execUntaken zone s
  | .revSilent zone => Sys2Proof.Machine.execRevSilent zone s
  | .status => Sys2Proof.Machine.execStatus s
  | .start => Sys2Proof.Machine.execStart s
  | .restart => Sys2Proof.Machine.execRestart s
  | .restartDrainDone => Sys2Proof.Machine.execRestartDrainDone s
  | .restartComplete => Sys2Proof.Machine.execRestartComplete s
  | .hostFrame kind tag body check => Sys2Proof.Machine.execHostFrame kind tag body check s
  | .hostGapTimeout => Sys2Proof.Machine.execHostGapTimeout s
  | .linkReset => Sys2Proof.Machine.execLinkReset s
  | .breakEnd => Sys2Proof.Machine.execBreakEnd s
  | .frameSent => Sys2Proof.Machine.execFrameSent s
  | .hostSync => Sys2Proof.Machine.execHostSync s
  | .hostLineError => Sys2Proof.Machine.execHostLineError s
  | .hostLengthDiscard length => Sys2Proof.Machine.execHostLengthDiscard length s

end Sys2Proof.Machine
end

