-- ==== Sys2Proof/Machine/Step.lean ====
section
/-! DEFINITION. One step of the PT-416: the command at the front of the queue is taken and carried out; on an empty queue the part
idles (log 2). -/

namespace Sys2Proof.Machine

/-- One step: the front command's effect on the state with the rest of the queue; nothing happens where no command waits (log 2). -/
def step (s : State) : Host.Outcome State Fault Refusal :=
  match s.pending with
  | [] => .next s
  | c :: rest => exec c (s.withPending rest)

/-- The state with the command a table word spells put at the front of its queue; unchanged where the word spells none. -/
def State.withFetchWord (s : State) (nbits w : Nat) : State :=
  match decodeTableWord nbits w with
  | none => s
  | some c => s.withPending (c :: s.pending)

end Sys2Proof.Machine
end

