-- ==== Sys2Proof/Safety.lean ====
section
/-! DEFINITION. What counts as a safe run: the laws the manual states of the whole machine, as predicates on a state that every step
must keep, and the relations by which one step is compared with another state. -/

namespace Sys2Proof.Machine

/-! ### Record memory -/

/-- Record memory is in its canonical form (log 5). -/
def State.memoryLegal (s : State) : Prop := Memory.wf s.mem = true

/-! ### Air time (R48, R49, R52, R55, R57, R167) -/

/-- Timing settings in the ranges of R57. -/
def Timing.legal (t : Timing) : Prop :=
  8 ≤ t.length ∧ t.length ≤ 128 ∧ 1 ≤ t.ackDelay ∧ t.ackDelay ≤ 4 ∧ 100 ≤ t.source.nominal ∧ t.source.nominal ≤ 5000

/-- Staged values in the ranges of R57. -/
def Staged.legal (g : Staged) : Prop :=
  (∀ l, g.length = some l → 8 ≤ l ∧ l ≤ 128) ∧ (∀ d, g.ackDelay = some d → 1 ≤ d ∧ d ≤ 4) ∧
    (∀ x, g.source = some x → 100 ≤ x.nominal ∧ x.nominal ≤ 5000)

/-- The Air Timer's laws: every setting in its range, the frame number below the running length (R52), and outside RUNNING the timer
stopped at frame number 0 (R62, R167). -/
def State.timerLegal (s : State) : Prop :=
  s.timer.running.legal ∧ (∀ c, s.timer.coming = some c → c.legal) ∧ s.timer.staged.legal ∧
    8 ≤ s.timer.lengthInForce ∧ s.timer.lengthInForce ≤ 128 ∧ s.timer.frameNumber < s.timer.running.length ∧
    (s.link.partState ≠ .running → s.timer.state = .stopped ∧ s.timer.frameNumber = 0)

/-! ### Queues and places of the links (R93, R161 to R163) -/

/-- No queue or reply path of the links holds more than its places. -/
def State.queuesBounded (s : State) : Prop :=
  s.link.orders.length ≤ Config.orderPlaces ∧ s.link.placesInUse.length ≤ Config.replyPlaces ∧
    s.link.noticeCount ≤ Config.noticePlaces ∧ s.zoneLinks.reverseQueue.length ≤ Config.reversePlaces

/-! ### Settings (R18, R26, R40, R112, R113, R153, R157) -/

/-- A retry policy row in the ranges of R112. -/
def PolicyRow.legal (r : PolicyRow) : Prop :=
  1 ≤ r.maxAttempts ∧ r.maxAttempts ≤ 7 ∧ r.backoff.length = 6 ∧ (∀ b ∈ r.backoff, b ≤ 15) ∧
    1 ≤ r.lifetime ∧ r.lifetime ≤ 65535 ∧ 1 ≤ r.repeats ∧ r.repeats ≤ 7

/-- Every setting of the host lies in the range its rule gives. -/
def State.settingsLegal (s : State) : Prop :=
  s.intake.hostLevel ≤ 3 ∧ 1 ≤ s.cache.limit ∧ s.cache.limit ≤ 15 ∧
    (∀ b, s.cache.addressBase = some b → b ≤ Config.maxAddressBase) ∧
    s.retry.policy.length = 4 ∧ (∀ r ∈ s.retry.policy, r.legal) ∧
    1 ≤ s.retry.missLimit ∧ s.retry.missLimit ≤ 255 ∧ 1 ≤ s.retry.probeInterval ∧ s.retry.probeInterval ≤ 255 ∧
    1 ≤ s.monitor.settings.untakenLimit ∧ s.monitor.settings.untakenLimit ≤ 15 ∧
    4 ≤ s.monitor.settings.silenceLimit ∧ s.monitor.settings.silenceLimit ≤ 255

/-! ### Zone faults (R147, R148, R155) -/

/-- The faulted-zone summary names the zones whose fault set is not empty, an UNCONFIGURED zone has no fault, and no zone is its
own neighbour. -/
def Monitor.legal (m : Monitor) : Prop :=
  ∀ z, z < Config.zones →
    (ZoneSet.has m.summary z = decide ((m.zone z).faults ≠ 0)) ∧
      ((m.zone z).state = .unconfigured → (m.zone z).faults = 0) ∧ ZoneSet.has (m.zone z).neighbours z = false

/-! ### The billing log (R135 to R137) -/

/-- The records held and the set-aside place are within the 1,024 places, and a head that waits for its record has a place. -/
def State.logLegal (s : State) : Prop :=
  s.log.records.length + (if s.log.setAside then 1 else 0) ≤ Config.logPlaces ∧
    (s.charging.head = .record → s.log.setAside = true)

/-! ### Entries and the law of R3 -/

/-- The slots on a free list. -/
def FreeList.slots (f : FreeList) : List Nat := List.range' f.next (f.size - f.next) ++ f.returned

/-- The entry store is consistent: the free list holds each free slot once and no other, the occupancy count is the rest, and the
entries created since power-on are the records appended and the live entries (R3, R4). -/
def State.entriesLegal (s : State) : Prop :=
  s.store.freeEntries.slots.Nodup ∧
    (∀ n, n ∈ s.store.freeEntries.slots ↔ n < Config.entrySlots ∧ s.store.entry n = none) ∧
    (∀ n, Config.entrySlots ≤ n → s.store.entry n = none) ∧
    s.store.occupancy + s.store.freeEntries.slots.length = Config.entrySlots ∧
    s.store.nextAdmission - 1 = s.log.counts.appended + BitVec.ofNat 32 s.store.occupancy

/-! ### Records (R25) -/

/-- The fields of a record are in the ranges of R25. -/
def Record.legal (r : Record) : Prop :=
  r.host.plan < 64 ∧ r.host.homeZone < 16 ∧ (∀ z, r.lastZone = some z → z < 16) ∧ r.misses ≤ 255 ∧ r.live ≤ 32 ∧
    r.balance ≤ Config.max32 ∧ r.reserved ≤ Config.max32 ∧ r.charges ≤ Config.max32 ∧ r.messages ≤ Config.max16 ∧
    r.allowanceUsed ≤ Config.max16

/-! ### A line changed under a hold (R31) -/

/-- A holding read of a subscriber has been served on a way of its set and its closing update has been carried out there: the line holds
the record given, under the tag it had; the read has left the queue and no hold stands on the subscriber; and every other line,
request and setting of the Record Cache is as it was. -/
structure HeldUpdate (c d : Cache) (sub way : Nat) (r : Record) : Prop where
  record : (d.line sub way).record = r
  tag : (d.line sub way).tag = (c.line sub way).tag
  valid : (d.line sub way).state.valid = true
  lines : ∀ k, k ≠ Cache.index (Cache.setOf sub) way → Table.get {} d.lines k = Table.get {} c.lines k
  queue : d.queue = c.queue.eraseP (fun q => q.sub == sub)
  holds : d.holds = c.holds.filter (fun m => decide (m ≠ sub))
  heldRequests : d.heldRequests = c.heldRequests
  fills : d.fills = c.fills
  sweep : d.sweep = c.sweep
  policy : d.policy = c.policy
  limit : d.limit = c.limit
  addressBase : d.addressBase = c.addressBase

/-! ### The record memory port (R36, R45) -/

/-- The record memory port comes to an operation: nothing stands ahead of it but default records of INIT_RECORDS before the last, whose
writes end in silence (log 11). `rest` is what stands behind it, and `mem` is record memory with each of those records written, in the
port's order. -/
def State.PortComesTo (s : State) (op : PortOp) (rest : List PortOp) (mem : List Host.Cell) : Prop :=
  ∃ ahead : List (Nat × Record), (∀ d ∈ ahead, d.1 < Config.subscribers) ∧
    s.cache.port = ahead.map (fun d => .initWrite d.1 d.2 false) ++ op :: rest ∧
    mem = ahead.foldl (fun m d => Memory.writeRecord m d.1 d.2) s.mem

/-! ### What settling down leaves alone -/

/-- An order but for the reply place set aside for it. -/
def Order.unplaced (o : Order) : Order := { o with place := none }

/-- Two states that agree in everything the Record Cache and the Charging Unit do not change as they go on: the commands waiting,
record memory, the timer, the zones, every setting, and the link but for what is being answered and told and for the reply places set
aside for the orders that wait. -/
structure Settled (s t : State) : Prop where
  pending : t.pending = s.pending
  mem : t.mem = s.mem
  timer : t.timer = s.timer
  zoneLinks : t.zoneLinks = s.zoneLinks
  monitor : t.monitor = s.monitor
  partState : t.link.partState = s.link.partState
  lineRate : t.link.lineRate = s.link.lineRate
  receiver : t.link.receiver = s.link.receiver
  inBreak : t.link.inBreak = s.link.inBreak
  orders : t.link.orders.map Order.unplaced = s.link.orders.map Order.unplaced
  restart : t.link.restart = s.link.restart
  hostLevel : t.intake.hostLevel = s.intake.hostLevel
  congestionControl : t.intake.congestionControl = s.intake.congestionControl
  groups : t.store.groups = s.store.groups
  unfinished : t.store.unfinished = s.store.unfinished
  poolFree : t.store.poolFree = s.store.poolFree
  writePolicy : t.cache.policy = s.cache.policy
  limit : t.cache.limit = s.cache.limit
  sweep : t.cache.sweep = s.cache.sweep
  addressBase : t.cache.addressBase = s.cache.addressBase
  retryPolicy : t.retry.policy = s.retry.policy
  missLimit : t.retry.missLimit = s.retry.missLimit
  probeInterval : t.retry.probeInterval = s.retry.probeInterval
  activePlans : t.charging.active = s.charging.active
  pendingPlans : t.charging.pending = s.charging.pending
  period : t.charging.period = s.charging.period
  selection : t.log.selection = s.log.selection

end Sys2Proof.Machine
end

