-- ==== Sys2Proof/Certificates/Slice0/Obligations.lean ====
section
/-! DEFINITION. What the model claims of the PT-416, for the provers. In the statements about orders, `s.takeOrder k = some (place,
body, t)` says that the unit takes an order of kind `k` whose body is `body` with the reply place `place`, and that `t` is the state
with the order out of the queue; when that is and what `t` is, is a statement of its own (OrderTaken), and so is what making its reply
does (ReceiverAndTransmitterMove). In the statements about commands that set the Record Cache or the settle list going, the state they
lead to is followed by `settleDown`, the machine's own work that then follows of itself; what that work leaves alone is a statement of
its own (SettlingDownFrame). -/

section
open Sys2Proof Sys2Proof.Machine

/-! ### The queue of commands -/

/-- A step takes the command at the front of the queue and carries it out on the state with the rest of the queue; with no command
waiting it changes nothing. The queue and its idling are the model's own (logs 1 and 2). -/
def Obligations.StepRunsFrontCommand : Prop :=
  (∀ (c : Instr) (rest : List Instr) (s : State), s.pending = c :: rest → step s = exec c { s with pending := rest }) ∧
  (∀ s : State, s.pending = [] → step s = .next s)

/-! ### Taking an order -/

/-- Taking an order. A unit takes an order of a kind exactly when it is ready, its oldest order in the queue, whichever orders of other units
stand before it, is of that kind, and a reply place is set aside for it. The order leaves the queue, the place stays its own, and nothing
else changes (R161, R162). The Intake and the Charging Unit are ready with no order in progress, the Record Cache with no record order
held at it, the Link Interface for START and RESTART with no RESTART in progress, and the other units, and STATUS, always (R161). Where no
order of its kind is taken, an order's command changes nothing (log 1). Places are set aside for the orders that wait: an order is in its
turn when its unit is ready and the older orders of that unit have their places and, taken one after another, do not keep the unit. A place
set aside for an order that is not in its turn is given back; then, one at a time, the lowest free place goes to the oldest order in its turn
that has none; with no such order, or with 64 places in use, nothing changes. So the oldest order of a unit that is ready keeps its place
(R162; logs 25 and 52). Which orders keep their unit: a SUBMIT, SUBMIT_GROUP, CANCEL, TOP_UP, ADJUST or RESTART that passes its checks, and
a record order whose request a full posted-request queue would hold. What an order that does not keep its unit leaves for the checks of the
later ones: START begins RUNNING, a record order is posted but for a REPAIR_SUB refused at once, INIT_RECORDS and FLUSH begin their
sweeps. Orders of other units are judged as not yet taken, which is the model's choice (log 52). -/
def Obligations.OrderTaken : Prop :=
  (∀ (k : OrderKind) (s t : State) (place : Nat) (body : List Byte),
    let ready : Prop := match k.owner with
      | .intake => s.intake.order = none
      | .charging => s.charging.order = none
      | .cache => ∀ r ∈ s.cache.heldRequests, r.kind.isHostOrder = false
      | .linkState => s.link.restart = none
      | _ => True;
    (s.ready k.owner = true ↔ ready) ∧
    (s.takeOrder k = some (place, body, t) ↔ ∃ (before after : List Order) (o : Order),
      s.link.orders = before ++ o :: after ∧ o.kind = k ∧ o.body = body ∧ o.place = some place ∧
        (∀ x ∈ before, x.kind.owner ≠ k.owner) ∧ ready ∧
        t = { s with link := { s.link with
                orders := before ++ after
                taken := s.link.taken ++ [{ place, kind := k, tag := o.tag, marked := false }] } })) ∧
  (∀ (c : Instr) (k : OrderKind),
    (c, k) ∈ [(Instr.submit, OrderKind.submit), (.submitGroup, .submitGroup), (.cancel, .cancel),
      (.setAdmission, .setAdmission), (.queryMessage, .queryMessage), (.groupSet, .groupSet), (.groupRead, .groupRead),
      (.readSub, .readSub), (.writeSub, .writeSub), (.repairSub, .repairSub), (.initRecords, .initRecords), (.flush, .flush),
      (.setCache, .setCache), (.setAddressBase, .setAddressBase), (.setTiming, .setTiming), (.setPolicy, .setPolicy),
      (.setReach, .setReach), (.planSet, .planSet), (.planRead, .planRead), (.closePeriod, .closePeriod), (.topUp, .topUp),
      (.adjust, .adjust), (.collect, .collect), (.setNotices, .setNotices), (.setZone, .setZone), (.zoneRestore, .zoneRestore),
      (.setFaultHandling, .setFaultHandling), (.clearFaults, .clearFaults), (.readFaults, .readFaults), (.status, .status),
      (.start, .start), (.restart, .restart)] →
    ∀ s : State, s.takeOrder k = none → exec c s = .next s) ∧
  (∀ s : State,
    let turn : List Order → Order → Prop := fun before o => s.ready o.kind.owner = true ∧
      s.passes (before.filter (fun x => decide (x.kind.owner = o.kind.owner))) = true;
    let lost : List Order → Order → Prop := fun before o => o.place ≠ none ∧ ¬turn before o
    let due : List Order → Order → Prop := fun before o => o.place = none ∧ turn before o
    let noneLost : Prop := ∀ before o after, s.link.orders = before ++ o :: after → ¬lost before o
    let withPlace : List Order → Order → Option Nat → List Order → State := fun before o p after =>
      { s with link := { s.link with orders := before ++ { o with place := p } :: after } };
    s.passes [] = true ∧
    (∀ o rest, s.passes (o :: rest) = true ↔ o.place ≠ none ∧ s.keepsUnit o = false ∧ (s.anticipate o).passes rest = true) ∧
    (s.link.freeList = [] ↔ 64 ≤ s.link.placesInUse.length) ∧
    (∀ p, s.link.freeList.head? = some p →
      p < 64 ∧ p ∉ s.link.placesInUse ∧ ∀ q, q < p → q ∈ s.link.placesInUse) ∧
    (∀ before o after, s.link.orders = before ++ o :: after → lost before o →
      (∀ early x late, before = early ++ x :: late → ¬lost early x) →
      s.setPlaces = (withPlace before o none after).setPlaces) ∧
    (noneLost → (s.link.freeList = [] ∨ ∀ before o after, s.link.orders = before ++ o :: after → ¬due before o) → s.setPlaces = s) ∧
    (noneLost → ∀ p before o after, s.link.freeList.head? = some p → s.link.orders = before ++ o :: after → due before o →
      (∀ early x late, before = early ++ x :: late → ¬due early x) →
      s.setPlaces = (withPlace before o (some p) after).setPlaces)) ∧
  (∀ (s : State) (o : Order),
    let same : Prop := s.anticipate o = s
    let served : Prop := s.link.partState ≠ .restarting
    let posted : Nat → Prop := fun n => s.anticipate o = s.post n (.readSub 0 .posted)
    let sweeps : Sweep → Prop := fun v => s.anticipate o = { s with cache := { s.cache with sweep := some v } }
    let starts : Prop := s.link.partState = .config ∧ s.cache.addressBase ≠ none ∧ s.monitor.inService ≠ 0 ∧
      ∀ p next last written, s.cache.sweep ≠ some (.records p next last written)
    let refusedAtOnce : Nat → Prop := fun n => s.store.names n = true ∧ s.cache.admitted.hasEarlier n = false ∧
      s.cache.admitted.canServe (s.cache.admitted.request n (.readSub 0 .posted)) = true
    match o.kind with
    | .start => (starts → s.anticipate o = { s with link := { s.link with partState := .running } }) ∧ (¬starts → same)
    | .readSub => (∀ n, Operands.subscriber o.body 0 = some n → posted n) ∧ (Operands.subscriber o.body 0 = none → same)
    | .writeSub => (∀ v, served → Operands.writeSub o.body = some v → posted v.1) ∧
        (¬served ∨ Operands.writeSub o.body = none → same)
    | .repairSub => (∀ v, served → Operands.repairSub o.body = some v → ¬refusedAtOnce v.1 → posted v.1) ∧
        (¬served ∨ (∀ v, Operands.repairSub o.body = some v → refusedAtOnce v.1) → same)
    | .initRecords =>
        (∀ v, s.link.partState = .config → s.cache.sweep = none → Operands.initRecords o.body = some v → sweeps (.records 0 v.1 v.2 0)) ∧
        (s.link.partState ≠ .config ∨ s.cache.sweep ≠ none ∨ Operands.initRecords o.body = none → same)
    | .flush => (served → s.cache.sweep = none → sweeps (.lines (some 0) 0 0 0)) ∧ (¬served ∨ s.cache.sweep ≠ none → same)
    | _ => same) ∧
  (∀ (s : State) (o : Order),
    let running : Prop := s.link.partState = .running
    let served : Prop := s.link.partState ≠ .restarting
    let held : Nat → Prop := fun n => s.cache.holdsOrder n = true
    s.keepsUnit o = true ↔ match o.kind with
      | .submit => running ∧ Operands.submit o.body ≠ none
      | .submitGroup => running ∧ ∃ group first others kind, Operands.submitGroupNumber o.body = some group ∧
          Table.get [] s.store.groups group = first :: others ∧ Operands.submitGroupKind o.body = some kind ∧
          others.length + 1 ≤ s.store.available ∧ 0 < s.store.freeBodies.length
      | .cancel => running ∧
          ((∃ n, Operands.cancel o.body = some (.entry n) ∧ n < 16384 ∧ s.store.entry n ≠ none) ∨
            ∃ m slot b, Operands.cancel o.body = some (.message m) ∧ s.store.findMessage m = some (slot, b) ∧
              s.store.entriesOf slot ≠ [])
      | .topUp => served ∧ Operands.topUp o.body ≠ none
      | .adjust => served ∧ Operands.adjust o.body ≠ none
      | .restart => running ∧ s.store.occupancy + s.intake.mayCreate ≤ 1024 - s.log.records.length
      | .readSub => ∃ n, Operands.subscriber o.body 0 = some n ∧ held n
      | .writeSub => served ∧ ∃ v, Operands.writeSub o.body = some v ∧ held v.1
      | .repairSub => served ∧ ∃ v, Operands.repairSub o.body = some v ∧ held v.1
      | _ => False)

/-! ### Settings: orders that replace a setting and are answered at once -/

/-- Orders that replace a setting outside RESTARTING, their fields in range: SET_REACH both limits; SET_POLICY one whole row of the
policy table and no other; SET_NOTICES the notice selection; SET_FAULT_HANDLING the whole fault handling settings. Each answers OK with
what is now in force, and nothing else changes. With a field out of range each is refused BAD_VALUE and nothing changes (R112, R113, R145,
R153). -/
def Obligations.HostSettingsReplaced : Prop :=
  (∀ (s t : State) (place : Nat) (u p : Byte), s.takeOrder .setReach = some (place, [u, p], t) →
    t.link.partState ≠ .restarting → 1 ≤ u.toNat → 1 ≤ p.toNat →
    exec .setReach s =
      .next (({ t with retry := { t.retry with missLimit := u.toNat, probeInterval := p.toNat } } : State).reply place .ok
        (.reach u.toNat p.toNat))) ∧
  (∀ (s t : State) (place : Nat) (u p : Byte), s.takeOrder .setReach = some (place, [u, p], t) →
    t.link.partState ≠ .restarting → u = 0 ∨ p = 0 → exec .setReach s = .next (t.reply place .badValue .none)) ∧
  (∀ (s t : State) (place : Nat) (level attempts b1 b2 b3 b4 b5 b6 hi lo repeats unused : Byte),
    s.takeOrder .setPolicy = some (place, [level, attempts, b1, b2, b3, b4, b5, b6, hi, lo, repeats, unused], t) →
    t.link.partState ≠ .restarting → level.toNat < 4 → 1 ≤ attempts.toNat → attempts.toNat ≤ 7 →
    (∀ b ∈ [b1, b2, b3, b4, b5, b6], b.toNat ≤ 15) → 1 ≤ hi.toNat * 256 + lo.toNat → 1 ≤ repeats.toNat → repeats.toNat ≤ 7 →
    let row : PolicyRow :=
      { maxAttempts := attempts.toNat, backoff := [b1.toNat, b2.toNat, b3.toNat, b4.toNat, b5.toNat, b6.toNat],
        lifetime := hi.toNat * 256 + lo.toNat, repeats := repeats.toNat }
    exec .setPolicy s =
      .next (({ t with retry := { t.retry with policy := t.retry.policy.set level.toNat row } } : State).reply place .ok
        (.policyRow level.toNat row))) ∧
  (∀ (s t : State) (place : Nat) (level attempts b1 b2 b3 b4 b5 b6 hi lo repeats unused : Byte),
    s.takeOrder .setPolicy = some (place, [level, attempts, b1, b2, b3, b4, b5, b6, hi, lo, repeats, unused], t) →
    t.link.partState ≠ .restarting →
    4 ≤ level.toNat ∨ attempts = 0 ∨ 7 < attempts.toNat ∨ (∃ b ∈ [b1, b2, b3, b4, b5, b6], 15 < b.toNat) ∨ (hi = 0 ∧ lo = 0) ∨
      repeats = 0 ∨ 7 < repeats.toNat →
    exec .setPolicy s = .next (t.reply place .badValue .none)) ∧
  (∀ (s t : State) (place : Nat) (b : Byte) (n : NoticeSelection), s.takeOrder .setNotices = some (place, [b], t) →
    t.link.partState ≠ .restarting →
    (b, n) ∈ [((0 : Byte), NoticeSelection.all), (1, NoticeSelection.failuresAndReplies), (2, NoticeSelection.none)] →
    exec .setNotices s = .next (({ t with log := { t.log with selection := n } } : State).reply place .ok (.selection n))) ∧
  (∀ (s t : State) (place : Nat) (b : Byte), s.takeOrder .setNotices = some (place, [b], t) → t.link.partState ≠ .restarting →
    2 < b.toNat → exec .setNotices s = .next (t.reply place .badValue .none)) ∧
  (∀ (s t : State) (place : Nat) (c0 c1 c2 c3 c4 limit silence unused : Byte),
    s.takeOrder .setFaultHandling = some (place, [c0, c1, c2, c3, c4, limit, silence, unused], t) →
    t.link.partState ≠ .restarting → 1 ≤ limit.toNat → limit.toNat ≤ 15 → 4 ≤ silence.toNat →
    let setting : Byte → ConditionSetting := fun b =>
      { detect := b.getLsbD 0, notice := b.getLsbD 1, severity := if b.getLsbD 2 then .serviceLoss else .advisory }
    let settings : FaultSettings :=
      { conditions := { untaken := setting c0, fwdFrameError := setting c1, revFrameError := setting c2, revSilent := setting c3,
                        refUnlock := setting c4 },
        untakenLimit := limit.toNat, silenceLimit := silence.toNat }
    exec .setFaultHandling s =
      .next (({ t with monitor := { t.monitor with settings } } : State).reply place .ok (.faultSettings settings))) ∧
  (∀ (s t : State) (place : Nat) (c0 c1 c2 c3 c4 limit silence unused : Byte),
    s.takeOrder .setFaultHandling = some (place, [c0, c1, c2, c3, c4, limit, silence, unused], t) →
    t.link.partState ≠ .restarting → limit = 0 ∨ 15 < limit.toNat ∨ silence.toNat < 4 →
    exec .setFaultHandling s = .next (t.reply place .badValue .none))

/-- SET_CACHE outside RESTARTING replaces the write policy, and for BOUNDED the limit, and leaves every line as it is; a policy outside the
three, or a BOUNDED limit outside 1..15, is refused BAD_VALUE and nothing changes (R41; that the limit is kept under the other policies,
and not looked at there, is the model's choice, log 36). SET_ADDRESS_BASE in CONFIG sets the base, and in the other
states it is refused WRONG_STATE (R26). -/
def Obligations.CacheSettingsReplaced : Prop :=
  (∀ (s t : State) (place : Nat) (policy limit : Byte), s.takeOrder .setCache = some (place, [policy, limit], t) →
    t.link.partState ≠ .restarting →
    (policy = 0 → exec .setCache s =
      .next (({ t with cache := { t.cache with policy := .through } } : State).reply place .ok
        (.cachePolicy .through t.cache.limit (t.cache.linesIn .dirty)))) ∧
    (policy = 1 → exec .setCache s =
      .next (({ t with cache := { t.cache with policy := .deferred } } : State).reply place .ok
        (.cachePolicy .deferred t.cache.limit (t.cache.linesIn .dirty)))) ∧
    (policy = 2 → 1 ≤ limit.toNat → limit.toNat ≤ 15 → exec .setCache s =
      .next (({ t with cache := { t.cache with policy := .bounded, limit := limit.toNat } } : State).reply place .ok
        (.cachePolicy .bounded limit.toNat (t.cache.linesIn .dirty)))) ∧
    (2 < policy.toNat ∨ (policy = 2 ∧ (limit = 0 ∨ 15 < limit.toNat)) →
      exec .setCache s = .next (t.reply place .badValue .none))) ∧
  (∀ (s t : State) (place : Nat) (a b c : Byte), s.takeOrder .setAddressBase = some (place, [a, b, c], t) →
    let base := (a.toNat * 256 + b.toNat) * 256 + c.toNat;
    (t.link.partState = .config → base ≤ 16515072 → exec .setAddressBase s =
      .next (({ t with cache := { t.cache with addressBase := some base } } : State).reply place .ok .none)) ∧
    (t.link.partState = .config → 16515072 < base → exec .setAddressBase s = .next (t.reply place .badValue .none)) ∧
    (t.link.partState ≠ .config → exec .setAddressBase s = .next (t.reply place .wrongState .none)))

/-- SET_TIMING, its named parameters in range: in CONFIG they replace the running settings and the length in force at once; in RUNNING
they are staged, unless one of them is pending already, when the order is refused PENDING and nothing changes. A named cycle length outside
8..128, ack delay outside 1..4, source that is neither INTERNAL nor EXTERNAL, or nominal duration outside 100..5,000 is refused BAD_VALUE in
both states and nothing changes; the fields of the parameters not named are not looked at. The parameters are named and stand where 12.2
puts them: the flags at offset 0, the length at 1, the ack delay at 2, the source at 3 and the nominal duration at 4 and 5 (R57, R58). -/
def Obligations.SetTimingAppliesOrStages : Prop :=
  (∀ (s t : State) (place : Nat) (body : List Byte), s.takeOrder .setTiming = some (place, body, t) →
    let names : Nat → Bool := fun k => (body.getD 0 0).getLsbD k
    let outside : Nat → Nat → Nat → Prop := fun lo hi n => n < lo ∨ hi < n
    let wrong : Prop := (names 0 ∧ outside 8 128 (Bytes.field body 1 1)) ∨ (names 1 ∧ outside 1 4 (Bytes.field body 2 1)) ∨
      (names 2 ∧ (1 < Bytes.field body 3 1 ∨ outside 100 5000 (Bytes.field body 4 2)));
    (wrong → t.link.partState ≠ .restarting → exec .setTiming s = .next (t.reply place .badValue .none)) ∧
    (¬wrong → Operands.setTiming body = some
      { length := if names 0 then some (Bytes.field body 1 1) else none
        ackDelay := if names 1 then some (Bytes.field body 2 1) else none
        source := if names 2 then
            some { kind := if Bytes.field body 3 1 = 0 then .internal else .external, nominal := Bytes.field body 4 2 }
          else none })) ∧
  ∀ (s t : State) (place : Nat) (body : List Byte) (g : Staged), s.takeOrder .setTiming = some (place, body, t) →
    Operands.setTiming body = some g →
    let running : Timing :=
      { length := g.length.getD t.timer.running.length, ackDelay := g.ackDelay.getD t.timer.running.ackDelay,
        source := g.source.getD t.timer.running.source }
    let applied := { t.timer with running, lengthInForce := g.length.getD t.timer.lengthInForce }
    let staged := { t.timer with
      staged :=
        { length := g.length.or t.timer.staged.length, ackDelay := g.ackDelay.or t.timer.staged.ackDelay,
          source := g.source.or t.timer.staged.source } }
    let clash : Prop :=
      (g.length ≠ none ∧ t.timer.staged.length ≠ none) ∨ (g.ackDelay ≠ none ∧ t.timer.staged.ackDelay ≠ none) ∨
        (g.source ≠ none ∧ t.timer.staged.source ≠ none);
    (t.link.partState = .config →
      exec .setTiming s = .next (({ t with timer := applied } : State).reply place .ok (.timing applied.figures))) ∧
    (t.link.partState = .running → ¬clash →
      exec .setTiming s = .next (({ t with timer := staged } : State).reply place .ok (.timing staged.figures))) ∧
    (t.link.partState = .running → clash → exec .setTiming s = .next (t.reply place .pending .none))

/-- SET_ADMISSION outside RESTARTING replaces the host level and the congestion control switch; the held entries the new effective
level admits are released, the machine settles down, and the reply gives the effective level: the lesser of the host level and the
congestion level with the switch ON, the host level with it OFF. The release: where the effective level has risen above what it was, every
held entry whose current level is not above it leaves the hold list, in list order, and is filed, and the others keep their order; where
it has not risen nothing is released. A host level or a switch value out of range is refused BAD_VALUE and nothing changes (R18, R19). -/
def Obligations.SetAdmissionReplacesBoth : Prop :=
  (∀ (s : State) (before : Nat),
    let level := if s.intake.congestionControl then min s.intake.hostLevel s.store.congestion else s.intake.hostLevel
    let admitted : Nat → Bool := fun n => match s.store.entry n with
      | none => false
      | some e => decide (e.level ≤ level);
    (level ≤ before → s.releaseHeld before = s) ∧
    (before < level →
      s.releaseHeld before = (s.intake.holdList.filter admitted).foldl (fun u n =>
        ({ u with intake := { u.intake with holdList := u.intake.holdList.erase n } } : State).file n) s ∧
      (s.releaseHeld before).intake.holdList = s.intake.holdList.filter (fun n => !admitted n))) ∧
  (∀ (s t : State) (place : Nat) (level control : Byte), s.takeOrder .setAdmission = some (place, [level, control], t) →
    t.link.partState ≠ .restarting → level.toNat ≤ 3 → control.toNat ≤ 1 →
    let effective := if control = 1 then min level.toNat t.store.congestion else level.toNat
    let set : State := { t with intake :=
      { t.intake with hostLevel := level.toNat, congestionControl := decide (control = 1) } }
    exec .setAdmission s =
      .next ((set.releaseHeld t.effectiveLevel).settleDown.reply place .ok (.effectiveLevel effective))) ∧
  (∀ (s t : State) (place : Nat) (level control : Byte), s.takeOrder .setAdmission = some (place, [level, control], t) →
    t.link.partState ≠ .restarting → 3 < level.toNat ∨ 1 < control.toNat →
    exec .setAdmission s = .next (t.reply place .badValue .none))

/-! ### Plans, periods and groups -/

/-- PLAN_SET stores a plan whose fields are in range in both copies in CONFIG and in the pending copy, marked, in RUNNING;
CLOSE_PERIOD in RUNNING begins the next period, makes the pending copy of every marked plan active and clears its mark, and leaves every
other plan as it was. A PLAN_SET with a field out of range is refused BAD_VALUE, and a CLOSE_PERIOD outside RUNNING WRONG_STATE, with
nothing changed. The fields of a PLAN_SET stand where 12.2 puts them: the number at offset 0, B at 2, C at 4, R at 6, the four priority
rates from 8, G at 12, E at 13, M at 14 and A at 18 (R118, R120). -/
def Obligations.PlansStagedAndApplied : Prop :=
  (∀ (s t : State) (place : Nat) (body : List Byte) (n : Nat) (p : Plan), s.takeOrder .planSet = some (place, body, t) →
    Operands.planSet body = some (n, p) →
    (t.link.partState = .config → ∃ c : Charging,
      exec .planSet s = .next (({ t with charging := c } : State).reply place .ok (.planStored n false)) ∧
        c = { t.charging with active := c.active, pending := c.pending } ∧
        (∀ m, c.activePlan m = if m = n then p else t.charging.activePlan m) ∧
        (∀ m, c.pendingPlan m = if m = n then { plan := p, mark := false } else t.charging.pendingPlan m)) ∧
    (t.link.partState = .running → ∃ c : Charging,
      exec .planSet s = .next (({ t with charging := c } : State).reply place .ok (.planStored n true)) ∧
        c = { t.charging with pending := c.pending } ∧
        (∀ m, c.pendingPlan m = if m = n then { plan := p, mark := true } else t.charging.pendingPlan m))) ∧
  (∀ (s t : State) (place : Nat) (body : List Byte), s.takeOrder .closePeriod = some (place, body, t) →
    t.link.partState = .running → ∃ (c : Charging) (applied : Nat),
      exec .closePeriod s =
          .next (({ t with charging := c } : State).reply place .ok (.periodClosed (t.charging.period + 1) applied)) ∧
        c = { t.charging with period := t.charging.period + 1, active := c.active, pending := c.pending } ∧
        (∀ m, m < 64 → (t.charging.pendingPlan m).mark = true →
          c.activePlan m = (t.charging.pendingPlan m).plan ∧
            c.pendingPlan m = { plan := (t.charging.pendingPlan m).plan, mark := false }) ∧
        (∀ m, ¬(m < 64 ∧ (t.charging.pendingPlan m).mark = true) →
          c.activePlan m = t.charging.activePlan m ∧ c.pendingPlan m = t.charging.pendingPlan m) ∧
        applied = ((List.range 64).filter (fun m => (t.charging.pendingPlan m).mark)).length) ∧
  (∀ (s t : State) (place : Nat) (body : List Byte), s.takeOrder .planSet = some (place, body, t) →
    let at_ : Nat → Nat → Nat := Bytes.field body
    let wrong : Prop := 64 ≤ at_ 0 1 ∨ 4095 < at_ 4 2 ∨ 4095 < at_ 6 2 ∨ (∃ i ∈ [8, 9, 10, 11], at_ i 1 < 16 ∨ 64 < at_ i 1) ∨
      16 < at_ 12 1 ∨ 16 < at_ 13 1 ∨ at_ 14 3 = 0;
    (wrong → t.link.partState ≠ .restarting → exec .planSet s = .next (t.reply place .badValue .none)) ∧
    (¬wrong → Operands.planSet body = some (at_ 0 1,
      { base := at_ 2 2, block := at_ 4 2, retry := at_ 6 2, priority := [at_ 8 1, at_ 9 1, at_ 10 1, at_ 11 1], group := at_ 12 1
        expiry := at_ 13 1, cap := at_ 14 3, allowance := at_ 18 2 }))) ∧
  (∀ (s t : State) (place : Nat) (body : List Byte), s.takeOrder .closePeriod = some (place, body, t) →
    t.link.partState ≠ .running → exec .closePeriod s = .next (t.reply place .wrongState .none))

/-- PLAN_READ: BAD_VALUE for a number outside 0..63, WRONG_STATE in RESTARTING; otherwise the reply gives the active copy, the pending copy
when its mark is set, and so the mark, and the current period. Nothing changes but what taking and answering an order changes (R119). -/
def Obligations.PlanReadAnswers : Prop :=
  ∀ (s t : State) (place : Nat) (n : Byte), s.takeOrder .planRead = some (place, [n], t) →
    let pending := t.charging.pendingPlan n.toNat;
    (t.link.partState = .restarting → exec .planRead s = .next (t.reply place .wrongState .none)) ∧
    (t.link.partState ≠ .restarting → 63 < n.toNat → exec .planRead s = .next (t.reply place .badValue .none)) ∧
    (t.link.partState ≠ .restarting → n.toNat ≤ 63 →
      (pending.mark = true → exec .planRead s =
        .next (t.reply place .ok (.planCopies (t.charging.activePlan n.toNat) (some pending.plan) t.charging.period))) ∧
      (pending.mark = false → exec .planRead s =
        .next (t.reply place .ok (.planCopies (t.charging.activePlan n.toNat) none t.charging.period))))

/-- GROUP_READ: WRONG_STATE in RESTARTING; BAD_VALUE for a group outside 0..1,023, a count outside 1..160 or a position beyond the total;
otherwise the reply gives the length of the list in force and its members from the position on, up to the count or the end of the list,
so total 0 and no members for a group with no list. Nothing changes but what taking and answering an order changes (R13). -/
def Obligations.GroupReadAnswers : Prop :=
  ∀ (s t : State) (place : Nat) (g1 g0 p1 p0 count unused : Byte),
    s.takeOrder .groupRead = some (place, [g1, g0, p1, p0, count, unused], t) →
    let group := g1.toNat * 256 + g0.toNat
    let position := p1.toNat * 256 + p0.toNat
    let list := Table.get [] t.store.groups group
    let good : Prop := group ≤ 1023 ∧ 1 ≤ count.toNat ∧ count.toNat ≤ 160 ∧ position ≤ list.length;
    (t.link.partState = .restarting → exec .groupRead s = .next (t.reply place .wrongState .none)) ∧
    (t.link.partState ≠ .restarting → ¬good → exec .groupRead s = .next (t.reply place .badValue .none)) ∧
    (t.link.partState ≠ .restarting → good → ∃ members : List Nat,
      exec .groupRead s = .next (t.reply place .ok (.groupMembers list.length members)) ∧
        members.length = min count.toNat (list.length - position) ∧
        ∀ i, i < members.length → members[i]? = list[position + i]?)

/-- QUERY_MESSAGE answers for the body that carries the number, and NOT_FOUND for 0 and for a number no body carries, with the body's live
entries, each once and rising by admission sequence, the count in each state, and the fields R23 lists of the first 32; STATUS, in every
part state, answers with the figures of the section named, and BAD_VALUE for a section it does not know; READ_FAULTS, in every part state,
answers with the zones, the summary, the first-fault record and the settings. None changes anything but what taking and answering an order
changes (R23, R156, R165). Which of two bodies that carry one number is named, that the figures STATUS gives of the host link count the
STATUS order itself, which figures of the group submission in progress STORE gives, and that ZONE gives the reverse item queue's occupancy,
are the model's (logs 43, 38, 58 and 61). The ten sections: SUMMARY gives the identity and the figures R165 lists, STORE the Message Store
and Intake figures and the group submission in progress, CACHE those of R47, the lines counted by state among them, AIR the timer, ASSEMBLY
those of R81 with both frames in hand, ZONE those of R95 with the zone state and its in-service and faulted marks, RETRY those of R116,
CHARGING those of R132, LOG those of R146, and HOST those of R166 with every Link Interface count. -/
def Obligations.ReportsChangeNothing : Prop :=
  (∀ t : Store,
    t.findMessage 0 = none ∧
    (∀ m, m ≠ 0 → (t.findMessage m = none ↔ ∀ n b, t.body n = some b → b.message ≠ some m)) ∧
    (∀ m slot b, t.findMessage m = some (slot, b) → t.body slot = some b ∧ b.message = some m ∧
      ∀ n c, t.body n = some c → c.message = some m → slot ≤ n) ∧
    (∀ slot, ((t.entriesOf slot).map Prod.fst).Nodup ∧
      (∀ n e, (n, e) ∈ t.entriesOf slot ↔ t.entry n = some e ∧ e.body = slot) ∧
      (t.entriesOf slot).Pairwise (fun p q => p.2.admission ≤ q.2.admission))) ∧
  (∀ l : List (Nat × Entry),
    let among : EntryState → Nat := fun state => (l.filter (fun p => decide (p.2.state = state))).length;
    stateCounts l =
      { held := among .held, queued := among .queued, placed := among .placed, offered := among .offered
        awaiting := among .awaiting, retryWait := among .retryWait, settling := among .settling }) ∧
  (∀ (n : Nat) (e : Entry), e.summary n =
    { entry := n, sub := e.sub, group := e.group, state := e.state, originalLevel := e.originalLevel, level := e.level
      attempts := e.attempts, airTag := e.airTag, cancelRequested := e.cancelRequested, outcome := e.outcome
      replyCode := e.replyCode }) ∧
  (∀ (s : State) (z : Nat),
    let v := s.monitor.zone z
    let l := s.zoneLinks.zone z;
    s.zoneFaults z =
      { state := v.state, neighbours := v.neighbours, faults := v.faults, untakenRun := v.untakenRun, silence := v.silence
        occurrences := v.occurrences, reference := l.reference, lastWindow := l.lastWindow }) ∧
  (∀ (s t : State) (place : Nat) (body : List Byte), s.takeOrder .queryMessage = some (place, body, t) →
    t.link.partState ≠ .restarting →
    let number : Word32 := BitVec.ofNat 32 (Bytes.field body 0 4);
    (∀ slot b, t.store.findMessage number = some (slot, b) → exec .queryMessage s =
      .next (t.reply place .ok (.message number b.encoding b.content.length b.references
        (stateCounts (t.store.entriesOf slot)) (((t.store.entriesOf slot).take 32).map (fun p => p.2.summary p.1))))) ∧
    (t.store.findMessage number = none → exec .queryMessage s = .next (t.reply place .notFound .none))) ∧
  (∀ (s t : State) (place : Nat) (body : List Byte), s.takeOrder .status = some (place, body, t) →
    let code := (body.getD 0 0).toNat
    let z := (body.getD 1 0).toNat
    let effective := if t.intake.congestionControl then min t.intake.hostLevel t.store.congestion else t.intake.hostLevel
    let free : FreeList → Nat := fun f => f.size - f.next + f.returned.length
    let total : (ZoneLinkCounts → Word32) → Word32 := fun f => (List.range 16).foldl (fun n w => n + f (t.zoneLinks.zone w).counts) 0
    let queued := ((List.range 128).flatMap (fun k => Table.get [] t.assembler.queues k)).length
    let lines : LineState → Nat := fun x => ((List.range 512).filter (fun k => decide ((Table.get {} t.cache.lines k).state = x))).length
    let frame : Frame → FrameFigures := fun f =>
      { launch := f.launch, number := f.number, placed := f.placed.length, blocks := (List.range 16).map f.block }
    let sending : Nat × Nat := match t.link.sending with
      | .reply _ _ => (1, 0)
      | .notice _ => (0, 1)
      | .idle => (0, 0)
    let answers : ReplyBody → Prop := fun figures => exec .status s = .next (t.reply place .ok figures);
    (code = 0 → answers (.statusSummary
      { vendor := Config.vendorCode, part := Config.partCode, revision := Config.revision, partState := t.link.partState
        live := t.store.occupancy, freeBodies := free t.store.freeBodies, available := free t.store.freeEntries - t.store.setAside
        setAside := t.store.setAside, held := t.intake.holdList.length, queued, awaiting := t.retry.awaitSet.length
        retrying := t.retry.list.length, settling := t.charging.settleList.length, logged := t.log.records.length
        congestion := t.store.congestion, hostLevel := t.intake.hostLevel, control := t.intake.congestionControl, effective
        timer := t.timer.state, frameCount := t.timer.frameCount, frameNumber := t.timer.frameNumber, cycle := t.timer.cycle
        lengthInForce := t.timer.lengthInForce, counts := t.link.counts, strays := t.retry.counts.strays
        foreign := total ZoneLinkCounts.foreign, dropped := total ZoneLinkCounts.dropped
        nextAdmission := t.store.nextAdmission, nextSequence := t.log.nextSequence, appended := t.log.counts.appended
        zoneStates := (List.range 16).map (fun w => (t.monitor.zone w).state), inService := t.monitor.inService
        faulted := t.monitor.summary })) ∧
    (code = 1 → answers (.statusStore
      { freeBodies := free t.store.freeBodies, freeEntries := free t.store.freeEntries, setAside := t.store.setAside
        occupancy := t.store.occupancy, congestion := t.store.congestion, hostLevel := t.intake.hostLevel
        control := t.intake.congestionControl, effective, held := t.intake.holdList.length, nextMessage := t.store.nextMessage
        nextAdmission := t.store.nextAdmission, poolFree := t.store.poolFree
        group := match t.intake.order with
          | some (.group g) => some
              { group := g.group, body := g.body, level := g.message.level, encoding := g.message.encoding
                blocks := g.message.blocks, remaining := g.members.length, counts := g.counts }
          | _ => none })) ∧
    (code = 2 → answers (.statusCache
      { counts := t.cache.counts, invalid := lines .invalid, clean := lines .clean, dirty := lines .dirty, filling := lines .filling
        casting := lines .casting, queued := t.cache.occupancy, misses := t.cache.fills.length, policy := t.cache.policy
        limit := t.cache.limit, addressBase := t.cache.addressBase })) ∧
    (code = 3 → answers (.statusAir
      { running := t.timer.running, lengthInForce := t.timer.lengthInForce, coming := t.timer.coming, staged := t.timer.staged }
      t.timer.state t.timer.frameCount t.timer.frameNumber t.timer.cycle t.timer.ignored t.timer.early t.timer.holds)) ∧
    (code = 4 → answers (.statusAssembly
      { counts := t.assembler.counts, queued, missSkipped := t.assembler.missSkip.length
        openFrame := t.assembler.openFrame.map frame, offeredFrame := t.assembler.offered.map (fun o => frame o.frame) })) ∧
    (code = 5 → z < 16 → answers (.statusZone
      { link := t.zoneLinks.zone z, zoneState := (t.monitor.zone z).state
        inService := decide ((t.monitor.zone z).state = .inService), faulted := ZoneSet.has t.monitor.summary z
        reverseQueued := t.zoneLinks.reverseQueue.length, unattributed := t.zoneLinks.unattributed })) ∧
    (code = 6 → answers (.statusRetry
      { counts := t.retry.counts, awaiting := t.retry.awaitSet.length, retrying := t.retry.list.length
        marked := (t.retry.list.filter RetryElement.reachPending).length, horizon := t.retry.horizon, policy := t.retry.policy
        missLimit := t.retry.missLimit, probeInterval := t.retry.probeInterval })) ∧
    (code = 7 → answers (.statusCharging
      { counts := t.charging.counts, settling := t.charging.settleList.length, head := t.charging.head
        headEntry := t.charging.settleList.head?.map SettleElement.entry, period := t.charging.period })) ∧
    (code = 8 → answers (.statusLog
      { counts := t.log.counts, held := t.log.records.length
        available := 1024 - t.log.records.length, setAside := t.log.setAside
        waiting := t.log.waiting, nextSequence := t.log.nextSequence
        oldest := (t.log.records.head?.map BillingRecord.sequence).getD 0
        newest := (t.log.records.getLast?.map BillingRecord.sequence).getD 0
        lastReturned := t.log.lastReturned, high := t.log.high, greatest := t.log.greatest, selection := t.log.selection })) ∧
    (code = 9 → answers (.statusHost
      { lineRate := t.link.lineRate, receiver := t.link.receiver, queued := t.link.orders.length, unanswered := t.link.taken.length
        marked := (t.link.taken.filter TakenOrder.marked).length, ready := t.link.ready.length + sending.1
        noticesQueued := t.link.notices.length + sending.2, nextNotice := t.link.nextNotice, counts := t.link.counts })) ∧
    (10 ≤ code ∨ (code = 5 ∧ 16 ≤ z) → exec .status s = .next (t.reply place .badValue .none))) ∧
  (∀ (s t : State) (place : Nat) (body : List Byte), s.takeOrder .readFaults = some (place, body, t) →
    exec .readFaults s = .next (t.reply place .ok (.faults ((List.range 16).map t.zoneFaults) t.monitor.summary t.monitor.first
      t.monitor.settings)))

/-- GROUP_SET, its ranges good and no submission of the group in progress. A first piece takes pool slots for the whole list, those of
an unfinished list of the group having been given back; a piece that continues the unfinished list joins it; a list that is complete
comes into force and the old list's slots return to the pool; and no other group's list changes. A piece with a group number, total,
index or count out of range, or that would carry the list past its total, is refused BAD_VALUE; one in range for a group whose submission
is in progress is refused BUSY; nothing changes then. The fields stand where 12.2 puts them: group, total and position at offsets 0, 2 and
4, the count at 6 and the indices from 8 (R12; that the free slots are judged after the unfinished list is discarded is the
model's choice, log 16). -/
def Obligations.GroupSetBuildsList : Prop :=
  (∀ (s t : State) (place : Nat) (body : List Byte), s.takeOrder .groupSet = some (place, body, t) →
    let at_ : Nat → Nat → Nat := Bytes.field body
    let wrong : Prop := 1024 ≤ at_ 0 2 ∨ 2048 < at_ 2 2 ∨ 160 < at_ 6 1 ∨ (∃ i, i < at_ 6 1 ∧ 262144 ≤ at_ (8 + 3 * i) 3) ∨
      at_ 2 2 < at_ 4 2 + at_ 6 1;
    (wrong → t.link.partState ≠ .restarting → exec .groupSet s = .next (t.reply place .badValue .none)) ∧
    (¬wrong → t.link.partState ≠ .restarting → ∀ g, t.intake.order = some (.group g) → g.group = at_ 0 2 →
      exec .groupSet s = .next (t.reply place .busy .none)) ∧
    (¬wrong → Operands.groupSet body = some
      { group := at_ 0 2, total := at_ 2 2, position := at_ 4 2
        members := (List.range (at_ 6 1)).map (fun i => at_ (8 + 3 * i) 3) })) ∧
  ∀ (s t : State) (place : Nat) (body : List Byte) (p : Operands.GroupPiece), s.takeOrder .groupSet = some (place, body, t) →
    t.link.partState ≠ .restarting → Operands.groupSet body = some p →
    (∀ g, t.intake.order = some (.group g) → g.group ≠ p.group) →
    let old := Table.get [] t.store.groups p.group
    let free := t.store.poolFree + (match t.store.unfinishedList p.group with
      | none => 0
      | some u => u.total);
    (p.position = 0 → free < p.total → exec .groupSet s = .next (t.reply place .storeFull .none)) ∧
    (∀ given : List Nat, given.length ≤ p.total →
      (p.position = 0 ∧ p.total ≤ free ∧ given = p.members) ∨
        (p.position ≠ 0 ∧ ∃ u, t.store.unfinishedList p.group = some u ∧ u.total = p.total ∧ u.members.length = p.position ∧
          given = u.members ++ p.members) →
      ∃ store : Store,
        exec .groupSet s = .next (({ t with store } : State).reply place .ok
          (.groupPiece given.length (decide (given.length = p.total)))) ∧
        store = { t.store with groups := store.groups, unfinished := store.unfinished, poolFree := store.poolFree } ∧
        (∀ g, g ≠ p.group → Table.get [] store.groups g = Table.get [] t.store.groups g ∧
          store.unfinishedList g = t.store.unfinishedList g) ∧
        (given.length = p.total → Table.get [] store.groups p.group = given ∧ store.unfinishedList p.group = none) ∧
        (given.length ≠ p.total → Table.get [] store.groups p.group = old ∧
          store.unfinishedList p.group = some { total := p.total, members := given }) ∧
        store.poolFree = (if p.position = 0 then free - p.total else t.store.poolFree) +
          (if given.length = p.total then old.length else 0)) ∧
    (p.position ≠ 0 → (∀ u, t.store.unfinishedList p.group = some u → u.total ≠ p.total ∨ u.members.length ≠ p.position) →
      exec .groupSet s = .next (t.reply place .badValue .none))

/-! ### Zones -/

/-- SET_ZONE outside RESTARTING replaces the neighbour set and takes the zone through the table of R148; a zone that leaves or enters
service this way has no fault, run 0, count 0 and no arrival mark, and keeps its occurrence counts; no other zone changes. The zone is
left out of the faulted-zone summary when it becomes UNCONFIGURED, and the first-fault record is emptied exactly if it names this zone
and a condition of its fault set. A zone outside 0..15, an action that is neither ENABLE nor DISABLE, or a neighbour set that names the
zone itself is refused BAD_VALUE and nothing changes. The zone stands at offset 0 of the body, the action at 1 and the set at 2 and 3
(R148; 12.2). An UNTAKEN or a REV_SILENT of the zone that is reported and not yet recorded when a DISABLE takes it to UNCONFIGURED is recorded
first, which is the model's reading (log 13); what recording it does is FrameStartAdvances' and OccurrenceRecorded's. -/
def Obligations.SetZoneFollowsTable : Prop :=
  (∀ (s t : State) (place : Nat) (body : List Byte), s.takeOrder .setZone = some (place, body, t) →
    let z := Bytes.field body 0 1
    let wrong : Prop := 16 ≤ z ∨ (Bytes.field body 1 1 ≠ 1 ∧ Bytes.field body 1 1 ≠ 2) ∨
      (BitVec.ofNat 16 (Bytes.field body 2 2)).getLsbD z = true;
    (wrong → t.link.partState ≠ .restarting → exec .setZone s = .next (t.reply place .badValue .none)) ∧
    (¬wrong → Operands.setZone body = some (z, decide (Bytes.field body 1 1 = 1), BitVec.ofNat 16 (Bytes.field body 2 2)))) ∧
  ∀ (s t : State) (place : Nat) (body : List Byte) (z : Nat) (enable : Bool) (neighbours : ZoneSet),
    s.takeOrder .setZone = some (place, body, t) → t.link.partState ≠ .restarting →
    Operands.setZone body = some (z, enable, neighbours) →
    let leaves : Prop := enable = false ∧ (t.monitor.zone z).state ≠ .unconfigured
    let u : State := if leaves then t.recordDue z else t;
    ∃ m : Monitor,
      exec .setZone s =
        .next (({ u with monitor := m } : State).reply place .ok (.zoneSet (m.zone z).state (m.zone z).neighbours)) ∧
      m.settings = t.monitor.settings ∧ (∀ w, w ≠ z → m.zone w = t.monitor.zone w) ∧
      (∀ w, w < 16 → w ≠ z → ZoneSet.has m.summary w = ZoneSet.has t.monitor.summary w) ∧
      (let v := u.monitor.zone z;
        (enable = true → v.state = .unconfigured →
          m.zone z = { neighbours, state := .inService, occurrences := v.occurrences } ∧ m.first = t.monitor.first) ∧
        ((enable = true ∧ v.state ≠ .unconfigured) ∨ (enable = false ∧ v.state = .unconfigured) →
          m = t.monitor.setZone z { v with neighbours }) ∧
        (leaves →
          m.zone z = { neighbours, state := .unconfigured, occurrences := v.occurrences } ∧
            ZoneSet.has m.summary z = false ∧
            (let names : Prop := ∃ f, u.monitor.first = some f ∧ f.zone = z ∧ FaultSet.has v.faults f.condition = true;
              (names → m.first = none) ∧ (¬names → m.first = u.monitor.first))))

/-- ZONE_RESTORE: WRONG_STATE in RESTARTING, BAD_VALUE for a zone outside 0..15 and for an UNCONFIGURED one, OK with no change for one
IN_SERVICE, FAULT_SET with the fault set for one OUT_OF_SERVICE whose fault set holds a condition of severity SERVICE_LOSS, and otherwise
the zone enters service with run 0, count 0 and no arrival mark, its fault set kept; no other zone changes. An occurrence of a service
loss that comes before the restore leaves it to be refused FAULT_SET; one that comes after takes the zone out of service again (R149; what
the OK reply for a zone already IN_SERVICE carries is the model's choice, log 60). -/
def Obligations.ZoneRestoreByState : Prop :=
  ∀ (s t : State) (place : Nat) (z : Byte), s.takeOrder .zoneRestore = some (place, [z], t) →
    let v := t.monitor.zone z.toNat
    let settings := t.monitor.settings.conditions
    let loss : Prop := ∃ c, FaultSet.has v.faults c = true ∧ (settings.get c).severity = .serviceLoss
    let restored : State := { t with monitor := t.monitor.setZone z.toNat { v with
      state := .inService, untakenRun := 0, silence := 0, arrival := false } };
    (t.link.partState = .restarting → exec .zoneRestore s = .next (t.reply place .wrongState .none)) ∧
    (t.link.partState ≠ .restarting → 16 ≤ z.toNat ∨ v.state = .unconfigured →
      exec .zoneRestore s = .next (t.reply place .badValue .none)) ∧
    (t.link.partState ≠ .restarting → z.toNat < 16 →
      (v.state = .inService → exec .zoneRestore s = .next (t.reply place .ok (.zoneRestored .inService v.faults))) ∧
      (v.state = .outOfService → loss → exec .zoneRestore s = .next (t.reply place .faultSet (.faultsHeld v.faults))) ∧
      (v.state = .outOfService → ¬loss →
        exec .zoneRestore s = .next (restored.reply place .ok (.zoneRestored .inService v.faults)))) ∧
    (z.toNat < 16 → v.state = .outOfService → ∀ c, (settings.get c).detect = true → (settings.get c).severity = .serviceLoss →
      let before := t.occurrence z.toNat c
      let after := (restored.reply place .ok (.zoneRestored .inService v.faults)).occurrence z.toNat c;
      ((before.monitor.zone z.toNat).state = .outOfService ∧ FaultSet.has (before.monitor.zone z.toNat).faults c = true ∧
        before.monitor.settings = t.monitor.settings) ∧
      ((after.monitor.zone z.toNat).state = .outOfService ∧ FaultSet.has (after.monitor.zone z.toNat).faults c = true))

/-- CLEAR_FAULTS: WRONG_STATE in RESTARTING, BAD_VALUE for a zone outside 0..15. Otherwise it takes the conditions named out of the zone's
fault set, keeps everything else of the zone, its state among it, takes the zone out of the summary when its fault set is empty, and
empties the first-fault record when it names a condition so removed; the next occurrence recorded for any zone then loads it again
(R155). -/
def Obligations.FaultsCleared : Prop :=
  ∀ (s t : State) (place : Nat) (z c : Byte), s.takeOrder .clearFaults = some (place, [z, c], t) →
    let v := t.monitor.zone z.toNat
    let named : FaultSet := c.setWidth 5;
    (t.link.partState = .restarting → exec .clearFaults s = .next (t.reply place .wrongState .none)) ∧
    (t.link.partState ≠ .restarting → 16 ≤ z.toNat → exec .clearFaults s = .next (t.reply place .badValue .none)) ∧
    (t.link.partState ≠ .restarting → z.toNat < 16 → ∃ (m : Monitor) (emptied : Bool) (u : State),
      u = ({ t with monitor := m } : State).reply place .ok (.faultsCleared (m.zone z.toNat).faults emptied) ∧
      exec .clearFaults s = .next u ∧
      m.settings = t.monitor.settings ∧ (∀ w, w ≠ z.toNat → m.zone w = t.monitor.zone w) ∧
      m.zone z.toNat = { v with faults := v.faults &&& ~~~named } ∧
      (∀ w, w < 16 → ZoneSet.has m.summary w =
        if w = z.toNat then decide (v.faults &&& ~~~named ≠ 0) else ZoneSet.has t.monitor.summary w) ∧
      m.first = (if emptied then none else t.monitor.first) ∧
      (emptied = true ↔ ∃ f, t.monitor.first = some f ∧ f.zone = z.toNat ∧
        FaultSet.has (v.faults &&& named) f.condition = true) ∧
      (emptied = true → ∀ w d, w < 16 → (m.zone w).state ≠ .unconfigured → (m.settings.conditions.get d).detect = true →
        (u.occurrence w d).monitor.first = some { zone := w, condition := d, frameCount := t.timer.frameCount }))

/-! ### STATUS and the orders refused in RESTARTING -/

/-- In RESTARTING an order that is taken and is not STATUS, COLLECT, READ_SUB or READ_FAULTS is answered WRONG_STATE, and nothing
changes but that the machine may settle down; the refusal of a RESTART gives the places available in the log and the live entries (R167,
R169; the order-set table, 10.6). -/
def Obligations.OrdersRefusedInRestarting : Prop :=
  (∀ (c : Instr) (k : OrderKind),
    (c, k) ∈ [(Instr.submit, OrderKind.submit), (.submitGroup, .submitGroup), (.cancel, .cancel),
      (.setAdmission, .setAdmission), (.queryMessage, .queryMessage), (.groupSet, .groupSet), (.groupRead, .groupRead),
      (.writeSub, .writeSub), (.repairSub, .repairSub), (.initRecords, .initRecords), (.flush, .flush), (.setCache, .setCache),
      (.setAddressBase, .setAddressBase), (.setTiming, .setTiming), (.setPolicy, .setPolicy), (.setReach, .setReach),
      (.planSet, .planSet), (.planRead, .planRead), (.closePeriod, .closePeriod), (.topUp, .topUp), (.adjust, .adjust),
      (.setNotices, .setNotices), (.setZone, .setZone), (.zoneRestore, .zoneRestore),
      (.setFaultHandling, .setFaultHandling), (.clearFaults, .clearFaults), (.start, .start)] →
    ∀ (s t : State) (place : Nat) (body : List Byte), s.takeOrder k = some (place, body, t) → t.link.partState = .restarting →
      exec c s = .next (t.reply place .wrongState .none) ∨ exec c s = .next (t.reply place .wrongState .none).settleDown) ∧
  (∀ (s t : State) (place : Nat) (body : List Byte), s.takeOrder .restart = some (place, body, t) → t.link.partState = .restarting →
    exec .restart s = .next (t.reply place .wrongState (.noLogRoom (1024 - t.log.records.length) t.store.occupancy)))

/-! ### The host link -/

/-- The order KINDs are 0x01 to 0x20, and a body suits its KIND by the lengths of 12.2, a count field of the body giving the length of a
SUBMIT, SUBMIT_GROUP or GROUP_SET. The CHECK is the CRC-16, polynomial 0x1021 from 0xFFFF, most significant bit first, over LENGTH through
BODY (R157, 12.1, 12.2). A frame that has arrived whole outside a break ends the gathering. With a wrong CHECK it is counted and nothing
else happens. With the right one it is a good frame, and an order that passes the three checks joins the tail of the queue, no place set
aside for it yet; then places are set aside as OrderTaken says. A frame that fails one takes the lowest free reply place at once with the
refusal of the first check it fails, and is counted; with all 64 places in use, those set aside for orders that wait among them, it is
dropped and counted (R157, R158, R160, R162). That the frame arrives in one step is the model's choice (log 28), and so is which free place
it takes (log 25). -/
def Obligations.HostFrameChecked : Prop :=
  (∀ (b : Byte) (k : OrderKind), OrderKind.ofCode b = some k ↔
    (b, k) ∈ [((0x01 : Byte), OrderKind.submit), (0x02, .submitGroup), (0x03, .cancel), (0x04, .setAdmission), (0x05, .queryMessage),
      (0x06, .groupSet), (0x07, .groupRead), (0x08, .readSub), (0x09, .writeSub), (0x0A, .repairSub), (0x0B, .initRecords),
      (0x0C, .flush), (0x0D, .setCache), (0x0E, .setAddressBase), (0x0F, .setTiming), (0x10, .setPolicy), (0x11, .setReach),
      (0x12, .planSet), (0x13, .planRead), (0x14, .closePeriod), (0x15, .topUp), (0x16, .adjust), (0x17, .collect),
      (0x18, .setNotices), (0x19, .setZone), (0x1A, .zoneRestore), (0x1B, .setFaultHandling), (0x1C, .clearFaults),
      (0x1D, .readFaults), (0x1E, .status), (0x1F, .start), (0x20, .restart)]) ∧
  (∀ (k : OrderKind) (body : List Byte),
    let n := body.length;
    k.lengthFits body = true ↔ match k with
      | .submit => 8 ≤ n ∧ n = 8 + Bytes.field body 6 2
      | .submitGroup => 8 ≤ n ∧ n = 8 + Bytes.field body 6 2
      | .groupSet => 8 ≤ n ∧ n = 8 + 3 * Bytes.field body 6 1
      | .flush => n = 0
      | .closePeriod => n = 0
      | .readFaults => n = 0
      | .start => n = 0
      | .restart => n = 0
      | .planRead => n = 1
      | .setNotices => n = 1
      | .zoneRestore => n = 1
      | .setAdmission => n = 2
      | .setCache => n = 2
      | .setReach => n = 2
      | .collect => n = 2
      | .clearFaults => n = 2
      | .status => n = 2
      | .readSub => n = 3
      | .setAddressBase => n = 3
      | .queryMessage => n = 4
      | .setZone => n = 4
      | .groupRead => n = 6
      | .initRecords => n = 6
      | .setTiming => n = 6
      | .topUp => n = 7
      | .adjust => n = 7
      | .cancel => n = 8
      | .setFaultHandling => n = 8
      | .writeSub => n = 10
      | .setPolicy => n = 12
      | .repairSub => n = 14
      | .planSet => n = 20) ∧
  (∀ (kind tag : Byte) (body : List Byte), frameCheck kind tag body =
    Bytes.crc16 ([BitVec.ofNat 8 (body.length / 256), BitVec.ofNat 8 body.length, kind, tag] ++ body)) ∧
  (Bytes.crc16 [] = 0xFFFF ∧ ∀ (bs : List Byte) (b : Byte), Bytes.crc16 (bs ++ [b]) = (List.range 8).foldl
    (fun c _ => if c.msb then (c <<< 1) ^^^ 0x1021#16 else c <<< 1) (Bytes.crc16 bs ^^^ (b.setWidth 16 <<< 8))) ∧
  ∀ (s : State) (kind tag : Byte) (body : List Byte) (check : Word16), body.length ≤ 508 → s.link.inBreak = false →
    let good : Link := { s.link with
      receiver := .hunting, counts := { s.link.counts with goodFrames := s.link.counts.goodFrames + 1 } }
    let accepts : Prop := ∃ k, OrderKind.ofCode kind = some k ∧ k.lengthFits body = true ∧ s.link.orders.length < 32
    let used := s.link.placesInUse;
    (check ≠ frameCheck kind tag body → exec (.hostFrame kind tag body check) s =
      .next { s with link := { s.link with
        receiver := .hunting, counts := { s.link.counts with checkErrors := s.link.counts.checkErrors + 1 } } }) ∧
    (∀ k, check = frameCheck kind tag body → OrderKind.ofCode kind = some k → k.lengthFits body = true →
      s.link.orders.length < 32 → exec (.hostFrame kind tag body check) s =
        .next (({ s with link := { good with
          orders := s.link.orders ++ [{ kind := k, tag, body, place := none }]
          counts := { good.counts with accepted := good.counts.accepted + 1 } } } : State).setPlaces)) ∧
    (check = frameCheck kind tag body → ¬accepts → 64 ≤ used.length → exec (.hostFrame kind tag body check) s =
      .next { s with link := { good with counts := { good.counts with overruns := good.counts.overruns + 1 } } }) ∧
    (∀ place, check = frameCheck kind tag body → ¬accepts → used.length < 64 → place ∉ used → (∀ q, q < place → q ∈ used) →
      ∃ code : ReplyCode, exec (.hostFrame kind tag body check) s =
          .next { s with link := Link.startSending { good with
            ready := s.link.ready ++ [(place, { kind, tag, code, body := .none })], counts := good.counts.refusal code } } ∧
        (code = .unknownOrder ↔ OrderKind.ofCode kind = none) ∧
        (code = .badFormat ↔ ∃ k, OrderKind.ofCode kind = some k ∧ k.lengthFits body = false) ∧
        (code = .busy ↔ ∃ k, OrderKind.ofCode kind = some k ∧ k.lengthFits body = true ∧ 32 ≤ s.link.orders.length))

/-- A SYNC byte brings a hunting receiver into GATHERING. A gap, a framing error or a LENGTH above 508 brings a gathering receiver back
to HUNTING, and its own count alone rises by one (R157, R158). At the end of a break the receiver hunts and the transmitter resumes. The
last byte of a frame frees the transmitter, and the frame is counted; that of a reply frees its reply place, and places are then set aside
for the orders that wait as OrderTaken says; the oldest ready reply goes next, and only with none ready the oldest notice (R159, R162,
R164). The reply of a taken order carries the KIND and tag of the order, and the code and fields given; it joins the
tail of the ready replies with the order's place, and a free transmitter starts. The reply of an order marked at a link reset is discarded
instead and counted, and its place is free. Then places are set aside in the same way, and nothing else changes. With nothing taken under
that place only the setting aside of places follows, in states no run reaches (R159, R162). -/
def Obligations.ReceiverAndTransmitterMove : Prop :=
  (∀ s : State, s.link.inBreak = false →
    (s.link.receiver = .hunting → exec .hostSync s = .next { s with link := { s.link with receiver := .gathering } }) ∧
    (s.link.receiver = .gathering →
      exec .hostGapTimeout s = .next { s with link := { s.link with
        receiver := .hunting, counts := { s.link.counts with gapDiscards := s.link.counts.gapDiscards + 1 } } } ∧
      exec .hostLineError s = .next { s with link := { s.link with
        receiver := .hunting, counts := { s.link.counts with lineErrors := s.link.counts.lineErrors + 1 } } } ∧
      (∀ length : Word16, 508 < length.toNat → exec (.hostLengthDiscard length) s = .next { s with link := { s.link with
        receiver := .hunting, counts := { s.link.counts with lengthDiscards := s.link.counts.lengthDiscards + 1 } } }))) ∧
  ((∀ s : State, s.link.inBreak = true →
    exec .breakEnd s = .next { s with link := Link.startSending { s.link with inBreak := false, receiver := .hunting } }) ∧
  (∀ (s : State) (place : Nat) (r : Reply), s.link.sending = .reply place r →
    exec .frameSent s = .next (({ s with link := Link.startSending { s.link with
      sending := .idle, counts := { s.link.counts with repliesSent := s.link.counts.repliesSent + 1 } } } : State).setPlaces)) ∧
  (∀ (s : State) (n : Notice), s.link.sending = .notice n →
    exec .frameSent s = .next { s with link := Link.startSending { s.link with
      sending := .idle, counts := { s.link.counts with noticesSent := s.link.counts.noticesSent + 1 } } }) ∧
  (∀ l : Link, l.inBreak = false → l.sending = .idle →
    (∀ place r rest, l.ready = (place, r) :: rest → l.startSending = { l with ready := rest, sending := .reply place r }) ∧
    (∀ n rest, l.ready = [] → l.notices = n :: rest → l.startSending = { l with notices := rest, sending := .notice n }) ∧
    (l.ready = [] → l.notices = [] → l.startSending = l))) ∧
  (∀ l : Link, l.inBreak = true ∨ l.sending ≠ .idle → l.startSending = l) ∧
  (∀ (s : State) (place : Nat) (code : ReplyCode) (body : ReplyBody),
    let n := s.link.counts
    ((∀ o ∈ s.link.taken, o.place ≠ place) → s.reply place code body = s.setPlaces) ∧
    (∀ before o after, s.link.taken = before ++ o :: after → o.place = place → (∀ x ∈ before ++ after, x.place ≠ place) →
      (o.marked = false → s.reply place code body = ({ s with link := Link.startSending { s.link with
        taken := before ++ after
        ready := s.link.ready ++ [(place, { kind := o.kind.code, tag := o.tag, code, body })] } } : State).setPlaces) ∧
      (o.marked = true → s.reply place code body = ({ s with link := { s.link with
        taken := before ++ after, counts := { n with repliesDiscarded := n.repliesDiscarded + 1 } } } : State).setPlaces)))

/-- A link reset empties the order input queue, the ready replies and the notice queue, stops the transmitter, marks every order taken
and counts each thing it discards; the last-returned count becomes 0, and with 768 records held or more a LOG_HIGH notice is queued
afresh. Everything else is as it was. While the break lasts a further LINK_RESET changes nothing (R142, R159). Any notice offered takes the
next notice number, and the number moves on, from 4,294,967,295 to 1, whether the notice is queued or not; with fewer than 256 notices held,
the one being sent among them, it joins the tail of the queue and a free transmitter starts; with 256 it is dropped, and the dropped count
of its kind alone rises (R163). -/
def Obligations.LinkResetDiscards : Prop :=
  (∀ s : State, s.link.inBreak = true → exec .linkReset s = .next s) ∧
  (∀ s : State, s.link.inBreak = false →
    let sent : Nat := match s.link.sending with
      | .reply _ _ => 1
      | _ => 0
    let told : Nat := match s.link.sending with
      | .notice _ => 1
      | _ => 0
    let link : Link := { s.link with
      receiver := .hunting, inBreak := true, orders := [], taken := s.link.taken.map (fun t => { t with marked := true }), ready := [],
      sending := .idle, notices := []
      counts := { s.link.counts with
        linkResets := s.link.counts.linkResets + 1
        ordersDiscarded := s.link.counts.ordersDiscarded + BitVec.ofNat 32 s.link.orders.length
        repliesDiscarded := s.link.counts.repliesDiscarded + BitVec.ofNat 32 (s.link.ready.length + sent)
        noticesDiscarded := s.link.counts.noticesDiscarded + BitVec.ofNat 32 (s.link.notices.length + told) } }
    let n := s.log.records.length
    (n < 768 → exec .linkReset s = .next { s with link := link, log := { s.log with lastReturned := 0 } }) ∧
    (768 ≤ n → exec .linkReset s = .next { s with
      link := link.offerNotice (.logHigh n (firstSequence s.log.records) (lastSequence s.log.records) s.log.setAside)
      log := { s.log with
        lastReturned := 0, high := .sent, counts := { s.log.counts with highNotices := s.log.counts.highNotices + 1 } } })) ∧
  (∀ (l : Link) (body : NoticeBody),
    let held : Nat := l.notices.length + (match l.sending with
      | .notice _ => 1
      | _ => 0)
    let n := l.counts.dropped
    let numbered : Link := { l with nextNotice := if l.nextNotice + 1 = 0 then 1 else l.nextNotice + 1 }
    let dropped : NoticeCounts := match body with
      | .outcome .. => { n with outcome := n.outcome + 1 }
      | .fault .. => { n with fault := n.fault + 1 }
      | .logHigh .. => { n with logHigh := n.logHigh + 1 }
      | .airHold .. => { n with airHold := n.airHold + 1 }
      | .airResume .. => { n with airResume := n.airResume + 1 }
      | .recordFault .. => { n with recordFault := n.recordFault + 1 }
      | .congestion .. => { n with congestion := n.congestion + 1 };
    (held < 256 → l.offerNotice body =
      Link.startSending { numbered with notices := l.notices ++ [{ number := l.nextNotice, body }] }) ∧
    (256 ≤ held → l.offerNotice body = { numbered with counts := { l.counts with dropped } }))

/-! ### Air time -/

/-- A frame start of the INTERNAL source, in RUNNING: the frame count rises by one; below the end of the cycle the frame number takes
the next value and the running settings stay; at the end of the cycle it becomes 0, the cycle number rises by one and the coming
settings become the running ones. At frame running length − 2 the coming settings are fixed from the staged values, whose marks are
cleared, and the coming length is the length in force. Then the frame start is announced and the machine settles down (R52, R54;
what is still due from the last frame start comes first, which is the model's order, logs 8, 13 and 14). CYCLE_TURN is the frame start
that reaches frame running length − 2 of the cycle then running: where the next frame start does, it does what FRAME_START does, and
elsewhere nothing (log 27). For every timer, whatever its source, the next frame start is that advance and turn, and its announcement
names the coming cycle number exactly where it turns. What is due from the last frame start: the UNTAKEN and REV_SILENT occurrences
still due are recorded, zones rising, UNTAKEN first (log 53), each with its mark cleared and its run or count at 0, and then the Retry Unit
acts on what it was told, as at DEADLINE_MISS (DeadlinesPassedAndMisses). -/
def Obligations.FrameStartAdvances : Prop :=
  (∀ t : Timer,
    let moved : Timer :=
      if t.frameNumber + 1 < t.running.length then { t with frameCount := t.frameCount + 1, frameNumber := t.frameNumber + 1 }
      else
        { t with
          frameCount := t.frameCount + 1, frameNumber := 0, cycle := t.cycle + 1, running := t.coming.getD t.running, coming := none }
    let turns : Prop := moved.frameNumber + 2 = moved.running.length
    let fixed : Timing :=
      { length := t.staged.length.getD moved.running.length, ackDelay := t.staged.ackDelay.getD moved.running.ackDelay
        source := t.staged.source.getD moved.running.source };
    (turns → t.nextFrame = { moved with coming := some fixed, staged := {}, lengthInForce := fixed.length } ∧
      t.nextFrame.comingCycle = some (moved.cycle + 1)) ∧
    (¬turns → t.nextFrame = moved ∧ t.nextFrame.comingCycle = none)) ∧
  (∀ s : State,
    let untaken : State → Nat → State := fun u z =>
      if (u.monitor.zone z).untakenDue = true then
        ({ u with monitor := u.monitor.setZone z { u.monitor.zone z with untakenRun := 0, untakenDue := false } } : State).occurrence z
          .untaken
      else u
    let silent : State → Nat → State := fun u z =>
      if (u.monitor.zone z).silentDue = true then
        ({ u with monitor := u.monitor.setZone z { u.monitor.zone z with silence := 0, silentDue := false } } : State).occurrence z
          .revSilent
      else u
    (∀ z, s.recordDue z = silent (untaken s z) z) ∧ s.recordAllDue = (List.range 16).foldl (fun u z => u.recordDue z) s ∧
    s.finishLastFrame = s.recordAllDue.takeAnnounced) ∧
  (∀ s : State, s.timer.state = .running → s.timer.running.source.kind = .internal →
    ∃ (last : State) (next : Timer),
      last = s.finishLastFrame ∧ last.timer = s.timer ∧
      exec .frameStart s = .next ((({ last with timer := next } : State).announce
        (if next.frameNumber + 2 = next.running.length then some (next.cycle + 1) else none)
        (decide (next.lengthInForce ≠ s.timer.lengthInForce))).settleDown) ∧
      next.state = .running ∧ next.frameCount = s.timer.frameCount + 1 ∧ next.ignored = s.timer.ignored ∧
      next.early = s.timer.early ∧ next.holds = s.timer.holds ∧
      (if s.timer.frameNumber + 1 < s.timer.running.length then
        next.frameNumber = s.timer.frameNumber + 1 ∧ next.cycle = s.timer.cycle ∧ next.running = s.timer.running
      else
        next.frameNumber = 0 ∧ next.cycle = s.timer.cycle + 1 ∧ next.running = s.timer.coming.getD s.timer.running) ∧
      (if next.frameNumber + 2 = next.running.length then
        next.coming = some
          { length := s.timer.staged.length.getD next.running.length
            ackDelay := s.timer.staged.ackDelay.getD next.running.ackDelay
            source := s.timer.staged.source.getD next.running.source } ∧
        next.staged = {} ∧ next.lengthInForce = s.timer.staged.length.getD next.running.length
      else
        next.coming = (if s.timer.frameNumber + 1 < s.timer.running.length then s.timer.coming else none) ∧
        next.staged = s.timer.staged ∧ next.lengthInForce = s.timer.lengthInForce)) ∧
  (∀ s : State, s.timer.state = .running → s.timer.running.source.kind = .internal →
    let number := if s.timer.frameNumber + 1 < s.timer.running.length then s.timer.frameNumber + 1 else 0
    let length :=
      if s.timer.frameNumber + 1 < s.timer.running.length then s.timer.running.length
      else (s.timer.coming.getD s.timer.running).length
    (number + 2 = length → exec .cycleTurn s = exec .frameStart s ∧
      ∃ (last : State) (coming : Timing), last = s.finishLastFrame ∧
        exec .cycleTurn s = .next ((({ last with timer := s.timer.nextFrame } : State).announce
          (some (s.timer.nextFrame.cycle + 1)) (decide (s.timer.nextFrame.lengthInForce ≠ s.timer.lengthInForce))).settleDown) ∧
        s.timer.nextFrame.coming = some coming ∧ s.timer.nextFrame.lengthInForce = coming.length) ∧
    (number + 2 ≠ length → exec .cycleTurn s = .next s))

/-- A strobe by timer state and source: ignored and counted in STOPPED and from the INTERNAL source; from the EXTERNAL source counted
as early before half a nominal duration has passed, and a frame start from then on; in HOLD a frame start that brings RUNNING back
and offers AIR_RESUME with the time held (R51, R60; times enter in half milliseconds, log 4). Strobe loss under the EXTERNAL source:
HOLD, counted, AIR_HOLD with the frame count, frame number and cycle number, and the offered frame withdrawn (R59). That what is still
due from the last frame start comes first, and the order in which the units act on one, are the model's (logs 8, 13 and 14). A withdrawal
of the offered frame: each zone with an offer outstanding is sent a WITHDRAW with its launch count, its offer becomes IDLE with no launch
count and page count 0, its withdrawals rise by one, and nothing else of it or of the links changes (R89). The offered frame is absent, and
each entry it held, in placement order, is a void attempt: counted, it settles CANCELLED if it is cancel-requested, and is otherwise filed
with its attempts as they were; with no frame offered only the links change (R78, R79). -/
def Obligations.StrobesJudgedAndLost : Prop :=
  (∀ (s : State) (elapsed : Nat),
    (s.timer.state = .stopped ∨ (s.timer.state = .running ∧ s.timer.running.source.kind = .internal) →
      exec (.strobe elapsed) s = .next { s with timer := { s.timer with ignored := s.timer.ignored + 1 } }) ∧
    (s.timer.state = .running → s.timer.running.source.kind = .external → elapsed < s.timer.running.source.nominal →
      exec (.strobe elapsed) s = .next { s with timer := { s.timer with early := s.timer.early + 1 } }) ∧
    (s.timer.state = .running → s.timer.running.source.kind = .external → s.timer.running.source.nominal ≤ elapsed →
      exec (.strobe elapsed) s = .next ((({ s.finishLastFrame with timer := s.timer.nextFrame } : State).announce
        s.timer.nextFrame.comingCycle (decide (s.timer.nextFrame.lengthInForce ≠ s.timer.lengthInForce))).settleDown)) ∧
    (s.timer.state = .hold →
      let next := { s.timer.nextFrame with state := .running }
      exec (.strobe elapsed) s = .next (((({ s.finishLastFrame with timer := next } : State).notice
        (.airResume next.frameCount next.frameNumber next.cycle
          (min 4294967295 ((elapsed - 3 * s.timer.running.source.nominal) / 2)))).announce
        next.comingCycle (decide (next.lengthInForce ≠ s.timer.lengthInForce))).settleDown))) ∧
  (∀ s : State, s.timer.state = .running → s.timer.running.source.kind = .external →
    exec .strobeLoss s = .next (((({ s with timer := { s.timer with state := .hold, holds := s.timer.holds + 1 } } : State).notice
      (.airHold s.timer.frameCount s.timer.frameNumber s.timer.cycle)).withdrawOffered).settleDown)) ∧
  (∀ l : ZoneLinks,
    let out : Nat → Option Word32 := fun z => if (l.zone z).offer = .idle then none else (l.zone z).launch
    let t := l.withdrawAll;
    t = { l with
      zones := t.zones
      sent := l.sent ++ (List.range 16).filterMap (fun z => (out z).map (fun launch => (z, .withdraw launch))) } ∧
    (∀ z, (16 ≤ z ∨ out z = none) → t.zone z = l.zone z) ∧
    (∀ z, z < 16 → out z ≠ none →
      let v := l.zone z
      t.zone z = { v with
        offer := .idle, launch := none, pages := 0, counts := { v.counts with withdrawals := v.counts.withdrawals + 1 } })) ∧
  (∀ s : State,
    let a := s.assembler
    let withdrawn : State := { s with zoneLinks := s.zoneLinks.withdrawAll };
    (a.offered = none → s.withdrawOffered = withdrawn) ∧
    (∀ o, a.offered = some o → s.withdrawOffered = o.frame.placed.foldl (fun u p => u.voidAttempt p.entry)
      { withdrawn with assembler := { a with offered := none } })) ∧
  (∀ (s : State) (n : Nat) (e : Entry), s.store.entry n = some e →
    let a := s.assembler
    let counted : State := { s with assembler := { a with counts := { a.counts with voidAttempts := a.counts.voidAttempts + 1 } } };
    (e.cancelRequested = true → s.voidAttempt n = counted.settle n .cancelled 0) ∧
    (e.cancelRequested = false → s.voidAttempt n = counted.file n))

/-! ### Frames from the zones -/

/-- A good TAKEN or REJECT is compared with the forward record of its link: the first answer to an outstanding offer decides it, a
later one to the same offer is counted duplicate, one that names a lower count or finds the state IDLE late, and any other unmatched.
Nothing else changes, but that a REJECT is then an occurrence of FWD_FRAME_ERROR. The zone stands at offset 0 of both bodies, the reason of a
REJECT at 1 and the launch count at 4 to 7 (R87, 12.6; that the taken and rejected counts rise when the
offer is judged and not here is the model's reading, log 17). -/
def Obligations.AnswersDecideOffers : Prop :=
  ∀ (s : State) (link : Nat) (body : List Byte) (launch : Word32), link < 16 → body.length ≤ 508 →
    let v := s.zoneLinks.zone link
    let outstanding : Prop := v.offer ≠ .idle ∧ v.launch = some launch
    let becomes : OfferState → ZoneLink → Prop := fun decided w =>
      (outstanding → v.offer = .sent → w = { v with offer := decided }) ∧
      (outstanding → v.offer ≠ .sent → w = { v with counts := { v.counts with duplicate := v.counts.duplicate + 1 } }) ∧
      (¬outstanding → v.offer = .idle ∨ launch < v.launch.getD 0 →
        w = { v with counts := { v.counts with late := v.counts.late + 1 } }) ∧
      (¬outstanding → ¬(v.offer = .idle ∨ launch < v.launch.getD 0) →
        w = { v with counts := { v.counts with unmatched := v.counts.unmatched + 1 } })
    let named : Option Word32 := some (BitVec.ofNat 32 (Bytes.field body 4 4));
    (body.length = 8 → Bytes.field body 0 1 = link →
      Operands.taken link body = named ∧ (Bytes.field body 1 1 = 1 → Operands.reject link body = named)) ∧
    (Operands.taken link body = some launch → ∃ w, becomes .taken w ∧
      exec (.taken link body) s = .next { s with zoneLinks := s.zoneLinks.setZone link w }) ∧
    (Operands.reject link body = some launch → ∃ w, becomes .rejected w ∧
      exec (.reject link body) s =
        .next (({ s with zoneLinks := s.zoneLinks.setZone link w } : State).occurrence link .fwdFrameError))

/-- A STATE of a configured zone sets its reference state, which stands at offset 1 of the body, LOCKED 1 or UNLOCKED 2, and each UNLOCKED
is an occurrence of REF_UNLOCK; one of an UNCONFIGURED zone is counted and discarded (R84, R90). UNTAKEN is recorded for a zone whose run
has reached T, and the run returns to 0; REV_SILENT for one whose silence count has reached S, and the count returns to 0 (R151, R152; that
these are steps of their own, and come after the close of that frame start, is the model's, logs 13 and 50). At a frame start, once the
offers due are judged, a configured zone whose arrival mark is clear has its silence count raised by one, which makes a REV_SILENT due where
it reaches S; one whose mark is set keeps its count, and its mark is cleared; an UNCONFIGURED zone is left alone, and so is the rest of the
Zone Monitor (R152). -/
def Obligations.ZoneReportsRecorded : Prop :=
  (∀ (link : Nat) (body : List Byte), body.length = 4 → Bytes.field body 0 1 = link →
    (Bytes.field body 1 1 = 1 → Operands.stateReport link body = some .locked) ∧
    (Bytes.field body 1 1 = 2 → Operands.stateReport link body = some .unlocked)) ∧
  (∀ (s : State) (link : Nat) (body : List Byte) (reference : ReferenceState), link < 16 → body.length ≤ 508 →
    Operands.stateReport link body = some reference →
    let v := s.zoneLinks.zone link
    let set : State := { s with zoneLinks := s.zoneLinks.setZone link { v with reference } }
    let state := (s.monitor.zone link).state
    (state ≠ .unconfigured → reference = .locked → exec (.stateReport link body) s = .next set) ∧
    (state ≠ .unconfigured → reference = .unlocked →
      exec (.stateReport link body) s = .next (set.occurrence link .refUnlock)) ∧
    (state = .unconfigured → exec (.stateReport link body) s =
      .next { s with
        zoneLinks := s.zoneLinks.setZone link { v with counts := { v.counts with unconfigured := v.counts.unconfigured + 1 } } })) ∧
  (∀ (s : State) (z : Nat), z < 16 →
    let v := s.monitor.zone z
    (v.untakenDue = true → exec (.untaken z) s =
      .next (({ s with monitor := s.monitor.setZone z { v with untakenRun := 0, untakenDue := false } } : State).occurrence z
        .untaken)) ∧
    (v.untakenDue = false → exec (.untaken z) s = .next s) ∧
    (v.silentDue = true → exec (.revSilent z) s =
      .next (({ s with monitor := s.monitor.setZone z { v with silence := 0, silentDue := false } } : State).occurrence z
        .revSilent)) ∧
    (v.silentDue = false → exec (.revSilent z) s = .next s)) ∧
  (∀ (s : State) (coming : Option Word32) (relength : Bool),
    let before := (s.judgeOffers s.timer.frameCount).monitor
    let after := (s.announce coming relength).monitor
    after.settings = s.monitor.settings ∧ after.summary = s.monitor.summary ∧ after.first = s.monitor.first ∧
    before.settings = s.monitor.settings ∧
    (∀ z, z < 16 →
      let v := before.zone z
      after.zone z =
        if v.state = .unconfigured then v
        else if v.arrival = true then { v with arrival := false }
        else { v with
          silence := v.silence + 1, silentDue := v.silentDue || decide (s.monitor.settings.silenceLimit ≤ v.silence + 1) }))

/-- A valid window report of a configured zone clears the zone's silence count, sets its arrival mark, records its window frame count
and is counted; then its items are taken. Outside CONFIG the items whose address maps to a subscriber join the tail of the reverse item
queue in report order, as many as there are free places of the 64, and are counted as taken; the rest of them are counted as dropped, and
the others as foreign. In CONFIG none joins it, and each is counted as discarded. A report of an UNCONFIGURED zone is only counted (R84,
R91 to R93). The count of items stands at offset 1 of the body, the window frame count at 2 to 5 and each item, of 6 bytes, from 8 on: its
kind, ACK 1 or REGISTER 2, its unit address, and an ACK's tag and code (12.6). A REV_SILENT that is due for the zone is recorded first,
which is the model's order (log 13). -/
def Obligations.WindowReportTaken : Prop :=
  (∀ (link : Nat) (body : List Byte),
    let at_ : Nat → Nat → Nat := Bytes.field body
    let item : Nat → Operands.WindowItem := fun k =>
      if at_ k 1 = 1 then { kind := .ack, address := at_ (k + 1) 3, tag := BitVec.ofNat 4 (at_ (k + 4) 1), code := at_ (k + 5) 1 }
      else { kind := .register, address := at_ (k + 1) 3, tag := 0, code := 0 };
    at_ 0 1 = link → at_ 1 1 ≤ 32 → body.length = 8 + 6 * at_ 1 1 →
    (∀ i, i < at_ 1 1 → at_ (8 + 6 * i) 1 = 2 ∨
      (at_ (8 + 6 * i) 1 = 1 ∧ at_ (8 + 6 * i + 4) 1 < 16 ∧ at_ (8 + 6 * i + 5) 1 < 16)) →
    Operands.window link body =
      some (BitVec.ofNat 32 (at_ 2 4), (List.range (at_ 1 1)).map (fun i => item (8 + 6 * i)))) ∧
  ∀ (s : State) (link : Nat) (body : List Byte) (count : Word32) (items : List Operands.WindowItem), link < 16 →
    body.length ≤ 508 → Operands.window link body = some (count, items) →
    let v := s.zoneLinks.zone link
    let n := v.counts
    let mapped : List ReverseItem := items.filterMap (fun i =>
      match s.cache.addressBase with
      | none => none
      | some base =>
        if base ≤ i.address ∧ i.address < base + 262144 then
          some { kind := i.kind, sub := i.address - base, tag := i.tag, code := i.code, zone := link }
        else none)
    let joining := mapped.take (64 - s.zoneLinks.reverseQueue.length)
    let reported : ZoneLinkCounts := { n with validReports := n.validReports + 1 };
    ((s.monitor.zone link).state = .unconfigured → exec (.window link body) s =
      .next { s with
        zoneLinks := s.zoneLinks.setZone link { v with counts := { n with unconfigured := n.unconfigured + 1 } } }) ∧
    ((s.monitor.zone link).state ≠ .unconfigured → (s.monitor.zone link).silentDue = true → ∃ u : State,
      exec (.revSilent link) s = .next u ∧ (u.monitor.zone link).silentDue = false ∧
        (u.monitor.zone link).state ≠ .unconfigured ∧ exec (.window link body) s = exec (.window link body) u) ∧
    ((s.monitor.zone link).state ≠ .unconfigured → (s.monitor.zone link).silentDue = false → ∃ links : ZoneLinks,
      exec (.window link body) s = .next { s with
        zoneLinks := links
        monitor := s.monitor.setZone link { s.monitor.zone link with silence := 0, arrival := true } } ∧
      (∀ z, z ≠ link → links.zone z = s.zoneLinks.zone z) ∧
      links.sent = s.zoneLinks.sent ∧ links.unattributed = s.zoneLinks.unattributed ∧ links.lineRate = s.zoneLinks.lineRate ∧
      (s.link.partState ≠ .config →
        links.reverseQueue = s.zoneLinks.reverseQueue ++ joining ∧
        links.zone link = { v with
          lastWindow := some count
          counts := { reported with
            itemsTaken := n.itemsTaken + BitVec.ofNat 32 joining.length
            dropped := n.dropped + BitVec.ofNat 32 (mapped.length - joining.length)
            foreign := n.foreign + BitVec.ofNat 32 (items.length - mapped.length) } }) ∧
      (s.link.partState = .config →
        links.reverseQueue = s.zoneLinks.reverseQueue ∧
        links.zone link = { v with
          lastWindow := some count
          counts := { reported with configDiscard := n.configDiscard + BitVec.ofNat 32 items.length } }))

/-- A bad frame of a zone link, or one cut off by a gap, is counted and charged by its KIND byte: TAKEN, REJECT and STATE to the
forward direction, WINDOW to the reverse, and any other or none to the links as a whole. The first two are occurrences of
FWD_FRAME_ERROR and REV_FRAME_ERROR for the zone. A frame is bad with a LENGTH above 508, a wrong CHECK, a KIND other than the four, or a
body that does not fit its KIND: its length, its zone field, the reason of a REJECT, the reference state of a STATE, and the item count
and each item's kind, and an ACK's tag and code, of a WINDOW. A frame that fits is no bad frame (R83, R84, R91; logs 18, 19 and 55 name
the model's choices). -/
def Obligations.BadFramesCharged : Prop :=
  ∀ (s : State) (link : Nat), link < 16 →
    let v := s.zoneLinks.zone link
    let forward : State := { s with
      zoneLinks := s.zoneLinks.setZone link { v with counts := { v.counts with badForward := v.counts.badForward + 1 } } }
    let reverse : State := { s with
      zoneLinks := s.zoneLinks.setZone link { v with counts := { v.counts with badReverse := v.counts.badReverse + 1 } } }
    let neither : State := { s with zoneLinks := { s.zoneLinks with unattributed := s.zoneLinks.unattributed + 1 } }
    let charged : Option Byte → Host.Outcome State Fault Refusal := fun kind =>
      if kind = some 0x43 ∨ kind = some 0x44 ∨ kind = some 0x45 then .next (forward.occurrence link .fwdFrameError)
      else if kind = some 0x46 then .next (reverse.occurrence link .revFrameError)
      else .next neither
    let at_ : List Byte → Nat → Nat := fun body i => (body.getD i 0).toNat
    let fits : Byte → List Byte → Prop := fun kind body =>
      at_ body 0 = link ∧
        ((kind = 0x43 ∧ body.length = 8) ∨
          (kind = 0x44 ∧ body.length = 8 ∧ at_ body 1 = 1) ∨
          (kind = 0x45 ∧ body.length = 4 ∧ (at_ body 1 = 1 ∨ at_ body 1 = 2)) ∨
          (kind = 0x46 ∧ body.length = 8 + 6 * at_ body 1 ∧ at_ body 1 ≤ 32 ∧ ∀ i, i < at_ body 1 →
            at_ body (8 + 6 * i) = 2 ∨
              (at_ body (8 + 6 * i) = 1 ∧ at_ body (8 + 6 * i + 4) < 16 ∧ at_ body (8 + 6 * i + 5) < 16)));
    (∀ kind : Option Byte, exec (.zoneGapTimeout link kind) s = charged kind) ∧
    (∀ f : ZoneFrameIn, 508 < f.length.toNat → exec (.zoneBadFrame link f) s = .next neither) ∧
    (∀ f : ZoneFrameIn, f.length.toNat ≤ 508 → f.body.length = f.length.toNat →
      (f.check ≠ frameCheck f.kind f.tag f.body → exec (.zoneBadFrame link f) s = charged (some f.kind)) ∧
      (f.check = frameCheck f.kind f.tag f.body → ¬fits f.kind f.body → exec (.zoneBadFrame link f) s = charged (some f.kind)) ∧
      (f.check = frameCheck f.kind f.tag f.body → fits f.kind f.body → exec (.zoneBadFrame link f) s = .next s)) ∧
    (∀ body : List Byte, body.length ≤ 508 →
      (¬fits 0x43 body → exec (.taken link body) s = charged (some 0x43)) ∧
      (¬fits 0x44 body → exec (.reject link body) s = charged (some 0x44)) ∧
      (¬fits 0x45 body → exec (.stateReport link body) s = charged (some 0x45)) ∧
      (¬fits 0x46 body → exec (.window link body) s = charged (some 0x46)))

/-- An occurrence for a configured zone raises the count of its condition; with the detect switch ON it puts the condition in the fault
set and the zone in the summary, takes a zone IN_SERVICE out of service where the severity is SERVICE_LOSS, and loads an empty
first-fault record; with the switch OFF it does no more. No other zone changes, and nothing outside the Zone Monitor but the notice it
may offer. For an UNCONFIGURED zone it changes nothing (R147, R154). -/
def Obligations.OccurrenceRecorded : Prop :=
  ∀ (s : State) (z : Nat) (c : Condition), z < 16 →
    let v := s.monitor.zone z
    let setting := s.monitor.settings.conditions.get c
    let t := s.occurrence z c
    let counted := { v with occurrences := v.occurrences.set c (v.occurrences.get c + 1) }
    (v.state = .unconfigured → t = s) ∧
    (v.state ≠ .unconfigured → setting.detect = false → t = { s with monitor := s.monitor.setZone z counted }) ∧
    (v.state ≠ .unconfigured → setting.detect = true →
      t = { s with monitor := t.monitor, link := t.link } ∧
      t.monitor.zone z = { counted with
        faults := v.faults ||| c.bit
        state := if setting.severity = .serviceLoss ∧ v.state = .inService then .outOfService else v.state } ∧
      (∀ w, w ≠ z → t.monitor.zone w = s.monitor.zone w) ∧ t.monitor.settings = s.monitor.settings ∧
      (∀ w, w < 16 → ZoneSet.has t.monitor.summary w = if w = z then true else ZoneSet.has s.monitor.summary w) ∧
      t.monitor.first = (match s.monitor.first with
        | none => some { zone := z, condition := c, frameCount := s.timer.frameCount }
        | some f => some f) ∧
      t.link = (if FaultSet.has v.faults c = false ∧ setting.notice = true then
        s.link.offerNotice (.fault z c s.timer.frameCount (t.monitor.zone z).state s.monitor.first.isNone) else s.link))

/-- At a frame start an offer whose launch frame count it reaches is judged: its state returns to IDLE with no launch frame count and page
count 0, and it counts as taken, rejected or unanswered. For a configured zone a TAKEN offer sets the untaken run to 0, and any other raises
it and makes an UNTAKEN occurrence due where it reaches T; nothing else changes (R88, R95, R151). The offered frame is then launched, entry
by entry in placement order, by the zones that answered TAKEN: with none of them in its placed set an entry is a void attempt, counted, and
settles CANCELLED on a pending cancel or is filed back; otherwise its attempts rise by one, it is counted, and the Retry Unit is handed it,
which puts a TWO_WAY entry at the tail of the await set at once, with deadline launch + d + 2 (R76 to R78, R97, R98). Then the frame in
hand, or an empty one, is closed: each zone in service is sent the pages placed for it, in placement order, a downgraded one as TONE with no
symbols, and every placed entry is OFFERED (R75, R86). Then at a cycle turn every queued entry whose expiry cycle is below the coming cycle
number leaves its queue and settles EXPIRED_LIFETIME, and where the length changes the rest are filed anew, each in the queue of its home
frame, in key order; then the next frame is opened, and last the other units act (R65, R66). That order is the model's choice where the
rules leave one (logs 8 and 50), and its readings are that the taken and rejected counts rise here (log 17), that an occurrence due is
recorded by a step of its own (log 13), and that the reply mode is the one of the placement (log 45). -/
def Obligations.OfferJudgedAtLaunch : Prop :=
  (∀ (s : State) (g : Word32) (z : Nat),
    let l := s.zoneLinks.zone z
    let v := s.monitor.zone z
    let c := l.counts
    let due : Prop := l.offer ≠ .idle ∧ l.launch = some g
    let judged : ZoneLink := { l with
      offer := .idle, launch := none, pages := 0
      counts := { c with
        taken := if l.offer = .taken then c.taken + 1 else c.taken
        rejected := if l.offer = .rejected then c.rejected + 1 else c.rejected
        noAnswer := if l.offer = .sent then c.noAnswer + 1 else c.noAnswer } }
    let links := s.zoneLinks.setZone z judged
    let run : Zone :=
      if l.offer = .taken then { v with untakenRun := 0 }
      else { v with
        untakenRun := v.untakenRun + 1
        untakenDue := v.untakenDue || decide (s.monitor.settings.untakenLimit ≤ v.untakenRun + 1) };
    (¬due → s.judgeOffer g z = s) ∧
    (due → v.state = .unconfigured → s.judgeOffer g z = { s with zoneLinks := links }) ∧
    (due → v.state ≠ .unconfigured → s.judgeOffer g z = { s with zoneLinks := links, monitor := s.monitor.setZone z run })) ∧
  (∀ (s : State) (launch : Word32) (took : ZoneSet),
    (∀ z, z < 16 → (ZoneSet.has (s.zoneLinks.takenSet launch) z = true ↔
      (s.zoneLinks.zone z).offer = .taken ∧ (s.zoneLinks.zone z).launch = some launch)) ∧
    (s.assembler.offered = none → s.launchOffered launch took = s) ∧
    (∀ o, s.assembler.offered = some o →
      let dealt := o.frame.placed.foldl (fun u p => u.launchEntry launch took p) s
      s.launchOffered launch took = { dealt with assembler := { dealt.assembler with offered := none } }) ∧
    (∀ (p : Placed) (e : Entry), s.store.entry p.entry = some e →
      let mine := p.zones &&& took
      let n := s.assembler.counts
      let changed : State → Entry → AssemblyCounts → Prop := fun u d counts =>
        u = { s with store := { s.store with entries := u.store.entries }, assembler := { s.assembler with counts } } ∧
          u.store.entry p.entry = some d ∧ ∀ m, m ≠ p.entry → u.store.entry m = s.store.entry m;
      (mine = 0 → ∃ u, changed u { e with takenSet := 0 } { n with voidAttempts := n.voidAttempts + 1 } ∧
        s.launchEntry launch took p = if e.cancelRequested then u.settle p.entry .cancelled 0 else u.file p.entry) ∧
      (mine ≠ 0 → ∃ u, changed u { e with takenSet := mine, attempts := e.attempts + 1 }
          { n with placements := n.placements + 1 } ∧ s.launchEntry launch took p = u.takeLaunched p launch)) ∧
    (∀ (p : Placed) (e : Entry), s.store.entry p.entry = some e →
      (p.mode = .twoWay → s.takeLaunched p launch = { s with
        store := s.store.setEntry p.entry (some { e with state := .awaiting })
        retry := { s.retry with awaitSet := s.retry.awaitSet ++
          [{ entry := p.entry, sub := p.sub, tag := p.tag, launch
             deadline := launch + BitVec.ofNat 32 s.timer.running.ackDelay + 2 }] } }) ∧
      (p.mode = .oneWay → s.takeLaunched p launch = s.resolveOneWay p.entry launch s.timer.cycle))) ∧
  (∀ (s : State) (f : Frame),
    let t := s.closeFrame f
    let served : List Nat := (List.range 16).filter (fun z => decide ((s.monitor.zone z).state = .inService))
    let pages : Nat → List Page := fun z => (f.placed.filter (fun p => ZoneSet.has p.zones z)).map s.pageOf
    t = { s with
      store := { s.store with entries := t.store.entries }
      zoneLinks := { s.zoneLinks with
        zones := t.zoneLinks.zones
        sent := s.zoneLinks.sent ++ served.map (fun z => (z, ZoneFrameOut.offer f.launch f.number (pages z))) }
      assembler := { s.assembler with openFrame := none, offered := some { frame := f, handed := s.monitor.inService } } } ∧
    (∀ z, ZoneSet.has s.monitor.inService z = true ↔ z ∈ served) ∧
    (∀ n, t.store.entry n = if n ∈ f.placed.map Placed.entry then (s.store.entry n).map (fun e => { e with state := .offered })
      else s.store.entry n) ∧
    (∀ z, z ∉ served → t.zoneLinks.zone z = s.zoneLinks.zone z) ∧
    (∀ z, z ∈ served →
      let v := s.zoneLinks.zone z
      t.zoneLinks.zone z = { v with
        offer := .sent, launch := some f.launch, pages := (pages z).length
        counts := { v.counts with offersSent := v.counts.offersSent + 1 } }) ∧
    (∀ p e b, s.store.entry p.entry = some e → s.store.body e.body = some b → s.pageOf p =
      { address := s.cache.addressBase.getD 0 + p.sub, tag := p.tag
        encoding := if e.downgraded then .tone else b.encoding, content := if e.downgraded then [] else b.content })) ∧
  (∀ (s : State) (relength : Bool),
    let g := s.timer.frameCount
    let judged := (List.range 16).foldl (fun u z => u.judgeOffer g z) s
    let counted : State := { judged with monitor := judged.monitor.countAllSilence }
    let launched := counted.launchOffered g (s.zoneLinks.takenSet g)
    let closed : Frame → State := fun f => launched.closeFrame f;
    (∀ f, launched.assembler.openFrame = some f ∨ (launched.assembler.openFrame = none ∧ f =
        { launch := g + 1, number := s.timer.frameNumber + 1, cycle := s.timer.cycle, placed := [], blocks := [], tally := [] }) →
      s.announce none relength = ((closed f).openAndWalk).announceFrame g s.timer.cycle ∧
      ∀ k, s.announce (some k) relength =
        ((((if relength then ((closed f).expireQueued k).refile else (closed f).expireQueued k).openAndWalk).expireHeld
          k).announceTurn k).announceFrame g s.timer.cycle)) ∧
  (∀ (s : State) (k : Word32),
    let queued : List Nat := (List.range 128).flatMap (fun j => Table.get [] s.assembler.queues j)
    let expires : Nat → Bool := fun n => match s.store.entry n with
      | none => false
      | some e => decide (e.expiryCycle < k)
    let home : Nat → Option Nat := fun n =>
      (s.store.entry n).map (fun e => (s.cache.addressBase.getD 0 + e.sub) % s.timer.lengthInForce)
    let filed := s.refile;
    s.expireQueued k = (queued.filter expires).foldl (fun u n =>
      (((u.leaveMissSkip n).leaveQueue n).settle n .expiredLifetime 0).countAssembly
        (fun c => { c with lifetimeExpiries := c.lifetimeExpiries + 1 })) s ∧
    filed = { s with assembler := { s.assembler with queues := filed.assembler.queues } } ∧
    (∀ j, (Table.get [] filed.assembler.queues j).Perm (queued.filter (fun n => decide (home n = some j))) ∧
      (Table.get [] filed.assembler.queues j).Pairwise (fun m n => ∀ d e, s.store.entry m = some d → s.store.entry n = some e →
        d.level < e.level ∨ (d.level = e.level ∧ d.admission ≤ e.admission))))

/-! ### Acknowledgements, deadlines and retries -/

/-- An ACK at the head of the reverse item queue, with no request of the Retry Unit held and no event that arrived before it still to be
acted on, leaves the queue, and posts its reverse-item update. Then it delivers, with its reply code, the first await-set entry of its
subscriber and tag; failing that, the retry-list entry of its subscriber and tag that has the latest miss frame count, the later in list
order of equals; failing both it is counted as a stray and no entry changes. The entry leaves its set or list and joins the tail of the
settle list. A REGISTER so taken posts its update and is counted. Then each entry its subscriber has in the retry list, in list order,
leaves the list, is filed and is counted (R94, R99 to R103). While a request of the Retry Unit is held, or an event that arrived before the
item waits, the item waits too; an event that waits for items waits for one fewer (R104, log 15). That the match or release is made at once,
even where a full queue holds the item's own update, is the model's choice (R30, log 56). -/
def Obligations.ReverseItemsTaken : Prop :=
  (∀ (s : State) (i : ReverseItem) (rest : List ReverseItem), s.zoneLinks.reverseQueue = i :: rest →
    s.retryBlocked = true ∨ (∃ a ∈ s.retry.announced, a.behind = some 0) →
    (i.kind = .ack → exec .ack s = .next s) ∧ (i.kind = .register → exec .register s = .next s)) ∧
  (∀ (s : State) (i : ReverseItem) (rest : List ReverseItem), s.zoneLinks.reverseQueue = i :: rest → i.kind = .ack →
    s.retryBlocked = false → (∀ a ∈ s.retry.announced, a.behind ≠ some 0) →
    let told : List Announced := s.retry.announced.map (fun a => { a with behind := a.behind.map (fun k => k - 1) })
    let posted := ({ s with
      zoneLinks := { s.zoneLinks with reverseQueue := rest }, retry := { s.retry with announced := told } } : State).post i.sub
        (.update (.reverseItem i.zone))
    let n := s.retry.counts
    let awaited : AwaitElement → Prop := fun a => a.sub = i.sub ∧ a.tag = i.tag
    let late : RetryElement → Prop := fun x => x.sub = i.sub ∧ x.tag = some i.tag;
    (∀ before a after, s.retry.awaitSet = before ++ a :: after → awaited a → (∀ b ∈ before, ¬awaited b) →
      exec .ack s = .next ((({ posted with retry := { s.retry with
        announced := told
        awaitSet := s.retry.awaitSet.filter (fun b => decide (b.entry ≠ a.entry))
        counts := { n with awaitMatches := n.awaitMatches + 1 } } } : State).settle a.entry .delivered i.code).settleDown)) ∧
    (∀ before x after, (∀ a ∈ s.retry.awaitSet, ¬awaited a) → s.retry.list = before ++ x :: after → late x →
      (∀ y ∈ before, late y → y.missFrame.getD 0 ≤ x.missFrame.getD 0) →
      (∀ y ∈ after, late y → y.missFrame.getD 0 < x.missFrame.getD 0) →
      exec .ack s = .next ((({ posted with retry := { s.retry with
        announced := told
        list := s.retry.list.filter (fun y => decide (y.entry ≠ x.entry))
        counts := { n with lateMatches := n.lateMatches + 1 } } } : State).settle x.entry .delivered i.code).settleDown)) ∧
    ((∀ a ∈ s.retry.awaitSet, ¬awaited a) → (∀ x ∈ s.retry.list, ¬late x) →
      exec .ack s = .next (({ posted with retry := { s.retry with
        announced := told, counts := { n with strays := n.strays + 1 } } } : State).settleDown))) ∧
  (∀ (s : State) (i : ReverseItem) (rest : List ReverseItem), s.zoneLinks.reverseQueue = i :: rest → i.kind = .register →
    s.retryBlocked = false → (∀ a ∈ s.retry.announced, a.behind ≠ some 0) →
    let told : List Announced := s.retry.announced.map (fun a => { a with behind := a.behind.map (fun k => k - 1) })
    let posted := ({ s with
      zoneLinks := { s.zoneLinks with reverseQueue := rest }, retry := { s.retry with announced := told } } : State).post i.sub
        (.update (.reverseItem i.zone))
    let counted : State := { posted with retry := { s.retry with
      counts := { s.retry.counts with registrations := s.retry.counts.registrations + 1 } } }
    let release : State → RetryElement → State := fun u x =>
      (({ u with retry := { u.retry with list := u.retry.list.filter (fun y => decide (y.entry ≠ x.entry)) } } : State).file
        x.entry).countRetry (fun c => { c with registerReleases := c.registerReleases + 1 });
    exec .register s =
      .next (((s.retry.list.filter (fun x => decide (x.sub = i.sub))).foldl release counted).settleDown))

/-- An entry is settled: it enters SETTLING with its outcome and reply code, and joins the tail of the settle list with the cycle
number the Air Timer holds; no other entry changes and nothing else does (R3, R124). -/
def Obligations.SettlingJoinsTail : Prop :=
  ∀ (s : State) (n : Nat) (outcome : EntryOutcome) (code : Nat),
    let t := s.settle n outcome code
    t = { s with store := { s.store with entries := t.store.entries }, charging := { s.charging with
      settleList := s.charging.settleList ++ [{ entry := n, outcomeCycle := s.timer.cycle }] } } ∧
    (∀ e, s.store.entry n = some e →
      t.store.entry n = some { e with state := .settling, outcome := some outcome, replyCode := some code }) ∧
    (∀ m, m ≠ n → t.store.entry m = s.store.entry m)

/-- DEADLINE_MISS acts on the oldest event the Retry Unit has still to act on, unless a request of the unit is held or items that arrived
before the event are still to be taken. At a frame start the entries whose deadline is its frame count miss, in await-set order, each only
while no request of the unit is held, until none is left or a request is held; with none left the frame start is done and what stands after
it follows, and otherwise no item may pass it any more. A cycle turn is acted on, a reach read is posted, and what stands after them follows.
An event that reaches the unit while it waits is taken afterwards, behind the items that have arrived (R104, R30; that DEADLINE_MISS is a
step of its own, and where the unit stops, are the model's, logs 14 and 15). A missed entry is counted and its
deadline-miss update posted, once, with U as in force then (log 48). While a full queue holds that update the entry waits in the await set,
marked; otherwise it leaves the set and is resolved by the first that holds: cancel-requested, it settles
CANCELLED; attempts at max attempts, EXPIRED_RETRIES; otherwise it joins the retry list with retry-at c + 1 + b, b the backoff after its
attempts in the policy row of its original level, its reach mark set, and its reach read is posted (R104, R105). A launched ONE_WAY entry is
resolved at once by the first that holds: attempts at its repeats or its max attempts, it settles UNCONFIRMED; cancel-requested, CANCELLED;
otherwise it joins the retry list in the same way, with its launch as its miss frame count and no deadline-miss update, and its reach read
is posted, in its turn where the work of the unit waits (R110, log 15). -/
def Obligations.DeadlinesPassedAndMisses : Prop :=
  (∀ s : State,
    s.takeAnnounced = s.drainAnnounced s.retry.announced.length ∧ (s.retry.announced = [] → ∀ fuel, s.drainAnnounced fuel = s) ∧
    exec .deadlineMiss s = .next (if s.retry.announced = [] then s else s.takeAnnounced.settleDown)) ∧
  (∀ (s : State) (a : Announced) (rest : List Announced) (fuel : Nat), s.retry.announced = a :: rest →
    (s.retryBlocked = true ∨ (∃ k, a.behind = some (k + 1)) → s.drainAnnounced fuel = s) ∧
    (s.retryBlocked = false → a.behind = none ∨ a.behind = some 0 →
      (∀ g cycle, a.event = .frameStart g cycle →
        ∃ (missed : List AwaitElement) (u : State),
          u = missed.foldl (fun v x => v.missDeadline g cycle x) s ∧
          missed.Sublist (s.retry.awaitSet.filter (fun x => decide (x.deadline = g))) ∧
          missed.head? = (s.retry.awaitSet.filter (fun x => decide (x.deadline = g))).head? ∧
          (∀ early x late, missed = early ++ x :: late →
            let v := early.foldl (fun v y => v.missDeadline g cycle y) s
            v.retryBlocked = false ∧ x.deadline = g ∧
              ∃ before after, v.retry.awaitSet = before ++ x :: after ∧ ∀ y ∈ before, y.deadline ≠ g) ∧
          ((∃ x ∈ u.retry.awaitSet, x.deadline = g) → u.retryBlocked = true ∧ s.drainAnnounced (fuel + 1) =
            { u with retry := { u.retry with announced := { a with behind := some 0 } :: rest } }) ∧
          ((∀ x ∈ u.retry.awaitSet, x.deadline ≠ g) → s.drainAnnounced (fuel + 1) =
            ({ u with retry := { u.retry with announced := rest } } : State).drainAnnounced fuel)) ∧
      (∀ coming, a.event = .cycleTurn coming → s.drainAnnounced (fuel + 1) =
        (({ s with retry := { s.retry with announced := rest } } : State).turnRetries coming).drainAnnounced fuel) ∧
      (∀ n sub admission attempts, a.event = .reachRead n sub admission attempts → s.drainAnnounced (fuel + 1) =
        (({ s with retry := { s.retry with announced := rest } } : State).post sub
          (.reachRead n admission attempts)).drainAnnounced fuel))) ∧
  (∀ (s : State) (g cycle coming : Word32),
    let held : RetryEvent → State := fun event => { s with retry := { s.retry with
      announced := s.retry.announced ++ [{ event, behind := some s.zoneLinks.reverseQueue.length }] } };
    (s.retryBlocked = true ∨ s.retry.announced ≠ [] →
      s.announceFrame g cycle = held (.frameStart g cycle) ∧ s.announceTurn coming = held (.cycleTurn coming)) ∧
    (s.retryBlocked = false → s.retry.announced = [] →
      s.announceFrame g cycle =
          { s with retry := { s.retry with announced := [{ event := .frameStart g cycle, behind := none }] } } ∧
        s.announceTurn coming = s.turnRetries coming)) ∧
  (∀ (s : State) (g cycle : Word32) (a : AwaitElement) (e : Entry), s.store.entry a.entry = some e →
    let marked : Retry := { s.retry with
      awaitSet := s.retry.awaitSet.map (fun b => if b.entry = a.entry then { b with missed := true } else b)
      counts := { s.retry.counts with misses := s.retry.counts.misses + 1 } }
    let posted : State := if a.missed = true then s
      else ({ s with retry := marked } : State).post a.sub (.update (.deadlineMiss s.retry.missLimit))
    let n := posted.retry.counts
    let after : RetryCounts → State := fun counts => { posted with retry := { posted.retry with
      awaitSet := posted.retry.awaitSet.filter (fun b => decide (b.entry ≠ a.entry)), counts } }
    let resolved : Prop := posted.retryBlocked = false
    let row := s.retry.policy.getD e.originalLevel { maxAttempts := 1, backoff := [], lifetime := 1, repeats := 1 }
    let x : RetryElement :=
      { entry := a.entry, sub := e.sub, tag := e.airTag, missFrame := some g, reachPending := true,
        retryAt := cycle + 1 + BitVec.ofNat 32 (row.backoff.getD (e.attempts - 1) 0) };
    (posted.retryBlocked = true → s.missDeadline g cycle a = posted) ∧
    (resolved → e.cancelRequested = true → s.missDeadline g cycle a = (after n).settle a.entry .cancelled 0) ∧
    (resolved → e.cancelRequested = false → e.maxAttempts ≤ e.attempts → s.missDeadline g cycle a =
      (after { n with expiredRetries := n.expiredRetries + 1 }).settle a.entry .expiredRetries 0) ∧
    (resolved → e.cancelRequested = false → e.attempts < e.maxAttempts → s.missDeadline g cycle a =
      (((after n).joinRetryList x).post e.sub (.reachRead a.entry e.admission e.attempts)).countRetry
        (fun c => { c with retries := c.retries + 1 }))) ∧
  (∀ (s : State) (n : Nat) (launch cycle : Word32) (e : Entry), s.store.entry n = some e →
    let ends : Prop := e.repeats ≤ e.attempts ∨ e.maxAttempts ≤ e.attempts
    let row := s.retry.policy.getD e.originalLevel { maxAttempts := 1, backoff := [], lifetime := 1, repeats := 1 }
    let x : RetryElement :=
      { entry := n, sub := e.sub, tag := e.airTag, missFrame := some launch, reachPending := true,
        retryAt := cycle + 1 + BitVec.ofNat 32 (row.backoff.getD (e.attempts - 1) 0) }
    let joined := s.joinRetryList x
    let waits : Prop := s.retryBlocked = true ∨ s.retry.announced ≠ [];
    (ends → s.resolveOneWay n launch cycle =
      (s.settle n .unconfirmed 0).countRetry (fun c => { c with unconfirmed := c.unconfirmed + 1 })) ∧
    (¬ends → e.cancelRequested = true → s.resolveOneWay n launch cycle = s.settle n .cancelled 0) ∧
    (¬ends → e.cancelRequested = false → ¬waits → s.resolveOneWay n launch cycle =
      (joined.post e.sub (.reachRead n e.admission e.attempts)).countRetry (fun c => { c with repeats := c.repeats + 1 })) ∧
    (¬ends → e.cancelRequested = false → waits → s.resolveOneWay n launch cycle =
      let later : Announced :=
        { event := .reachRead n e.sub e.admission e.attempts, behind := some s.zoneLinks.reverseQueue.length }
      { joined with retry := { joined.retry with
        announced := s.retry.announced ++ [later]
        counts := { s.retry.counts with repeats := s.retry.counts.repeats + 1 } } }))

/-- The answer of a reach read, no request of the Retry Unit being held, whose entry is still in the retry list with its reach mark set,
under the same admission and attempts. A record fault settles it FAULTED. Otherwise its retry-at is the greater of the provisional one and
the next probe cycle of an UNREACHABLE record: above its expiry cycle it settles EXPIRED_LIFETIME; not above the release horizon it leaves
the list and is filed; else its reach mark is cleared and it takes the place its retry-at gives. An answer for any other entry is ignored
(R106, R107; how an answer finds its entry, that one filed at once is not counted as released, that an ignored one of RECORD_FAULT is not
counted as a reach fault, and that an answer waits while a request is held, are the model's, logs 30, 47, 57 and 15). At a cycle turn every
entry of the retry list whose expiry cycle is below the coming cycle number leaves it, in list order, settles EXPIRED_LIFETIME and is
counted; then every remaining entry whose retry-at is not above that number and whose reach mark is clear leaves it, in list order, is filed
and is counted as released; and the release horizon takes that number (R109). -/
def Obligations.ReachAnswerDecides : Prop :=
  (∀ (s : State) (a : ReachAnswer) (rest : List ReachAnswer), s.retry.answers = a :: rest → s.retryBlocked = true →
    exec .reachReadAnswer s = .next s) ∧
  (∀ (s : State) (a : ReachAnswer) (rest : List ReachAnswer), s.retry.answers = a :: rest → s.retryBlocked = false →
    let taken : State := { s with retry := { s.retry with answers := rest } }
    (∀ before x after e, s.retry.list = before ++ x :: after → x.entry = a.entry → x.reachPending = true →
      (∀ y ∈ before, ¬(y.entry = a.entry ∧ y.reachPending = true)) → s.store.entry a.entry = some e → e.admission = a.admission →
      e.attempts = a.attempts →
      let left : State := { s with retry := { s.retry with
        answers := rest, list := s.retry.list.filter (fun y => decide (y.entry ≠ a.entry)) } }
      let retryAt := if a.unreachable = true ∧ x.retryAt < a.nextProbe then a.nextProbe else x.retryAt;
      (a.fault = true → exec .reachReadAnswer s = .next (((left.settle a.entry .faulted 0).countRetry
        (fun c => { c with reachFaults := c.reachFaults + 1 })).settleDown)) ∧
      (a.fault = false → e.expiryCycle < retryAt → exec .reachReadAnswer s =
        .next (((left.settle a.entry .expiredLifetime 0).countRetry
          (fun c => { c with expiredLifetime := c.expiredLifetime + 1 })).settleDown)) ∧
      (a.fault = false → retryAt ≤ e.expiryCycle → retryAt ≤ s.retry.horizon →
        exec .reachReadAnswer s = .next ((left.file a.entry).settleDown)) ∧
      (a.fault = false → retryAt ≤ e.expiryCycle → s.retry.horizon < retryAt →
        exec .reachReadAnswer s = .next ((left.joinRetryList { x with retryAt, reachPending := false }).settleDown))) ∧
    ((∀ x ∈ s.retry.list, x.entry = a.entry → x.reachPending = true → ∀ e, s.store.entry a.entry = some e →
        e.admission ≠ a.admission ∨ e.attempts ≠ a.attempts) →
      exec .reachReadAnswer s = .next taken.settleDown)) ∧
  (∀ (s : State) (coming : Word32),
    let expires : RetryElement → Bool := fun x => match s.store.entry x.entry with
      | none => false
      | some e => decide (e.expiryCycle < coming)
    let leave : State → RetryElement → State := fun u x =>
      { u with retry := { u.retry with list := u.retry.list.filter (fun y => decide (y.entry ≠ x.entry)) } }
    let expired := (s.retry.list.filter expires).foldl (fun u x =>
      ((leave u x).settle x.entry .expiredLifetime 0).countRetry (fun c => { c with expiredLifetime := c.expiredLifetime + 1 })) s
    let released := (s.retry.list.filter (fun x => !expires x && !x.reachPending && decide (x.retryAt ≤ coming))).foldl (fun u x =>
      ((leave u x).file x.entry).countRetry (fun c => { c with releases := c.releases + 1 })) expired
    s.turnRetries coming = { released with retry := { released.retry with horizon := coming } })

/-! ### Charging -/

/-- The orders on one record, in CONFIG and RUNNING (READ_SUB in every part state), their fields in range where 12.2 puts them. TOP_UP and
ADJUST become the Charging Unit's order in progress and post their holding read (R133, R134); READ_SUB, WRITE_SUB and REPAIR_SUB are posted
in their subscriber's order, a READ_SUB that finds a fill of it in flight joining the fill's waiters (R30, R42 to R44). Out of range each is
refused BAD_VALUE. Any request posted finds the requests held before it admitted first, oldest first, each while fewer than 128 places are
taken. An update or a reach read is served on arrival with no request of its subscriber before it, no hold, no sweep before it and a line
that holds the subscriber. Any other request, unless it is a placement update, is held at its requester where 128 places or more are taken
and it would take one; otherwise it joins the tail of the queue and the waiting misses are tried if it wants one (R30, R33, R35, R106). A
non-waiting read is served on the same terms; otherwise it is answered NOT_READY and leaves a dropped touch, counted, with 128 places or
more taken; nothing new where a touch of its subscriber is queued; and else a touch at the tail (R30, R32). A request takes a place unless
it would be served in its turn at once, as would be every one of its subscriber before it; which requests those are is the model's choice
(log 10), and so is what stands before a request at its requester (logs 37 and 54). -/
def Obligations.RecordOrdersPosted : Prop :=
  (∀ body : List Byte,
    let at_ : Nat → Nat → Nat := Bytes.field body
    let sub := at_ 0 3
    let fits : Prop := sub < 262144 ∧ at_ 3 1 < 3 ∧ at_ 4 1 < 2 ∧ at_ 5 1 < 64 ∧ at_ 6 1 < 3 ∧ at_ 7 1 < 2 ∧ at_ 8 1 < 16
    let signed : Int := if at_ 3 4 < 2147483648 then (at_ 3 4 : Int) else (at_ 3 4 : Int) - 4294967296;
    Operands.subscriber body 0 = (if sub < 262144 then some sub else none) ∧
    Operands.topUp body = (if sub < 262144 ∧ 0 < at_ 3 4 then some (sub, at_ 3 4) else none) ∧
    Operands.adjust body = (if sub < 262144 then some (sub, signed) else none) ∧
    (¬fits → Operands.writeSub body = none ∧ Operands.repairSub body = none) ∧
    (∀ status account capability mode, fits →
      [SubStatus.active, .suspended, .closed][at_ 3 1]? = some status → [AccountKind.postpaid, .prepaid][at_ 4 1]? = some account →
      [Capability.toneOnly, .numeric, .text][at_ 6 1]? = some capability → [ReplyMode.twoWay, .oneWay][at_ 7 1]? = some mode →
      let fields : HostFields := { status, account, plan := at_ 5 1, capability, mode, homeZone := at_ 8 1 };
      Operands.writeSub body = some (sub, fields) ∧ Operands.repairSub body = some (sub, fields, at_ 10 4))) ∧
  (∀ (s t : State) (place : Nat) (body : List Byte),
    (s.takeOrder .topUp = some (place, body, t) → t.link.partState ≠ .restarting →
      (∀ sub amount, Operands.topUp body = some (sub, amount) → exec .topUp s =
        .next ((({ t with charging := { t.charging with order := some (.topUp place sub amount) } } : State).post sub
          .topUpRead).settleDown)) ∧
      (Operands.topUp body = none → exec .topUp s = .next (t.reply place .badValue .none).settleDown)) ∧
    (s.takeOrder .adjust = some (place, body, t) → t.link.partState ≠ .restarting →
      (∀ sub amount, Operands.adjust body = some (sub, amount) → exec .adjust s =
        .next ((({ t with charging := { t.charging with order := some (.adjust place sub amount) } } : State).post sub
          .adjustRead).settleDown)) ∧
      (Operands.adjust body = none → exec .adjust s = .next (t.reply place .badValue .none).settleDown)) ∧
    (s.takeOrder .readSub = some (place, body, t) →
      (∀ n, Operands.subscriber body 0 = some n → exec .readSub s =
        .next ((t.post n (.readSub place (if t.cache.filling n = true then .joined else .posted))).settleDown)) ∧
      (Operands.subscriber body 0 = none → exec .readSub s = .next (t.reply place .badValue .none).settleDown)) ∧
    (s.takeOrder .writeSub = some (place, body, t) → t.link.partState ≠ .restarting →
      (∀ n fields, Operands.writeSub body = some (n, fields) → exec .writeSub s =
        .next ((t.post n (.writeSub place fields .waiting)).settleDown)) ∧
      (Operands.writeSub body = none → exec .writeSub s = .next (t.reply place .badValue .none).settleDown)) ∧
    (s.takeOrder .repairSub = some (place, body, t) → t.link.partState ≠ .restarting →
      (∀ n fields balance, Operands.repairSub body = some (n, fields, balance) → exec .repairSub s =
        .next ((t.post n (.repairSub place fields balance .waiting)).settleDown)) ∧
      (Operands.repairSub body = none → exec .repairSub s = .next (t.reply place .badValue .none).settleDown))) ∧
  (∀ (s : State) (n : Nat) (kind : RequestKind),
    let c := s.cache.admitted
    let swept : Prop := ∃ place next last written, c.sweep = some (.records place next last written) ∧ next ≤ n ∧ n ≤ last
    let arrives : Prop := (∀ q ∈ c.queue ++ c.heldRequests, q.sub ≠ n) ∧ n ∉ c.holds ∧ ¬swept
    let full : Prop := 128 ≤ c.occupancy
    let joined : Request → Cache := fun r =>
      let d : Cache := { c with queue := c.queue ++ [r] }
      if d.wantsMiss r then d.tryMisses else d
    let access : Nat → Cache := fun way => c.access s.charging.period n way
    let found : Nat → Record := fun way => ((access way).line n way).record;
    (∀ way, arrives → c.onChip n = some way →
      (∀ u, kind = .update u → s.post n kind = { s with cache := (access way).change n way u.apply }) ∧
      (∀ entry admission attempts, kind = .reachRead entry admission attempts →
        s.post n kind = { s with cache := access way, retry := { s.retry with answers := s.retry.answers ++
          [{ entry, admission, attempts, unreachable := (found way).unreachable, nextProbe := (found way).nextProbe, fault := false }] } }) ∧
      s.nonWaitingRead n = (some (found way), { s with cache := access way })) ∧
    (¬(arrives ∧ c.onChip n ≠ none ∧ ((∃ u, kind = .update u) ∨ ∃ e a k, kind = .reachRead e a k)) →
      ∀ r : Request, r.sub = n → r.kind = kind → (r.behindSweep = true ↔ swept) →
      let held : Prop := full ∧ c.takesPlace r = true ∧ ∀ tag probe, kind ≠ .update (.placement tag probe);
      (held → s.post n kind = { s with cache := { c with heldRequests := c.heldRequests ++ [r] } }) ∧
      (¬held → s.post n kind = { s with cache := joined r })) ∧
    (¬(arrives ∧ c.onChip n ≠ none) →
      let touched : Prop := ∃ q ∈ c.queue, q.sub = n ∧ q.kind = .touch
      let m := c.counts;
      (full → s.nonWaitingRead n = (none, { s with cache := { c with counts := { m with droppedTouches := m.droppedTouches + 1 } } })) ∧
      (¬full → touched → s.nonWaitingRead n = (none, { s with cache := c })) ∧
      (¬full → ¬touched → ∀ r : Request, r.sub = n → r.kind = .touch → (r.behindSweep = true ↔ swept) →
        s.nonWaitingRead n = (none, { s with cache := joined r })))) ∧
  (∀ c : Cache,
    (c.heldRequests = [] ∨ 128 ≤ c.occupancy → c.admitted = c) ∧
    (∀ r rest, c.heldRequests = r :: rest → c.occupancy < 128 →
      let d : Cache := { c with heldRequests := rest, queue := c.queue ++ [r] }
      c.admitted = (if d.wantsMiss r then d.tryMisses else d).admitted) ∧
    (∀ n, c.holdsOrder n = true ↔ 128 ≤ c.admitted.occupancy ∧
      c.admitted.takesPlace { sub := n, kind := .readSub 0 .posted, behindSweep := c.admitted.sweepAhead n } = true)) ∧
  (∀ c : Cache,
    let host : Request → Bool := fun r => match r.kind with
      | .readSub .. => true
      | .writeSub .. => true
      | .repairSub .. => true
      | _ => false
    let passing : Request → Bool := fun r => match r.kind with
      | .update _ => true
      | .reachRead .. => true
      | .touch => true
      | .readSub _ .joined => true
      | _ => false
    let now : Request → Bool := fun r => !c.holds.contains r.sub && !c.waitsForSweep r &&
      ((c.onChip r.sub).isSome || (host r && !c.filling r.sub))
    let clear : List Request → Request → Bool := fun before r =>
      now r && before.all (fun q => q.sub != r.sub || (now q && passing q));
    c.occupancy = (c.queue.zipIdx.filter (fun p => !clear (c.queue.take p.2) p.1)).length ∧
    ∀ r, c.takesPlace r = true ↔ (∃ q ∈ c.heldRequests, q.sub = r.sub) ∨ clear c.queue r = false)

/-- TOP_UP and ADJUST on the record as held and rolled. TOP_UP raises the balance, stopping at 4,294,967,295. ADJUST of a PREPAID record
moves it by the signed amount, within reserved and 4,294,967,295. Either clears EXHAUSTED when the new balance is above reserved,
changes the record under its hold, and answers OK with what R133 and R134 name; ADJUST of a POSTPAID record is refused BAD_VALUE with
nothing of the record changed but the roll. The turn of a holding read, of these two and of the other three: it is the first request of its
kind and of its subscriber in the queue, with no hold on the subscriber, no sweep that it waits for, and a line that holds the subscriber;
without one the command changes nothing. A line holds a subscriber in the first way that carries its tag and is not INVALID, unless it is
FILLING (R28 to R31, R133, R134; that a command whose event cannot occur changes nothing is the model's, log 1). -/
def Obligations.TopUpAndAdjustApplied : Prop :=
  (∀ (s : State) (command : Instr) (kind : RequestKind),
    (command, kind) ∈ [(Instr.intakeReadServed, RequestKind.intakeRead), (.groupMemberReadServed, .memberRead),
      (.settlement, .settlementRead), (.topUpReadServed, .topUpRead), (.adjustReadServed, .adjustRead)] →
    let c := s.cache;
    (∀ sub way, s.heldTurn kind = some (sub, way) ↔ ∃ (before after : List Request) (q : Request),
      c.queue = before ++ q :: after ∧ q.kind = kind ∧ q.sub = sub ∧ (∀ x ∈ before, x.kind ≠ kind ∧ x.sub ≠ sub) ∧ sub ∉ c.holds ∧
      ¬(q.behindSweep = true ∧ ∃ p next last written, c.sweep = some (.records p next last written) ∧ next ≤ sub ∧ sub ≤ last) ∧
      c.onChip sub = some way) ∧
    (s.heldTurn kind = none → exec command s = .next s)) ∧
  (∀ (c : Cache) (n : Nat),
    let carries : Nat → Prop := fun way => (c.line n way).state ≠ .invalid ∧ (c.line n way).tag = n / 256
    let first : Nat → Prop := fun way => carries way ∧ (way = 0 ∨ (way = 1 ∧ ¬carries 0));
    (∀ way, c.onChip n = some way ↔ first way ∧ (c.line n way).state ≠ .filling) ∧
    (c.filling n = true ↔ ∃ way, first way ∧ (c.line n way).state = .filling)) ∧
  (∀ (s : State) (sub way place n amount : Nat), s.heldTurn .topUpRead = some (sub, way) →
    s.charging.order = some (.topUp place n amount) →
    let r := (s.cache.line sub way).record.roll s.charging.period
    let balance := min 4294967295 (r.balance + amount)
    let after : Record := { r with balance, exhausted := r.exhausted && decide (balance ≤ r.reserved) }
    ∃ c : Cache, HeldUpdate s.cache c sub way after ∧ exec .topUpReadServed s =
      .next ((({ s with cache := c, charging := { s.charging with order := none } } : State).reply place .ok
        (.toppedUp balance after.exhausted)).settleDown)) ∧
  (∀ (s : State) (sub way place n : Nat) (amount : Int), s.heldTurn .adjustRead = some (sub, way) →
    s.charging.order = some (.adjust place n amount) →
    let r := (s.cache.line sub way).record.roll s.charging.period
    let balance := min 4294967295 (max r.reserved ((r.balance : Int) + amount).toNat)
    let after : Record := { r with balance, exhausted := r.exhausted && decide (balance ≤ r.reserved) };
    (r.host.account = .prepaid → ∃ c : Cache, HeldUpdate s.cache c sub way after ∧ exec .adjustReadServed s =
      .next ((({ s with cache := c, charging := { s.charging with order := none } } : State).reply place .ok
        (.adjusted ((balance : Int) - (r.balance : Int)) balance)).settleDown)) ∧
    (r.host.account = .postpaid → ∃ c : Cache, HeldUpdate s.cache c sub way r ∧ exec .adjustReadServed s =
      .next ((({ s with cache := c, charging := { s.charging with order := none } } : State).reply place .badValue .none).settleDown)))

/-- The charge of an entry. DELIVERED or UNCONFIRMED: the raw fee B + C × n, or 0 while allowance remains; scaled by q of the original
level in sixteenths, rounding half up; the retry fee R × (a − 1) added; for a group member scaled by g; and no more than M.
EXPIRED_RETRIES or EXPIRED_LIFETIME: B scaled by e, and no more than M. CANCELLED or FAULTED: 0 (R121, R122). -/
def Obligations.ChargePriced : Prop :=
  ∀ (p : Plan) (e : Entry) (used : Nat), e.originalLevel < p.priority.length →
    let n := e.blocks
    let a := e.attempts
    let raw := if used < p.allowance then 0 else p.base + p.block * n
    let fee := (raw * p.priority.getD e.originalLevel 0 + 8) / 16 + p.retry * (a - 1)
    let sum := if e.group = none then fee else (fee * p.group + 8) / 16
    let expiry := (p.base * p.expiry + 8) / 16;
    (∀ o ∈ [EntryOutcome.delivered, .unconfirmed],
      p.charge o e used = (if sum ≤ p.cap then sum else p.cap) ∧ (p.within o used = true ↔ used < p.allowance)) ∧
    (∀ o ∈ [EntryOutcome.expiredRetries, .expiredLifetime],
      p.charge o e used = (if expiry ≤ p.cap then expiry else p.cap) ∧ p.within o used = false) ∧
    (∀ o ∈ [EntryOutcome.cancelled, .faulted], p.charge o e used = 0 ∧ p.within o used = false) ∧
    (∀ o, p.charge o e used ≤ p.cap)

/-- The reservation estimate is ((B + C × n) × q + 8) div 16 + R × (m − 1), for a group member scaled by g, and no more than M. It is at
least the charge of the same entry DELIVERED or UNCONFIRMED under the same plan after at most m attempts, and, for an entry that is no
group member, at least its expiry charge, the factors of the plan being in their ranges (R123). -/
def Obligations.EstimateCoversCharge : Prop :=
  ∀ (p : Plan) (e : Entry) (used m : Nat), e.originalLevel < p.priority.length → (∀ q ∈ p.priority, 16 ≤ q) → p.expiry ≤ 16 →
    e.attempts ≤ m →
    let estimate := p.estimate e.blocks e.originalLevel m e.group.isSome
    let fee := ((p.base + p.block * e.blocks) * p.priority.getD e.originalLevel 0 + 8) / 16 + p.retry * (m - 1)
    let stepped := if e.group = none then fee else (fee * p.group + 8) / 16
    estimate = (if stepped ≤ p.cap then stepped else p.cap) ∧
    (∀ o ∈ [EntryOutcome.delivered, .unconfirmed], p.charge o e used ≤ estimate) ∧
    (e.group = none → ∀ o ∈ [EntryOutcome.expiredRetries, .expiredLifetime], p.charge o e used ≤ estimate)

/-- The settlement of the head on its record as held and rolled, in one act. A PREPAID record is deducted the lesser of the charge and
its balance less the other entries' reservations, the rest is shortfall and sets EXHAUSTED, and reserved becomes what the others
reserve; a POSTPAID one has its reservation released and nothing deducted. Period charges rise by the charge, messages and allowance
used as the outcome gives, and live entries fall by one. Then the settlement is finished (R126 to R129). -/
def Obligations.SettlementMovesMoney : Prop :=
  ∀ (s : State) (sub way : Nat) (el : SettleElement) (rest : List SettleElement) (e : Entry) (o : EntryOutcome),
    s.heldTurn .settlementRead = some (sub, way) → s.charging.head = .record → s.charging.settleList = el :: rest →
    s.store.entry el.entry = some e → e.outcome = some o →
    let r := (s.cache.line sub way).record.roll s.charging.period
    let p := s.charging.activePlan r.host.plan
    let charge := p.charge o e r.allowanceUsed
    let others := r.reserved - e.reservation
    let prepaid : Prop := r.host.account = .prepaid
    ∃ (c : Cache) (m : Money) (after : Record),
      m.charge = charge ∧ m.within = p.within o r.allowanceUsed ∧
      (prepaid → m.deducted = min charge (r.balance - others) ∧ m.shortfall = charge - m.deducted) ∧
      (¬prepaid → m.deducted = 0 ∧ m.shortfall = 0) ∧
      after = { r with
        balance := r.balance - m.deducted
        reserved := others
        exhausted := r.exhausted || decide (0 < m.shortfall)
        charges := min 4294967295 (r.charges + charge)
        messages := if o = .delivered ∨ o = .unconfirmed then min 65535 (r.messages + 1) else r.messages
        allowanceUsed := if m.within then r.allowanceUsed + 1 else r.allowanceUsed
        live := r.live - 1 } ∧
      HeldUpdate s.cache c sub way after ∧
      exec .settlement s =
        .next ((({ s with cache := c } : State).finishSettlement el e m (some r.host.plan)).settleDown)

/-- The end of a settlement, in its four steps. Its billing record, with the fields R130 names and the next billing sequence, fills the
set-aside place at the tail of the log, is counted, and raises the greatest occupancy to the records then held; an ARMED mark with 768 or
more held offers a LOG_HIGH notice with them, their first and last sequence and the free set-aside place, becomes SENT and is counted. The
body loses one reference, and with none left and no submission in progress it is freed; the entry is freed; the notice step of
OutcomeNoticeSelected is taken on the record. Then the head leaves the settle list, behind which only entries that freed room released may
join, and the settlement is counted. No plan marks a FAULTED settlement, whose record has the fault flag set (R130, R131, R137, R139,
R144). An entry that ends is freed, its slot joins the tail of
the free list, the occupancy falls by one, and held entries are released where the effective level rises. Each change of the occupancy
moves the congestion level by the four thresholds and by nothing else, and a move offers a CONGESTION notice with the new level, the
occupancy and the effective level that results (R4, R5, R19). -/
def Obligations.SettlementFinished : Prop :=
  (∀ (s : State) (n : Nat),
    let level := s.store.congestion
    let next :=
      if level = 3 ∧ 12288 ≤ n then 2 else if level = 2 ∧ 14336 ≤ n then 1 else if level = 1 ∧ n < 13312 then 2
      else if level = 2 ∧ n < 10240 then 3 else level
    let effective := if s.intake.congestionControl then min s.intake.hostLevel next else s.intake.hostLevel
    let moved : State := { s with store := { s.store with occupancy := n, congestion := next } };
    (next = level → s.setOccupancy n = moved) ∧
    (next ≠ level → s.setOccupancy n = { moved with link := s.link.offerNotice (.congestion next n effective) })) ∧
  (∀ (s : State) (n : Nat) (e : Entry), s.store.entry n = some e →
    let free := s.store.freeEntries
    s.endEntry n = (({ s with store := { s.store.setEntry n none with
      freeEntries := { free with returned := free.returned ++ [n] } } } : State).setOccupancy (s.store.occupancy - 1)).releaseHeld
        s.effectiveLevel) ∧
  (∀ (s : State) (el : SettleElement) (rest : List SettleElement) (e : Entry) (o : EntryOutcome) (b : Body) (m : Money)
    (plan : Option Nat),
    s.charging.settleList = el :: rest → s.store.entry el.entry = some e → e.outcome = some o → s.store.body e.body = some b →
    let t := s.finishSettlement el e m plan
    let record : BillingRecord :=
      { sequence := s.log.nextSequence, message := b.message.getD 0, sub := e.sub, group := e.group, outcome := o,
        replyCode := e.replyCode.getD 0, attempts := e.attempts, blocks := e.blocks, level := e.originalLevel, plan,
        period := s.charging.period, charge := m.charge, deducted := m.deducted, shortfall := m.shortfall,
        withinAllowance := m.within, fault := plan.isNone, admissionCycle := e.admissionCycle, outcomeCycle := el.outcomeCycle,
        takenSet := e.takenSet }
    let n := s.charging.counts
    let counts : ChargingCounts := { n with
      ended := n.ended + 1
      shortfalls := if 0 < m.shortfall then n.shortfalls + 1 else n.shortfalls
      faulted := if plan = none then n.faulted + 1 else n.faulted }
    let held := s.log.records.length + 1
    let sequence := if s.log.nextSequence + 1 = 0 then 1 else s.log.nextSequence + 1
    let log : BillingLog := { s.log with
      records := s.log.records ++ [record], setAside := false, nextSequence := sequence, greatest := max s.log.greatest held
      counts := { s.log.counts with appended := s.log.counts.appended + 1 } }
    let warned : State := { s with
      link := s.link.offerNotice
        (.logHigh held ((s.log.records.head?.map BillingRecord.sequence).getD record.sequence) record.sequence false)
      log := { log with high := .sent, counts := { log.counts with highNotices := log.counts.highNotices + 1 } } }
    let logged : State := if s.log.high = .armed ∧ 768 ≤ held then warned else { s with log }
    let lowered : Store :=
      if b.references ≤ 1 ∧ b.inSubmission = false then
        { s.store.setBody e.body none with
          freeBodies := { s.store.freeBodies with returned := s.store.freeBodies.returned ++ [e.body] } }
      else s.store.setBody e.body (some { b with references := b.references - 1 })
    let ended := (({ logged with store := lowered } : State).endEntry el.entry).outcomeNotice el.entry record;
    t = { ended with charging := { ended.charging with settleList := ended.charging.settleList.tail, head := .idle, counts } } ∧
    t.log.records = s.log.records ++ [record] ∧ t.log.setAside = false ∧
    t.log.nextSequence = sequence ∧ t.log.greatest = max s.log.greatest held ∧
    (s.log.high = .armed → 768 ≤ held → t.log.high = .sent ∧ t.log.counts.highNotices = s.log.counts.highNotices + 1) ∧
    (s.log.high = .sent ∨ held < 768 → t.log.high = s.log.high ∧ t.log.counts.highNotices = s.log.counts.highNotices) ∧
    t.log.counts.outcomesOffered + t.log.counts.outcomesPassed =
      s.log.counts.outcomesOffered + s.log.counts.outcomesPassed + 1 ∧
    t.log.counts.appended = s.log.counts.appended + 1 ∧ t.log.lastReturned = s.log.lastReturned ∧
    t.store.body e.body =
      (if b.references ≤ 1 ∧ b.inSubmission = false then none else some { b with references := b.references - 1 }) ∧
    t.store.entry el.entry = none ∧ t.store.occupancy = s.store.occupancy - 1 ∧ t.charging.head = .idle ∧
    (∃ released, t.charging.settleList = rest ++ released) ∧ t.charging.counts = counts)

/-! ### The billing log -/

/-- COLLECT, in every part state. With n in 1..16 and r not above the last-returned count, the oldest r records leave the log, a request
that waits for a place is granted the first one freed, the high mark is ARMED again where fewer than 768 records remain, and the oldest
n that remain are returned and stay; the machine goes on from there. Otherwise it is refused BAD_VALUE and only counted (R136, R139,
R140). -/
def Obligations.CollectReleasesAndReturns : Prop :=
  ∀ (s t : State) (place : Nat) (r n : Byte), s.takeOrder .collect = some (place, [r, n], t) →
    let l := t.log
    let kept := l.records.drop r.toNat
    let removed := l.records.length - kept.length
    let copied := kept.take n.toNat
    let granted : Prop := l.waiting = true ∧ 0 < removed
    let passes : Prop := 1 ≤ n.toNat ∧ n.toNat ≤ 16 ∧ r.toNat ≤ l.lastReturned;
    (passes → ∃ log : BillingLog,
      exec .collect s = .next ((({ t with log } : State).reply place .ok (.collected removed kept.length copied)).settleDown) ∧
      log = { l with
        records := kept, setAside := log.setAside, waiting := log.waiting, lastReturned := copied.length, high := log.high
        counts := { l.counts with
          released := l.counts.released + BitVec.ofNat 32 removed, returned := l.counts.returned + BitVec.ofNat 32 copied.length } } ∧
      (granted → log.setAside = true ∧ log.waiting = false) ∧
      (¬granted → log.setAside = l.setAside ∧ log.waiting = l.waiting) ∧
      (0 < removed → kept.length < 768 → log.high = .armed) ∧ (removed = 0 ∨ 768 ≤ kept.length → log.high = l.high)) ∧
    (¬passes → exec .collect s =
      .next ((({ t with log := { l with counts := { l.counts with refused := l.counts.refused + 1 } } } : State).reply place .badValue
        (.collectRefused l.lastReturned l.records.length)).settleDown))

/-- The notice step of a settlement. ALL tells of every outcome, NONE of no outcome, FAILURES_AND_REPLIES of EXPIRED_RETRIES,
EXPIRED_LIFETIME, CANCELLED and FAULTED, and of DELIVERED with a reply code other than 0. The step, which each settlement takes once
(SettlementFinished), is counted as offered or as passed over, and nothing but the notice and that count changes (R144). -/
def Obligations.OutcomeNoticeSelected : Prop :=
  ∀ (s : State) (entry : Nat) (r : BillingRecord),
    let told : Prop := s.log.selection = .all ∨ (s.log.selection = .failuresAndReplies ∧
      (r.outcome ∈ [EntryOutcome.expiredRetries, .expiredLifetime, .cancelled, .faulted] ∨
        (r.outcome = .delivered ∧ r.replyCode ≠ 0)))
    let n := s.log.counts
    let body : NoticeBody :=
      .outcome r.message entry r.sub r.group r.outcome r.replyCode r.attempts r.charge r.shortfall r.sequence;
    (told → s.outcomeNotice entry r = { s with
      link := s.link.offerNotice body, log := { s.log with counts := { n with outcomesOffered := n.outcomesOffered + 1 } } }) ∧
    (¬told → s.outcomeNotice entry r = { s with
      log := { s.log with counts := { n with outcomesPassed := n.outcomesPassed + 1 } } })

/-! ### Submissions -/

/-- Clamped content. NUMERIC keeps the first 40 bytes, a byte outside its set becoming 0x20, and takes ⌈n / 8⌉ blocks; TEXT the first 200, a
byte outside its set becoming 0x3F, and ⌈n / 4⌉ blocks; TONE none and 0. The level and the encoding stay as given. The substitutions are
counted, and cutting to the limit marks the submission TRUNCATED (R7; that TONE is never TRUNCATED is the model's choice, log 40). -/
def Obligations.ContentClamped : Prop :=
  ∀ (level : Nat) (given : List Byte),
    let isNumeric : Byte → Prop := fun b => (0x30 ≤ b ∧ b ≤ 0x39) ∨ b ∈ [(0x20 : Byte), 0x2D, 0x28, 0x29, 0x2A, 0x23]
    let isText : Byte → Prop := fun b => 0x20 ≤ b ∧ b ≤ 0x7E
    let clamped : (Byte → Prop) → Byte → Nat → Nat → Submission → Prop := fun fits substitute limit perBlock m =>
      m.content.length = min limit given.length ∧
      (∀ i b, given[i]? = some b → i < limit →
        (fits b → m.content[i]? = some b) ∧ (¬fits b → m.content[i]? = some substitute)) ∧
      (∃ bad : List Byte, m.substitutions = bad.length ∧ bad.Sublist (given.take limit) ∧ (∀ b ∈ bad, ¬fits b) ∧
        ∃ good : List Byte, (∀ b ∈ good, fits b) ∧ (good ++ bad).Perm (given.take limit)) ∧
      (m.truncated = true ↔ limit < given.length) ∧ perBlock * m.blocks < m.content.length + perBlock ∧
      m.content.length ≤ perBlock * m.blocks;
    (∀ encoding, (clamp level encoding given).level = level ∧ (clamp level encoding given).encoding = encoding) ∧
    clamped isNumeric 0x20 40 8 (clamp level .numeric given) ∧ clamped isText 0x3F 200 4 (clamp level .text given) ∧
    clamp level .tone given = { level, encoding := .tone, content := [], blocks := 0, truncated := false, substitutions := 0 }

/-- SUBMIT is refused WRONG_STATE in CONFIG and BAD_VALUE with a field out of range; otherwise it becomes the Intake Unit's order in
progress with its content clamped, and posts its intake read (R6, R7). SUBMIT_GROUP is refused WRONG_STATE in CONFIG; in RUNNING it is
BAD_VALUE for a group number out of range, NOT_FOUND for a group with no list, BAD_VALUE for a level or an encoding out of range, and
STORE_FULL with fewer entries available than members or no free body slot. Otherwise its body takes the head of the free
list with no reference, no message number and the in-submission mark set, an entry for each member is set aside, and the first member's
read is posted (R14, R15). The fields of both stand where 12.2 puts them: subscriber, level and encoding of a SUBMIT at offsets 0, 3 and 4,
group, level and encoding of a SUBMIT_GROUP at 0, 2 and 3, the content length of either at 6 and its content from 8. -/
def Obligations.SubmissionsBegin : Prop :=
  (∀ body : List Byte,
    let at_ : Nat → Nat → Nat := Bytes.field body
    let encodings : List Encoding := [.tone, .numeric, .text];
    Operands.content body = (body.drop 8).take (at_ 6 2) ∧
    (262144 ≤ at_ 0 3 ∨ 4 ≤ at_ 3 1 ∨ 3 ≤ at_ 4 1 → Operands.submit body = none) ∧
    (∀ encoding, at_ 0 3 < 262144 → at_ 3 1 < 4 → encodings[at_ 4 1]? = some encoding →
      Operands.submit body = some (at_ 0 3, at_ 3 1, encoding)) ∧
    Operands.submitGroupNumber body = (if at_ 0 2 < 1024 then some (at_ 0 2) else none) ∧
    (4 ≤ at_ 2 1 ∨ 3 ≤ at_ 3 1 → Operands.submitGroupKind body = none) ∧
    (∀ encoding, at_ 2 1 < 4 → encodings[at_ 3 1]? = some encoding → Operands.submitGroupKind body = some (at_ 2 1, encoding))) ∧
  (∀ (s t : State) (place : Nat) (body : List Byte), s.takeOrder .submit = some (place, body, t) →
    (t.link.partState = .config → exec .submit s = .next (t.reply place .wrongState .none).settleDown) ∧
    (t.link.partState = .running → Operands.submit body = none →
      exec .submit s = .next (t.reply place .badValue .none).settleDown) ∧
    (∀ sub level encoding, t.link.partState = .running → Operands.submit body = some (sub, level, encoding) →
      exec .submit s = .next ((({ t with intake := { t.intake with
        order := some (.submit place sub (clamp level encoding (Operands.content body))) } } : State).post sub
          .intakeRead).settleDown))) ∧
  (∀ (s t : State) (place : Nat) (body : List Byte), s.takeOrder .submitGroup = some (place, body, t) →
    (t.link.partState = .config → exec .submitGroup s = .next (t.reply place .wrongState .none).settleDown) ∧
    (t.link.partState = .running → 1023 < Bytes.field body 0 2 →
      exec .submitGroup s = .next (t.reply place .badValue .none).settleDown)) ∧
  (∀ (s t : State) (place : Nat) (body : List Byte) (group : Nat), s.takeOrder .submitGroup = some (place, body, t) →
    t.link.partState = .running → Operands.submitGroupNumber body = some group →
    let list := Table.get [] t.store.groups group;
    (list = [] → exec .submitGroup s = .next (t.reply place .notFound .none).settleDown) ∧
    (list ≠ [] → Operands.submitGroupKind body = none →
      exec .submitGroup s = .next (t.reply place .badValue .none).settleDown) ∧
    (∀ level encoding first others, Operands.submitGroupKind body = some (level, encoding) → list = first :: others →
      let m := clamp level encoding (Operands.content body);
      (t.store.available < list.length ∨ t.store.freeBodies.take = none →
        exec .submitGroup s = .next (t.reply place .storeFull .none).settleDown) ∧
      (∀ slot bodies, list.length ≤ t.store.available → t.store.freeBodies.take = some (slot, bodies) →
        exec .submitGroup s = .next ((({ t with
          store := { t.store with
            freeBodies := bodies, setAside := t.store.setAside + list.length
            bodies := Table.set none t.store.bodies slot (some
              { message := none, encoding, content := m.content, references := 0, inSubmission := true }) }
          intake := { t.intake with
            order := some (.group { place, group, body := slot, message := m, members := list, counts := {} }) } } : State).post first
              .memberRead).settleDown))))

/-- The intake read of a SUBMIT is served: the checks on the record as held and rolled, in the order of R8. The first that fails gives
the refusal: the record is released unchanged, and nothing is created. When all pass, the body takes the head of its free list and the
next message number, the entry the head of its free list and the next admission sequence with the fields of R2, the intake update ends
the hold, and the entry is filed; the reply is OK with what R11 names (R6, R8 to R11). -/
def Obligations.IntakeReadDecidesSubmit : Prop :=
  ∀ (s : State) (sub way place n : Nat) (m : Submission), s.heldTurn .intakeRead = some (sub, way) →
    s.intake.order = some (.submit place n m) →
    let r := (s.cache.line sub way).record.roll s.charging.period
    let downgraded := decide (r.host.capability = .toneOnly) && decide (m.encoding ≠ .tone)
    let blocks := if downgraded then 0 else m.blocks
    let row := s.retry.policy.getD m.level { maxAttempts := 1, backoff := [], lifetime := 1, repeats := 1 }
    let reservation := if r.host.account = .prepaid then
        (s.charging.activePlan r.host.plan).estimate blocks m.level row.maxAttempts false
      else 0
    let refusal : Option (ReplyCode × ReplyBody) :=
      if r.host.status ≠ .active then some (.subRefused, .statusFound r.host.status)
      else if m.encoding = .text ∧ r.host.capability = .numeric then some (.capability, .none)
      else if 32 ≤ r.live then some (.subLimit, .none)
      else if s.store.freeBodies.length = 0 ∨ s.store.available = 0 then some (.storeFull, .none)
      else if r.host.account = .prepaid ∧ (r.exhausted = true ∨ r.balance < r.reserved + reservation) then some (.noFunds, .none)
      else none;
    (∀ code body, refusal = some (code, body) → ∃ c : Cache, HeldUpdate s.cache c sub way r ∧
      exec .intakeReadServed s = .next ((({ s with cache := c, intake := { s.intake with order := none } } : State).reply place code
        body).settleDown)) ∧
    (∀ slot bodies k entries, refusal = none → s.store.freeBodies.take = some (slot, bodies) →
      s.store.freeEntries.take = some (k, entries) →
      let entry : Entry :=
        { sub, body := slot, group := none, originalLevel := m.level, level := m.level, admission := s.store.nextAdmission,
          admissionCycle := s.timer.cycle, expiryCycle := s.timer.cycle + BitVec.ofNat 32 row.lifetime,
          maxAttempts := row.maxAttempts, repeats := row.repeats, reservation, blocks, downgraded, state := .queued }
      let created : State := ({ s.serveHolding sub way with store := { s.store with
        freeBodies := bodies, freeEntries := entries
        bodies := Table.set none s.store.bodies slot (some
          { message := some s.store.nextMessage, encoding := m.encoding, content := m.content, references := 1,
            inSubmission := false })
        entries := Table.set none s.store.entries k (some entry)
        nextMessage := if s.store.nextMessage + 1 = 0 then 1 else s.store.nextMessage + 1
        nextAdmission := s.store.nextAdmission + 1 } } : State).setOccupancy (s.store.occupancy + 1)
      let released := created.closingUpdate sub way (fun r => { r with live := r.live + 1, reserved := r.reserved + reservation })
      let filed := (released.serveSub sub).fileNew k r;
      exec .intakeReadServed s = .next ((({ filed with intake := { filed.intake with order := none } } : State).reply place .ok
        (.submitted s.store.nextMessage k (filed.filedState k) blocks reservation m.substitutions m.truncated downgraded)).settleDown))

/-- A new entry is filed by its record and the effective admission level. Unreachable, outside RESTARTING, it enters RETRY_WAIT with the
record's next probe cycle as its retry-at; its level not above the effective level, it is filed to its frame queue; otherwise, outside
RESTARTING, it is HELD at the tail of the hold list; in RESTARTING it settles CANCELLED (R11, R114, R169). An entry filed to its frame
queue settles CANCELLED in RESTARTING, and EXPIRED_LIFETIME with its expiry cycle below the cycle of the open frame; otherwise it is
QUEUED with no retry-at in the queue of its home frame, its address modulo the length in force, before the first entry of a higher
current level or of the same level and a higher admission sequence, and no other queue changes (R26, R64). At a cycle turn every held
entry whose expiry cycle is below the coming cycle number leaves the hold list, in list order, and settles EXPIRED_LIFETIME; the others
stay as they are (R20). An entry that joins the retry list, at whichever event, is in RETRY_WAIT with its retry-at, and its element stands
before the first element of a higher retry-at, or of the same and a higher admission sequence, or else at the tail; the others keep their
order and nothing else changes (R108). -/
def Obligations.EntriesFiled : Prop :=
  (∀ (s : State) (n : Nat) (e : Entry) (r : Record), s.store.entry n = some e →
    (s.link.partState = .restarting → s.fileNew n r = s.settle n .cancelled 0) ∧
    (s.link.partState ≠ .restarting → r.unreachable = true → s.fileNew n r = s.joinRetryList
      { entry := n, sub := e.sub, tag := none, retryAt := r.nextProbe, missFrame := none, reachPending := false }) ∧
    (s.link.partState ≠ .restarting → r.unreachable = false → e.level ≤ s.effectiveLevel → s.fileNew n r = s.file n) ∧
    (s.link.partState ≠ .restarting → r.unreachable = false → s.effectiveLevel < e.level →
      s.fileNew n r = { s with
        store := s.store.setEntry n (some { e with state := .held })
        intake := { s.intake with holdList := s.intake.holdList ++ [n] } })) ∧
  (∀ (s : State) (n : Nat) (e : Entry), s.store.entry n = some e →
    let late : Prop := ∃ f, s.assembler.openFrame = some f ∧ e.expiryCycle < f.cycle
    let home := (s.cache.addressBase.getD 0 + e.sub) % s.timer.lengthInForce;
    (s.link.partState = .restarting → s.fileQuietly n = s.settle n .cancelled 0) ∧
    (s.link.partState ≠ .restarting → late → s.fileQuietly n = s.settle n .expiredLifetime 0) ∧
    (s.link.partState ≠ .restarting → ¬late → ∃ (queues : Table (List Nat)) (before after : List Nat),
      s.fileQuietly n = { s with
        store := s.store.setEntry n (some { e with state := .queued, retryAt := none })
        assembler := { s.assembler with queues } } ∧
      Table.get [] s.assembler.queues home = before ++ after ∧ Table.get [] queues home = before ++ n :: after ∧
      (∀ k, k ≠ home → Table.get [] queues k = Table.get [] s.assembler.queues k) ∧
      (∀ m ∈ before, ∀ d, m ≠ n → s.store.entry m = some d →
        d.level < e.level ∨ (d.level = e.level ∧ d.admission ≤ e.admission)) ∧
      (∀ m ∈ after.head?, ∀ d, m ≠ n → s.store.entry m = some d →
        e.level < d.level ∨ (e.level = d.level ∧ e.admission < d.admission)))) ∧
  (∀ (s : State) (coming : Word32),
    let expires : Nat → Bool := fun n => match s.store.entry n with
      | none => false
      | some e => decide (e.expiryCycle < coming)
    s.expireHeld coming = (s.intake.holdList.filter expires).foldl (fun u n =>
        ({ u with intake := { u.intake with holdList := u.intake.holdList.erase n } } : State).settle n .expiredLifetime 0) s ∧
      (s.expireHeld coming).intake.holdList = s.intake.holdList.filter (fun n => !expires n)) ∧
  (∀ (s : State) (x : RetryElement) (e : Entry), s.store.entry x.entry = some e →
    let t := s.joinRetryList x
    let sequence : RetryElement → Word32 := fun y => match s.store.entry y.entry with
      | none => 0
      | some d => d.admission
    let first : RetryElement → RetryElement → Prop := fun y z =>
      y.retryAt < z.retryAt ∨ (y.retryAt = z.retryAt ∧ sequence y < sequence z);
    t = { s with
      store := s.store.setEntry x.entry (some { e with state := .retryWait, retryAt := some x.retryAt })
      retry := { s.retry with list := t.retry.list } } ∧
    ∃ before after, s.retry.list = before ++ after ∧ t.retry.list = before ++ x :: after ∧
      (∀ y ∈ before, ¬first x y) ∧ (∀ y ∈ after.head?, first x y))

/-- The read of the member in progress is served. Its record is rolled and checked: its status, its capability, its live entries against 32
and, PREPAID, its funds against its reservation, the group step in the estimate; the store has room for it always (R8, R9, R15, R123). A
member that fails a check is counted under the first it fails, its record released unchanged and its entry given back; one that passes is
created as an entry of the group's body, which draws its message number at the first, is filed, and is counted under the state it was filed
in and, with its content left out, as downgraded; then the submission goes on with the member after it (R15). With no member left it ends:
the mark is cleared and the reply gives the counts; in RESTARTING the members left give back their entries and are counted not processed
(R16, R17). A member that settles as it is filed is counted under SETTLING, which is the model's choice (log 20). -/
def Obligations.GroupMemberCreatedOrRefused : Prop :=
  (∀ (s : State) (sub way : Nat) (g : GroupOrder) (first : Nat) (others : List Nat) (b : Body),
    s.heldTurn .memberRead = some (sub, way) → s.intake.order = some (.group g) → g.members = first :: others →
    s.store.body g.body = some b →
    let r := (s.cache.line sub way).record.roll s.charging.period
    let prepaid : Prop := r.host.account = .prepaid
    let downgraded := decide (r.host.capability = .toneOnly) && decide (g.message.encoding ≠ .tone)
    let blocks := if downgraded then 0 else g.message.blocks
    let row := s.retry.policy.getD g.message.level { maxAttempts := 1, backoff := [], lifetime := 1, repeats := 1 }
    let p := s.charging.activePlan r.host.plan
    let fee := ((p.base + p.block * blocks) * p.priority.getD g.message.level 16 + 8) / 16 + p.retry * (row.maxAttempts - 1)
    let reservation := if prepaid then min ((fee * p.group + 8) / 16) p.cap else 0
    let n := g.counts
    let refused : Option MemberCounts :=
      if r.host.status ≠ .active then some { n with subRefused := n.subRefused + 1 }
      else if g.message.encoding = .text ∧ r.host.capability = .numeric then some { n with capability := n.capability + 1 }
      else if 32 ≤ r.live then some { n with subLimit := n.subLimit + 1 }
      else if prepaid ∧ (r.exhausted = true ∨ r.balance < r.reserved + reservation) then some { n with noFunds := n.noFunds + 1 }
      else none
    let created : EntryState → MemberCounts := fun filed =>
      let d := { n with downgraded := if downgraded then n.downgraded + 1 else n.downgraded }
      match filed with
      | .held => { d with held := n.held + 1 }
      | .retryWait => { d with retryWait := n.retryWait + 1 }
      | .settling => { d with settling := n.settling + 1 }
      | _ => { d with queued := n.queued + 1 };
    (∀ counts, refused = some counts → ∃ c : Cache, HeldUpdate s.cache c sub way r ∧
      exec .groupMemberReadServed s = .next ((({ s with
        cache := c, store := { s.store with setAside := s.store.setAside - 1 } } : State).nextMember
          { g with members := others, counts }).settleDown)) ∧
    (∀ k entries, refused = none → s.store.freeEntries.take = some (k, entries) →
      let number := b.message.getD s.store.nextMessage
      let entry : Entry :=
        { sub, body := g.body, group := some g.group, originalLevel := g.message.level, level := g.message.level,
          admission := s.store.nextAdmission, admissionCycle := s.timer.cycle,
          expiryCycle := s.timer.cycle + BitVec.ofNat 32 row.lifetime, maxAttempts := row.maxAttempts, repeats := row.repeats,
          reservation, blocks, downgraded, state := .queued }
      let entered : State := ({ s.serveHolding sub way with store := { s.store with
        freeEntries := entries, setAside := s.store.setAside - 1
        bodies := Table.set none s.store.bodies g.body (some { b with references := b.references + 1, message := some number })
        entries := Table.set none s.store.entries k (some entry)
        nextMessage := if b.message ≠ none then s.store.nextMessage
          else if s.store.nextMessage + 1 = 0 then 1 else s.store.nextMessage + 1
        nextAdmission := s.store.nextAdmission + 1 } } : State).setOccupancy (s.store.occupancy + 1)
      let released := entered.closingUpdate sub way (fun r => { r with live := r.live + 1, reserved := r.reserved + reservation })
      let filed := (released.serveSub sub).fileNew k r;
      exec .groupMemberReadServed s = .next ((filed.nextMember
        { g with members := others, counts := created (filed.filedState k) }).settleDown))) ∧
  (∀ (s : State) (g : GroupOrder) (b : Body), s.store.body g.body = some b →
    let leaving : Nat → State := fun left => { s with
      store := ({ s.store with setAside := s.store.setAside - left } : Store).setBody g.body
        (some { b with inSubmission := false }) |>.releaseIfUnused g.body
      intake := { s.intake with order := none } }
    let ended : MemberCounts → ReplyBody := fun counts =>
      .groupEnded (b.message.getD 0) counts g.message.blocks g.message.substitutions g.message.truncated;
    (g.members = [] → s.nextMember g = (leaving 0).reply g.place .ok (ended g.counts)) ∧
    (∀ first others, g.members = first :: others → s.link.partState ≠ .restarting →
      s.nextMember g = ({ s with intake := { s.intake with order := some (.group g) } } : State).post first .memberRead) ∧
    (g.members ≠ [] → s.link.partState = .restarting → s.nextMember g = (leaving g.members.length).reply g.place .ok
      (ended { g.counts with notProcessed := g.counts.notProcessed + g.members.length })))

/-- A message number names the body that carries it, 0 none, and a body's live entries stand each once and rise by admission sequence.
CANCEL is refused WRONG_STATE in CONFIG, and BAD_VALUE with a form that names neither an entry nor a message. In RUNNING it becomes the
Intake Unit's order in progress: by entry with a request for that entry, by message with one for each live entry of its body in admission
order. A number of no entry slot is refused BAD_VALUE, a free slot or an unknown message number NOT_FOUND. The form stands at offset 0 of the
body, ENTRY 0 and MESSAGE 1, and the entry or message number at 4 to 7 (12.2, R21, R22; which of two bodies
that carry one number is named is the model's, log 43). -/
def Obligations.CancelSetsRequestsOnTheirWay : Prop :=
  (∀ t : Store,
    t.findMessage 0 = none ∧
    (∀ m, m ≠ 0 → (t.findMessage m = none ↔ ∀ n b, t.body n = some b → b.message ≠ some m)) ∧
    (∀ m slot b, t.findMessage m = some (slot, b) → t.body slot = some b ∧ b.message = some m ∧
      ∀ n c, t.body n = some c → c.message = some m → slot ≤ n) ∧
    (∀ slot, ((t.entriesOf slot).map Prod.fst).Nodup ∧
      (∀ n e, (n, e) ∈ t.entriesOf slot ↔ t.entry n = some e ∧ e.body = slot) ∧
      (t.entriesOf slot).Pairwise (fun p q => p.2.admission ≤ q.2.admission))) ∧
  (∀ body : List Byte,
    let form := Bytes.field body 0 1
    let number := Bytes.field body 4 4;
    (form = 0 → Operands.cancel body = some (.entry number)) ∧
    (form = 1 → Operands.cancel body = some (.message (BitVec.ofNat 32 number))) ∧ (1 < form → Operands.cancel body = none)) ∧
  (∀ (s t : State) (place : Nat) (body : List Byte), s.takeOrder .cancel = some (place, body, t) →
    (t.link.partState = .config → exec .cancel s = .next (t.reply place .wrongState .none)) ∧
    (t.link.partState = .running → 1 < (body.getD 0 0).toNat →
      exec .cancel s = .next (t.reply place .badValue .none))) ∧
  (∀ (s t : State) (place : Nat) (body : List Byte), s.takeOrder .cancel = some (place, body, t) → t.link.partState = .running →
    (∀ n, Operands.cancel body = some (.entry n) →
      (16384 ≤ n → exec .cancel s = .next (t.reply place .badValue .none)) ∧
      (n < 16384 → t.store.entry n = none → exec .cancel s = .next (t.reply place .notFound .none)) ∧
      (n < 16384 → t.store.entry n ≠ none → exec .cancel s = .next { t with intake := { t.intake with
        order := some (.cancel { place, byMessage := false, requests := [n] }) } })) ∧
    (∀ m, Operands.cancel body = some (.message m) →
      (t.store.findMessage m = none → exec .cancel s = .next (t.reply place .notFound .none)) ∧
      (∀ slot b first others, t.store.findMessage m = some (slot, b) →
        (t.store.entriesOf slot).map Prod.fst = first :: others → exec .cancel s = .next { t with intake := { t.intake with
          order := some (.cancel { place, byMessage := true, requests := first :: others }) } }) ∧
      (∀ slot b, t.store.findMessage m = some (slot, b) → t.store.entriesOf slot = [] →
        exec .cancel s = .next (t.reply place .alreadyDone (.cancelCounts 0 0 0)))))

/-- A cancel request acts by the state of its entry: HELD, QUEUED, PLACED and RETRY_WAIT entries leave where they stand and settle
CANCELLED; OFFERED and AWAITING ones only get their cancel-requested flag; a SETTLING one is left alone. The order then goes on with its
next request, or with the last one answers: by entry, OK, or ALREADY_DONE with the outcome of a SETTLING entry; by message the counts,
OK if any entry was cancelled or marked and ALREADY_DONE otherwise. An entry freed before its request arrives counts as SETTLING, with no
outcome to give, which is the model's choice (log 21). A PLACED entry leaves the open frame: it is no longer among the placed entries, its
page size is taken from the block count of every zone of its placed set and of no other, and the tally, with its tag, stays; where the open
frame does not hold it nothing changes. A QUEUED one leaves its frame queue and the miss-skip set (R21, R22, R74). -/
def Obligations.CancelRequestActsByState : Prop :=
  (∀ (s : State) (n : Nat),
    let a := s.assembler
    let held : Frame → Prop := fun f => ∃ p ∈ f.placed, p.entry = n;
    (∀ f before p after, a.openFrame = some f → f.placed = before ++ p :: after → p.entry = n → (∀ q ∈ before, q.entry ≠ n) →
      ∃ g : Frame, s.unplace n = { s with assembler := { a with openFrame := some g } } ∧
        g = { f with placed := f.placed.filter (fun q => decide (q.entry ≠ n)), blocks := g.blocks } ∧
        ∀ z, g.block z = if z < 16 ∧ ZoneSet.has p.zones z = true then f.block z - p.size else f.block z) ∧
    ((∀ f, a.openFrame = some f → ¬held f) → s.unplace n = s) ∧
    s.leaveMissSkip n = { s with assembler := { a with missSkip := a.missSkip.filter (fun m => decide (m.entry ≠ n)) } } ∧
    (∀ before q after, a.queues = before ++ q :: after → n ∈ q.2 → (∀ x ∈ before, n ∉ x.2) →
      s.leaveQueue n = { s with assembler := { a with queues := Table.set [] a.queues q.1 (q.2.erase n) } }) ∧
    ((∀ q ∈ a.queues, n ∉ q.2) → s.leaveQueue n = s)) ∧
  (∀ (s : State) (c : CancelOrder) (n : Nat) (rest : List Nat) (o : Option Entry), s.intake.order = some (.cancel c) →
    c.requests = n :: rest → s.store.entry n = o →
    let cancelled : Entry → State := fun e => ((match e.state with
      | .held => { s with intake := { s.intake with holdList := s.intake.holdList.erase n } }
      | .queued => (s.leaveMissSkip n).leaveQueue n
      | .retryWait => { s with retry := { s.retry with list := s.retry.list.filter (fun x => decide (x.entry ≠ n)) } }
      | _ => s.unplace n : State)).settle n .cancelled 0
    let marked : Entry → State := fun e => { s with store := s.store.setEntry n (some { e with cancelRequested := true }) }
    let goesOn : State → CancelOrder → ReplyCode → ReplyBody → Prop := fun u counted code body =>
      (∀ next others, rest = next :: others → exec .cancelRequest s = .next (({ u with intake := { u.intake with
        order := some (.cancel { counted with requests := rest }) } } : State).settleDown)) ∧
      (rest = [] → c.byMessage = false → exec .cancelRequest s = .next ((({ u with intake := { u.intake with
        order := none } } : State).reply c.place code body).settleDown)) ∧
      (rest = [] → c.byMessage = true → exec .cancelRequest s = .next ((({ u with intake := { u.intake with
        order := none } } : State).reply c.place
          (if 0 < counted.cancelled + counted.requested then .ok else .alreadyDone)
          (.cancelCounts counted.cancelled counted.requested counted.settling)).settleDown));
    (∀ e, o = some e → e.state ∈ [EntryState.held, .queued, .placed, .retryWait] →
      goesOn (cancelled e) { c with cancelled := c.cancelled + 1 } .ok .cancelled) ∧
    (∀ e, o = some e → e.state ∈ [EntryState.offered, .awaiting] →
      goesOn (marked e) { c with requested := c.requested + 1 } .ok .requested) ∧
    (∀ e, o = some e → e.state = .settling →
      goesOn s { c with settling := c.settling + 1 } .alreadyDone (.alreadySettling e.outcome)) ∧
    (o = none → goesOn s { c with settling := c.settling + 1 } .alreadyDone (.alreadySettling none)))

/-! ### Frame queues and placement -/

/-- The zone mask holds only zones in service, and is empty only when none is. At step 0 it is {Z} with Z in service; at step 1, or at
step 0 with Z out of service, Z and its neighbours in service where any is; and otherwise every zone in service. The step is 2 at level
0, and else the lesser of attempts and 2 (R69). -/
def Obligations.ZoneMaskWidens : Prop :=
  (∀ (z : Nat) (neighbours inService : ZoneSet) (step : Nat), z < 16 →
    let mask := zoneMask z neighbours inService step
    let near : Nat → Prop := fun w => (w = z ∨ ZoneSet.has neighbours w = true) ∧ ZoneSet.has inService w = true
    let alone : Prop := step = 0 ∧ ZoneSet.has inService z = true;
    (mask = 0 ↔ inService = 0) ∧
    (alone → ∀ w, w < 16 → (ZoneSet.has mask w = true ↔ w = z)) ∧
    (¬alone → step ≤ 1 → (∃ w, w < 16 ∧ near w) → ∀ w, w < 16 → (ZoneSet.has mask w = true ↔ near w)) ∧
    (¬alone → (2 ≤ step ∨ ∀ w, w < 16 → ¬near w) → mask = inService)) ∧
  (∀ level attempts, escalationStep level attempts = if level = 0 then 2 else if attempts ≤ 2 then attempts else 2)

/-- The frame opened at a frame start launches two frame starts later, and its queue is walked in order. An entry filed into the queue of
the open frame is tried at once, as a late arrival (R66, R67, R72). An entry tried is skipped and counted with four tags drawn for its
subscriber; joins the miss-skip set with its record not ready, its element carrying the frame's launch count as the model's own (log 29); is
skipped and counted with an empty zone mask; is placed where every zone of its mask has room; and otherwise has its deferral counted, but
that a late arrival of level 0 displaces placed entries where that makes room. The entries displaced are of level 2 or 3 and stand in a zone
that lacks room; they go one at a time, level 3 before 2 and the highest admission sequence first, each while the page still lacks room in a
zone of its own and none passed over that does so too, until it fits (R67, R68, R72, R73). At a READY report the subscriber's entries leave
the miss-skip set, and those in the open frame's queue that it skipped are tried on the record reported, in queue order (R68). A displaced
entry leaves the frame, its blocks are returned, its tag stays drawn, and it is filed back (R74). The second deferral sets the count to 0,
and at level 2 or 3 lowers the level by one and moves the entry to its new place in its queue (R71). Placing an entry: its size is added to
the block count of every zone of its mask and to no other, its air tag is one more modulo 16 than the last drawn for its subscriber in the
frame, or than the record's, it joins the placed entries with the record's reply mode, is PLACED with that tag, leaves its queue and no
other, and its placement update is posted, with the next probe cycle of an UNREACHABLE record (R70). -/
def Obligations.EntryPlaced : Prop :=
  (∀ (s : State) (n : Nat) (e : Entry) (r : Record) (mask : ZoneSet) (f : Frame), s.assembler.openFrame = some f →
    s.store.entry n = some e →
    let tag : BitVec 4 := (match f.tally.find? (fun x => x.sub == e.sub) with
      | none => r.airTag
      | some x => x.last) + 1
    ∃ (t : State) (g : Frame),
      s.place n e r mask = t.post e.sub
        (.update (.placement tag (if r.unreachable then some (f.cycle + BitVec.ofNat 32 s.retry.probeInterval) else none))) ∧
      t = { s with store := { s.store with entries := t.store.entries }
                   assembler := { s.assembler with queues := (s.leaveQueue n).assembler.queues, openFrame := some g } } ∧
      t.store.entry n = some { e with state := .placed, airTag := some tag } ∧ (∀ m, m ≠ n → t.store.entry m = s.store.entry m) ∧
      g.placed = f.placed ++ [{ entry := n, sub := e.sub, zones := mask, size := 1 + e.blocks, tag, mode := r.host.mode }] ∧
      g.launch = f.launch ∧ g.number = f.number ∧ g.cycle = f.cycle ∧
      g.tally.find? (fun x => x.sub == e.sub) = some { sub := e.sub, drawn := f.drawn e.sub + 1, last := tag } ∧
      (∀ z, z < 16 → g.block z = f.block z + (if ZoneSet.has mask z then 1 + e.blocks else 0))) ∧
  (∀ (s : State) (n : Nat),
    let a := s.assembler
    let left := s.leaveQueue n
    left = { s with assembler := { a with queues := left.assembler.queues } } ∧
    (a.queues.find? (fun x => x.2.contains n) = none → left = s) ∧
    (∀ q, a.queues.find? (fun x => x.2.contains n) = some q →
      Table.get [] left.assembler.queues q.1 = q.2.erase n ∧
        ∀ m, m ≠ q.1 → Table.get [] left.assembler.queues m = Table.get [] a.queues m)) ∧
  (∀ (s : State) (n : Nat) (e : Entry) (f : Frame), s.assembler.openFrame = some f → s.store.entry n = some e →
    let a := s.assembler
    let k := a.counts
    let z := fun r : Record => r.lastZone.getD r.host.homeZone
    let mask : Record → ZoneSet := fun r =>
      zoneMask (z r) (s.monitor.zone (z r)).neighbours s.monitor.inService (escalationStep e.level e.attempts)
    let size := 1 + e.blocks
    let lacks : Record → Frame → Nat → Bool := fun r g w => ZoneSet.has (mask r) w && decide (64 < g.block w + size)
    let room : Record → Frame → Prop := fun r g => ∀ w, w < 16 → lacks r g w = false
    let eligible : Record → Placed → Bool := fun r p =>
      decide (2 ≤ s.store.levelOf p.entry) && (List.range 16).any (fun w => ZoneSet.has p.zones w && lacks r f w)
    let makesRoom : Record → Prop := fun r => ∀ w, w < 16 → lacks r f w = true →
      f.block w - ((f.placed.filter (fun p => eligible r p && ZoneSet.has p.zones w)).map Placed.size).sum + size ≤ 64
    let tried : Bool → Option Record → State := fun late report => s.tryEntry late report n;
    (4 ≤ f.drawn e.sub → ∀ late report, tried late report =
      { s with assembler := { a with counts := { k with tagLimitSkips := k.tagLimitSkips + 1 } } }) ∧
    (f.drawn e.sub < 4 → ∀ late,
      (∀ r, tried late (some r) = (s.leaveMissSkip n).tryWithRecord late n e f r) ∧
      (∀ r u, s.nonWaitingRead e.sub = (some r, u) → tried late none = (u.leaveMissSkip n).tryWithRecord late n e f r) ∧
      (∀ u, s.nonWaitingRead e.sub = (none, u) → tried late none = { u with assembler := { u.assembler with
        missSkip := u.assembler.missSkip.filter (fun m => decide (m.entry ≠ n)) ++ [{ entry := n, sub := e.sub, launch := f.launch }]
        counts := { u.assembler.counts with missSkips := u.assembler.counts.missSkips + 1 } } })) ∧
    (∀ late r, mask r = 0 → s.tryWithRecord late n e f r =
      { s with assembler := { a with counts := { k with emptyMaskSkips := k.emptyMaskSkips + 1 } } }) ∧
    (∀ late r, mask r ≠ 0 → room r f → s.tryWithRecord late n e f r = s.place n e r (mask r)) ∧
    (∀ late r, ¬room r f → ¬(late = true ∧ e.level = 0 ∧ makesRoom r) → s.tryWithRecord late n e f r = s.defer n) ∧
    (∀ r, ¬room r f → e.level = 0 → makesRoom r → ∃ out : List Placed,
      let after : List Placed → State := fun gone => gone.foldl (fun u p => u.displace p) s
      s.tryWithRecord true n e f r = (after out).place n e r (mask r) ∧
      (∀ p ∈ out, p ∈ f.placed ∧ eligible r p = true) ∧
      out.Pairwise (fun p q => s.store.levelOf q.entry < s.store.levelOf p.entry ∨
        (s.store.levelOf q.entry = s.store.levelOf p.entry ∧ s.store.admissionOf q.entry ≤ s.store.admissionOf p.entry)) ∧
      (∀ before p rest, out = before ++ p :: rest → ∃ g w, (after before).assembler.openFrame = some g ∧ w < 16 ∧
        ZoneSet.has p.zones w = true ∧ lacks r g w = true) ∧
      (∀ before p rest, out = before ++ p :: rest → ∀ g, (after before).assembler.openFrame = some g → ∀ q ∈ f.placed,
        eligible r q = true → q ∉ before →
        s.store.levelOf p.entry < s.store.levelOf q.entry ∨
          (s.store.levelOf p.entry = s.store.levelOf q.entry ∧ s.store.admissionOf p.entry < s.store.admissionOf q.entry) →
        ∀ w, w < 16 → ZoneSet.has q.zones w = true → lacks r g w = false) ∧
      (∃ g, (after out).assembler.openFrame = some g ∧ room r g)) ∧
    (let counted : AssemblyCounts := { k with deferrals := k.deferrals + 1 }
      let kept : Nat → State := fun deferral => { s with
        store := s.store.setEntry n (some { e with deferral }), assembler := { a with counts := counted } };
      (e.deferral = 0 → s.defer n = kept 1) ∧ (e.deferral ≠ 0 → e.level ≤ 1 → s.defer n = kept 0) ∧
      (e.deferral ≠ 0 → 2 ≤ e.level → ∀ q, a.queues.find? (fun x => x.2.contains n) = some q →
        ∃ (queues : Table (List Nat)) (before after : List Nat),
          s.defer n = { s with
            store := s.store.setEntry n (some { e with deferral := 0, level := e.level - 1 })
            assembler := { a with queues, counts := { counted with agings := k.agings + 1 } } } ∧
          q.2.erase n = before ++ after ∧ Table.get [] queues q.1 = before ++ n :: after ∧
          (∀ m, m ≠ q.1 → Table.get [] queues m = Table.get [] a.queues m) ∧
          (∀ m ∈ before, ∀ d, m ≠ n → s.store.entry m = some d →
            d.level < e.level - 1 ∨ (d.level = e.level - 1 ∧ d.admission ≤ e.admission)) ∧
          (∀ m ∈ after.head?, ∀ d, m ≠ n → s.store.entry m = some d →
            e.level - 1 < d.level ∨ (e.level - 1 = d.level ∧ e.admission < d.admission))))) ∧
  (∀ (s : State) (p : Placed) (f : Frame), s.assembler.openFrame = some f → ∃ g : Frame,
    s.displace p = ((({ s with assembler := { s.assembler with openFrame := some g } } : State).fileQuietly p.entry).countAssembly
      (fun c => { c with displacements := c.displacements + 1 })) ∧
    g = { f with placed := f.placed.filter (fun q => decide (q.entry ≠ p.entry)), blocks := g.blocks } ∧
    (∀ z, z < 16 → g.block z = f.block z - (if ZoneSet.has p.zones z then p.size else 0))) ∧
  (∀ s : State,
    let t := s.timer
    let wraps : Prop := t.running.length ≤ t.frameNumber + 2
    (∃ f : Frame, s.openAndWalk = (Table.get [] s.assembler.queues f.number).foldl (fun u n => u.tryEntry false none n)
        { s with assembler := { s.assembler with openFrame := some f } } ∧
      f.launch = t.frameCount + 2 ∧ f.placed = [] ∧ f.blocks = [] ∧ f.tally = [] ∧
      (¬wraps → f.number = t.frameNumber + 2 ∧ f.cycle = t.cycle) ∧
      (wraps → f.number = t.frameNumber + 2 - t.running.length ∧ f.cycle = t.cycle + 1)) ∧
    (∀ n e f, s.store.entry n = some e → s.assembler.openFrame = some f →
      let arrives : Prop := s.link.partState ≠ .restarting ∧ f.cycle ≤ e.expiryCycle ∧
        f.number = (s.cache.addressBase.getD 0 + e.sub) % t.lengthInForce;
      (arrives → s.file n = (s.fileQuietly n).tryEntry true none n) ∧ (¬arrives → s.file n = s.fileQuietly n))) ∧
  (∀ (s : State) (sub : Nat) (r : Record),
    let a := s.assembler
    let left : State := { s with assembler := { a with missSkip := a.missSkip.filter (fun m => decide (m.sub ≠ sub)) } };
    (a.openFrame = none → s.readyReport sub r = left) ∧
    (∀ f, a.openFrame = some f → s.readyReport sub r = ((Table.get [] a.queues f.number).filter (fun n =>
        a.missSkip.any (fun m => m.sub == sub && m.entry == n && m.launch == f.launch))).foldl
          (fun u n => u.tryEntry true (some r) n) left))

/-! ### Records and the Record Cache -/

/-- Record memory keeps what is written, in the layout of 12.3. A record whose fields are in range reads back as written; whatever is
written, its check word passes, its offsets 34 to 61 hold 0, every byte outside its 64 stays, so every other record reads as before, and
the canonical form of memory is kept. Any 64 bytes whose check word fails, or whose offsets 0 to 11 hold a value the table does not list,
read as no record, a record fault; any others read as the record whose fields stand at the offsets of 12.3, whatever offsets 34 to 61
hold: nonzero bytes there are no fault. A field of several bytes has its most significant byte first, in every layout of chapter 12
(R24, R25, R27, R171, R172; the form of memory is the model's, log 5). -/
def Obligations.RecordsReadBack : Prop :=
  let fields : List Host.Cell → Nat → Nat → Nat → Nat := fun m n => Bytes.field ((List.range 64).map (fun i => Memory.read m (n * 64 + i)))
  let good : List Host.Cell → Nat → Prop := fun m n =>
    (Bytes.crc16 ((List.range 62).map (fun i => Memory.read m (n * 64 + i)))).toNat = fields m n 62 2;
  (∀ (bs : List Byte) (i w : Nat), Bytes.field bs i w = ((bs.drop i).take w).foldl (fun n b => n * 256 + b.toNat) 0) ∧
  (∀ (m : List Host.Cell) (n : Nat) (r : Record),
    (r.legal → Memory.readRecord (Memory.writeRecord m n r) n = some r) ∧
    good (Memory.writeRecord m n r) n ∧
    (∀ i, 34 ≤ i → i < 62 → Memory.read (Memory.writeRecord m n r) (n * 64 + i) = 0) ∧
    (∀ a, a < n * 64 ∨ n * 64 + 64 ≤ a → Memory.read (Memory.writeRecord m n r) a = Memory.read m a) ∧
    (∀ k, k ≠ n → Memory.readRecord (Memory.writeRecord m n r) k = Memory.readRecord m k) ∧
    (Memory.wf m = true → Memory.wf (Memory.writeRecord m n r) = true)) ∧
  (∀ (m : List Host.Cell) (n : Nat),
    let at_ : Nat → Nat → Nat := fields m n
    let listed : Prop := at_ 0 1 < 3 ∧ at_ 1 1 < 2 ∧ at_ 2 1 < 64 ∧ at_ 3 1 < 3 ∧ at_ 4 1 < 2 ∧ at_ 5 1 < 16 ∧
      (at_ 6 1 < 16 ∨ at_ 6 1 = 255) ∧ at_ 7 1 < 16 ∧ at_ 9 1 < 2 ∧ at_ 10 1 < 2 ∧ at_ 11 1 < 33;
    (¬good m n ∨ ¬listed → Memory.readRecord m n = none) ∧
    (∀ status account capability mode, good m n → listed →
      [SubStatus.active, .suspended, .closed][at_ 0 1]? = some status → [AccountKind.postpaid, .prepaid][at_ 1 1]? = some account →
      [Capability.toneOnly, .numeric, .text][at_ 3 1]? = some capability → [ReplyMode.twoWay, .oneWay][at_ 4 1]? = some mode →
      Memory.readRecord m n = some
        { host := { status, account, plan := at_ 2 1, capability, mode, homeZone := at_ 5 1 }
          lastZone := if at_ 6 1 = 255 then none else some (at_ 6 1)
          airTag := BitVec.ofNat 4 (at_ 7 1), misses := at_ 8 1, unreachable := decide (at_ 9 1 = 1)
          exhausted := decide (at_ 10 1 = 1), live := at_ 11 1, nextProbe := BitVec.ofNat 32 (at_ 12 4), balance := at_ 16 4
          reserved := at_ 20 4, charges := at_ 24 4, period := BitVec.ofNat 16 (at_ 28 2), messages := at_ 30 2
          allowanceUsed := at_ 32 2 }))

/-- An access to a line rolls its record first where its period number is not the current period: period messages, allowance used and
period charges become 0 and the period number takes the current value, every other field staying, and the line is handled as by an
update; where it is, no record and no line changes. Then an update is handled by the write policy. THROUGH: the write is issued and the
line is CLEAN, count 0. DEFERRED: DIRTY, the count one more on a DIRTY line, stopping at 15, and 1 on any other. BOUNDED: the count is
raised the same way, and below the limit the line is DIRTY with it; at the limit or above the write-back is issued and the line is CASTING
with count 0. No other line changes (R28, R39, R40). What a posted update changes of the record, and nothing else of it: a placement the air
tag, and for an UNREACHABLE record the next probe cycle it carries (R70); a reverse item the last-known zone, the misses to 0 and
UNREACHABLE to clear (R99); a deadline miss the misses, one more but at most 255, and it sets UNREACHABLE where they have come to U (R104).
-/
def Obligations.UpdatesRollAndFollowPolicy : Prop :=
  (∀ r : Record,
    (∀ tag, (Update.placement tag none).apply r = { r with airTag := tag }) ∧
    (∀ tag probe, (Update.placement tag (some probe)).apply r = { r with airTag := tag, nextProbe := probe }) ∧
    (∀ zone, (Update.reverseItem zone).apply r = { r with lastZone := some zone, misses := 0, unreachable := false }) ∧
    (∀ limit,
      let misses := if r.misses < 255 then r.misses + 1 else 255;
      (limit ≤ misses → (Update.deadlineMiss limit).apply r = { r with misses, unreachable := true }) ∧
      (misses < limit → (Update.deadlineMiss limit).apply r = { r with misses }))) ∧
  (∀ (c : Cache) (period : Word16) (n way : Nat),
    let d := c.access period n way
    let r := (c.line n way).record;
    (d.line n way).record = { r with
      period
      messages := if r.period = period then r.messages else 0
      allowanceUsed := if r.period = period then r.allowanceUsed else 0
      charges := if r.period = period then r.charges else 0 } ∧
    (r.period = period → d.lines = c.lines ∧ d.port = c.port) ∧
    (r.period ≠ period → d.lines = (c.change n way (Record.roll period)).lines ∧ d.port = (c.change n way (Record.roll period)).port) ∧
    d.lru = Table.set 0 c.lru (n % 256) (1 - way)) ∧
  (∀ (c : Cache) (n way : Nat) (f : Record → Record),
    let l := c.line n way
    let d := c.change n way f
    let m := d.line n way
    let raised := if l.state = .dirty then l.deferral + 1 else 1;
    m.record = f l.record ∧ m.tag = l.tag ∧
    (∀ k, k ≠ 2 * (n % 256) + way → Table.get {} d.lines k = Table.get {} c.lines k) ∧
    (c.policy = .through → m.state = .clean ∧ m.deferral = 0 ∧ d.port = c.port ++ [.throughWrite n m.record]) ∧
    (c.policy = .deferred → m.state = .dirty ∧ m.deferral = (if raised ≤ 15 then raised else 15) ∧ d.port = c.port) ∧
    (c.policy = .bounded → raised < c.limit → m.state = .dirty ∧ m.deferral = raised ∧ d.port = c.port) ∧
    (c.policy = .bounded → c.limit ≤ raised → m.state = .casting ∧ m.deferral = 0 ∧
      d.port = c.port ++ [.writeBack n m.record false]))

/-- A READ_SUB has its turn as the first request of its subscriber in the queue, with no hold on it and no sweep that it waits for, unless
its memory read is out or the fill it has joined is in flight; without a turn READ_SUB_SERVED changes nothing (log 1). It answers from the
line that holds its subscriber, with the record as rolled, its state and its count; finds a fill in flight, joins it and answers from its
line; or issues a memory read, whose record is answered as rolled and not written. A WRITE_SUB or REPAIR_SUB in its turn waits for a fill in
flight. Then a WRITE_SUB reads its record from memory, replaces the six host-owned fields there and in a line that holds it, and issues the
write. A REPAIR_SUB in its turn is BUSY if a live entry names its subscriber; otherwise its record, the part-owned fields those of R25, goes
into the line, CLEAN with count 0, and is written. No other line changes. Where an order goes on, it takes its next phase in its place in the
queue and every other request stays; where it is answered, it alone leaves the queue. A host write that has been carried out answers OK. A
read from memory whose check word fails is answered RECORD_FAULT, and is then counted and gives a RECORD_FAULT notice. Each of these
completions finds its operation at the head of the port or behind default writes of a sweep in progress, and reads and leaves memory with
those written (R25, R27, R30, R31, R36, R42 to R44; that a WRITE_SUB leaves the LRU mark, that its RECORD_FAULT reply is made before its
notice, and that default writes end in silence, are the model's, logs 44, 59 and 11). -/
def Obligations.HostRecordOrdersCarriedOut : Prop :=
  (∀ (host : HostFields) (balance : Nat) (period : Word16), Record.fresh host balance period =
    { host, lastZone := none, airTag := 0, misses := 0, unreachable := false, exhausted := false, live := 0, nextProbe := 0, balance
      reserved := 0, charges := 0, period, messages := 0, allowanceUsed := 0 }) ∧
  (∀ (t : Store) (n : Nat), t.names n = true ↔ ∃ k e, t.entry k = some e ∧ e.sub = n) ∧
  (∀ (c : Cache) (n : Nat) (kind : RequestKind) (before after : List Request) (q : Request), c.queue = before ++ q :: after →
    q.sub = n → (∀ x ∈ before, x.sub ≠ n) → c.changeFront n kind = { c with queue := before ++ { q with kind } :: after }) ∧
  (∀ (s : State) (n place : Nat),
    let c := s.cache
    (s.readSubTurn n = some place ↔ ∃ (before after : List Request) (q : Request), c.queue = before ++ q :: after ∧ q.sub = n ∧
      (∀ x ∈ before, x.sub ≠ n) ∧ n ∉ c.holds ∧
      ¬(q.behindSweep = true ∧ ∃ p next last written, c.sweep = some (.records p next last written) ∧ next ≤ n ∧ n ≤ last) ∧
      (q.kind = .readSub place .posted ∨ (q.kind = .readSub place .joined ∧ c.filling n = false))) ∧
    (n < 262144 → s.readSubTurn n = none → exec (.readSubServed n) s = .next s)) ∧
  ∀ (s : State) (n place : Nat), n < 262144 →
    let counted : CacheCounts := { s.cache.counts with hostReadFaults := s.cache.counts.hostReadFaults + 1 }
    let unqueued := s.cache.queue.eraseP (fun q => q.sub == n)
    let answered : List PortOp → List Host.Cell → State := fun rest mem =>
      { s with mem, cache := { s.cache with port := rest, queue := unqueued } }
    let faulted : List PortOp → List Host.Cell → FaultSource → State := fun rest mem source =>
      let replied := (answered rest mem).reply place .recordFault .none;
      (({ replied with cache := { replied.cache with counts := counted } } : State).notice (.recordFault n source)).settleDown
    let front : RequestKind → Prop := fun kind => ∃ q, s.cache.front n = some q ∧ q.kind = kind;
    (s.readSubTurn n = some place →
      (∀ way, s.cache.onChip n = some way → ∃ c : Cache, HeldUpdate s.cache c n way ((s.cache.line n way).record.roll s.charging.period) ∧
        exec (.readSubServed n) s = .next ((({ s with cache := c } : State).reply place .ok (.record .line (c.line n way).state
          (c.line n way).deferral ((s.cache.line n way).record.roll s.charging.period))).settleDown)) ∧
      (s.cache.onChip n = none → s.cache.filling n = true → exec (.readSubServed n) s =
        .next (({ s with cache := s.cache.changeFront n (.readSub place .joined) } : State).settleDown)) ∧
      (s.cache.onChip n = none → s.cache.filling n = false → exec (.readSubServed n) s =
        .next (({ s with cache := (s.cache.changeFront n (.readSub place .reading)).issue (.hostRead n) } : State).settleDown))) ∧
    (∀ rest mem, s.PortComesTo (.hostRead n) rest mem → front (.readSub place .reading) →
      (∀ r, Memory.readRecord mem n = some r → exec .hostReadDone s = .next (((answered rest mem).reply place .ok
        (.record .memory .invalid 0 (r.roll s.charging.period))).settleDown)) ∧
      (Memory.readRecord mem n = none → exec .hostReadDone s = .next (faulted rest mem .hostRead))) ∧
    (∀ rest mem host, s.PortComesTo (.hostWriteRead n) rest mem → front (.writeSub place host .reading) →
      (∀ r, Memory.readRecord mem n = some r → ∃ c : Cache,
        exec .writeSubReadDone s = .next (({ s with mem, cache := c } : State).settleDown) ∧
        c = { s.cache with
          lines := c.lines, queue := (s.cache.changeFront n (.writeSub place host .writing)).queue
          port := rest ++ [.hostWrite n { r with host }] } ∧
        (∃ q, c.front n = some q ∧ q.kind = .writeSub place host .writing) ∧
        (∀ way, s.cache.onChip n = some way →
          c.line n way = { s.cache.line n way with record := { (s.cache.line n way).record with host } }) ∧
        (∀ k, (∀ way, s.cache.onChip n = some way → k ≠ 2 * (n % 256) + way) →
          Table.get {} c.lines k = Table.get {} s.cache.lines k)) ∧
      (Memory.readRecord mem n = none → exec .writeSubReadDone s = .next (faulted rest mem .hostWrite))) ∧
    (∀ rest mem r host balance, s.PortComesTo (.hostWrite n r) rest mem →
      front (.writeSub place host .writing) ∨ front (.repairSub place host balance .writing) →
      exec .hostWriteDone s = .next (((answered rest (Memory.writeRecord mem n r)).reply place .ok .none).settleDown)) ∧
    (∀ q, s.cache.front n = some q → n ∉ s.cache.holds → s.cache.waitsForSweep q = false →
      (∀ way, q.kind = .readSub place .joined → s.cache.onChip n = some way → ∃ c : Cache,
        HeldUpdate s.cache c n way ((s.cache.line n way).record.roll s.charging.period) ∧
        s.serveFront n = some (({ s with cache := c } : State).reply place .ok (.record .line (c.line n way).state
          (c.line n way).deferral ((s.cache.line n way).record.roll s.charging.period)))) ∧
      (∀ host, q.kind = .writeSub place host .waiting →
        (s.cache.filling n = true → s.serveFront n = none) ∧
        (s.cache.filling n = false → s.serveFront n = some { s with cache :=
          (s.cache.changeFront n (.writeSub place host .reading)).issue (.hostWriteRead n) })) ∧
      (∀ host balance, q.kind = .repairSub place host balance .waiting →
        (s.cache.filling n = true → s.serveFront n = none) ∧
        (s.cache.filling n = false → s.serveFront n = some (s.beginRepair place n host balance)))) ∧
    (∀ host balance, s.store.names n = true →
      s.beginRepair place n host balance = (answered s.cache.port s.mem).reply place .busy .none) ∧
    (∀ host balance, s.store.names n = false → ∃ c : Cache, s.beginRepair place n host balance = { s with cache := c } ∧
      let r := Record.fresh host balance s.charging.period
      c = { s.cache with
        lines := c.lines, queue := (s.cache.changeFront n (.repairSub place host balance .writing)).queue
        port := s.cache.port ++ [.hostWrite n r] } ∧
      (∀ way, s.cache.onChip n = some way → c.line n way = { s.cache.line n way with state := .clean, deferral := 0, record := r }) ∧
      (∀ k, (∀ way, s.cache.onChip n = some way → k ≠ 2 * (n % 256) + way) →
        Table.get {} c.lines k = Table.get {} s.cache.lines k) ∧
      (s.cache.onChip n = none → c.lines = s.cache.lines))

/-- INIT_RECORDS in CONFIG, its range good and no sweep in progress, begins a sweep; with one in progress it is BUSY. In RUNNING and
RESTARTING it is refused WRONG_STATE, and in CONFIG with an index outside 0..262,143 or the first above the last BAD_VALUE. Each step, with
every earlier request of the next index served and no hold on it, empties a line that holds it, issues its default record, the fields those
of R24 and R25 with the current period, and moves on; otherwise it changes nothing. The requests of that index, in the queue or held at their
requesters, keep their order and wait for the sweep no more; with no line of it left, the first of them, a read or an update, asks for a
fill. Every other request stays and waits for the sweep as it did. A default record before the last is written with the operation that
completes next behind it: whatever completes at the port finds each default record ahead of it written to memory, in the port's order, and
while default records before the last stand there alone, nothing completes. When the write of the last index has been carried out, those
ahead of it with it, the sweep ends and the reply gives the records written (R24, R25, R36, R45; that the writes before it end in silence,
that a request held at its requester is an earlier request, and that the step otherwise changes nothing are the model's, logs 11, 37 and 1).
-/
def Obligations.InitRecordsSweeps : Prop :=
  HostFields.default =
    { status := .closed, account := .postpaid, plan := 0, capability := .toneOnly, mode := .oneWay, homeZone := 0 } ∧
  (∀ (host : HostFields) (balance : Nat) (period : Word16), Record.fresh host balance period =
    { host, lastZone := none, airTag := 0, misses := 0, unreachable := false, exhausted := false, live := 0, nextProbe := 0, balance
      reserved := 0, charges := 0, period, messages := 0, allowanceUsed := 0 }) ∧
  (∀ (s t : State) (place : Nat) (body : List Byte) (first last : Nat), s.takeOrder .initRecords = some (place, body, t) →
    t.link.partState = .config → Operands.initRecords body = some (first, last) →
    (t.cache.sweep = none → exec .initRecords s =
      .next { t with cache := { t.cache with sweep := some (.records place first last 0) } }) ∧
    (t.cache.sweep ≠ none → exec .initRecords s = .next (t.reply place .busy .none))) ∧
  (∀ (s t : State) (place : Nat) (body : List Byte), s.takeOrder .initRecords = some (place, body, t) →
    let first := Bytes.field body 0 3
    let last := Bytes.field body 3 3
    let wrong : Prop := 262144 ≤ first ∨ 262144 ≤ last ∨ last < first;
    (t.link.partState ≠ .config → exec .initRecords s = .next (t.reply place .wrongState .none)) ∧
    (t.link.partState = .config → wrong → exec .initRecords s = .next (t.reply place .badValue .none)) ∧
    (¬wrong → Operands.initRecords body = some (first, last))) ∧
  (∀ (s : State) (place next last written : Nat), s.cache.sweep = some (.records place next last written) →
    let ready : Prop := next ≤ last ∧ next ∉ s.cache.holds ∧
      ∀ q ∈ s.cache.queue ++ s.cache.heldRequests, q.sub = next → q.behindSweep = true
    let passed : Request → Request := fun q => if q.sub = next then { q with behindSweep := false } else q
    let onlyHolder : Prop := ∀ way, way < 2 → (s.cache.line next way).state ≠ .invalid → (s.cache.line next way).tag = next / 256 →
      s.cache.onChip next = some way;
    (ready → ∃ c : Cache, exec .initRecordWrite s = .next (({ s with cache := c } : State).settleDown) ∧
      c = { s.cache with
        lines := c.lines, queue := s.cache.queue.map passed, heldRequests := s.cache.heldRequests.map passed
        port := s.cache.port ++ [.initWrite next (Record.fresh HostFields.default 0 s.charging.period) (decide (next = last))]
        sweep := some (.records place (next + 1) last (written + 1)) } ∧
      (∀ q, c.waitsForSweep q = (decide (q.sub ≠ next) && s.cache.waitsForSweep q)) ∧
      (onlyHolder → c.holder next = none ∧
        ∀ q, c.front next = some q → q.kind.isHostOrder = false → c.wantsMiss q = true) ∧
      (∀ way, s.cache.onChip next = some way → (c.line next way).state = .invalid) ∧
      (∀ k, (∀ way, s.cache.onChip next = some way → k ≠ 2 * (next % 256) + way) →
        Table.get {} c.lines k = Table.get {} s.cache.lines k)) ∧
    (¬ready → exec .initRecordWrite s = .next s)) ∧
  (∀ (s t : State) (op : PortOp), s.completion = some (op, t) ↔ (∀ n r, op ≠ .initWrite n r false) ∧
    ∃ (ahead : List (Nat × Record)) (rest : List PortOp), (∀ d ∈ ahead, d.1 < 262144) ∧
      s.cache.port = ahead.map (fun d => .initWrite d.1 d.2 false) ++ op :: rest ∧
      t = { s with
        mem := ahead.foldl (fun m d => Memory.writeRecord m d.1 d.2) s.mem, cache := { s.cache with port := rest } }) ∧
  (∀ (s : State) (ahead : List (Nat × Record)), s.cache.port = ahead.map (fun d => .initWrite d.1 d.2 false) → s.completion = none) ∧
  (∀ (s : State) (n place next last written : Nat) (r : Record) (rest : List PortOp) (mem : List Host.Cell), n < 262144 →
    s.PortComesTo (.initWrite n r true) rest mem → s.cache.sweep = some (.records place next last written) →
    exec .initRecordsDone s = .next ((({ s with
      mem := Memory.writeRecord mem n r, cache := { s.cache with port := rest, sweep := none } } : State).reply place .ok
        (.swept written)).settleDown))

/-- FLUSH outside RESTARTING begins a sweep of the lines, or is BUSY while a sweep is in progress. Each visit takes the next of the 512
lines: a DIRTY one is written back, becomes CASTING with count 0 and is counted, and any other is left alone. When all are visited and
the last of the sweep's write-backs is carried out, the sweep ends and the reply gives the lines written (R46; that FLUSH_DONE carries out
that last write-back itself, or ends a sweep that has none outstanding, is the model's reading, log 12). -/
def Obligations.FlushWritesDirtyLines : Prop :=
  (∀ (s t : State) (place : Nat) (body : List Byte), s.takeOrder .flush = some (place, body, t) → t.link.partState ≠ .restarting →
    (t.cache.sweep = none → exec .flush s = .next { t with cache := { t.cache with sweep := some (.lines (some place) 0 0 0) } }) ∧
    (t.cache.sweep ≠ none → exec .flush s = .next (t.reply place .busy .none))) ∧
  (∀ (s : State) (place : Option Nat) (next written out : Nat), s.cache.sweep = some (.lines place next written out) → next < 512 →
    let l := Table.get {} s.cache.lines next;
    (l.state = .dirty → exec .flushVisit s = .next (({ s with cache := { s.cache with
      lines := Table.set {} s.cache.lines next { l with state := .casting, deferral := 0 }
      port := s.cache.port ++ [.writeBack (l.tag * 256 + next / 2) l.record true]
      counts := { s.cache.counts with memoryWrites := s.cache.counts.memoryWrites + 1 }
      sweep := some (.lines place (next + 1) (written + 1) (out + 1)) } } : State).settleDown)) ∧
    (l.state ≠ .dirty → exec .flushVisit s =
      .next (({ s with cache := { s.cache with sweep := some (.lines place (next + 1) written out) } } : State).settleDown))) ∧
  (∀ (s : State) (place next written : Nat), 512 ≤ next →
    (s.cache.sweep = some (.lines (some place) next written 0) → exec .flushDone s =
      .next ((({ s with cache := { s.cache with sweep := none } } : State).reply place .ok (.swept written)).settleDown)) ∧
    (∀ n r rest, n < 262144 → s.cache.sweep = some (.lines (some place) next written 1) →
      s.cache.port = .writeBack n r true :: rest →
      let ended := ({ s.cache with port := rest } : Cache).endWriteBack n
      exec .flushDone s = .next ((({ s with
        mem := Memory.writeRecord s.mem n r, cache := { ended with sweep := none } } : State).reply place .ok
          (.swept written)).settleDown)))

/-- The completions of the record memory port. A fill whose check word passes installs its record in its way, CLEAN with count 0, its
place of the miss list is freed and the set's LRU mark names the other way; one that fails empties the way, is counted, gives a
RECORD_FAULT notice and answers its waiters in their order; a request that waits for its subscriber's default record to be written by
INIT_RECORDS is none of them (R45). What a waiter receives: the order of an intake read, of a money order or of a READ_SUB is answered
RECORD_FAULT, a group member is refused with it, the entries that wait for a touch leave their queues and settle FAULTED, the head of the
settle list settles FAULTED without charge, a reach read is answered RECORD_FAULT, and an update is discarded and counted (R38, R131).
A castout and a through write put their record in memory and change no line.
A write-back puts its record in memory, a line still CASTING becomes CLEAN if no later write-back of it is in flight, and one of a sweep
is outstanding no more (the one that ends a sweep is FLUSH_DONE's or RESTART_COMPLETE's). Each completion finds its operation at the head
of the port or behind default writes of an INIT_RECORDS in progress, and reads and leaves memory with those written. (R35 to R40, R45, R46;
who waits on a fill, and that default writes end in silence, are the model's readings, logs 22 and 11.) -/
def Obligations.PortCompletionsCarriedOut : Prop :=
  (∀ (s : State) (n : Nat) (rest : List PortOp) (mem : List Host.Cell), n < 262144 →
    let c : Cache := { s.cache with port := rest }
    let written : Record → Cache → State := fun r d => { s with mem := Memory.writeRecord mem n r, cache := d };
    (∀ way r, s.PortComesTo (.fill n way) rest mem → Memory.readRecord mem n = some r → exec .fillDone s =
      .next (({ s with mem, cache := { c with
        fills := c.fills.filter (fun f => decide (f.sub ≠ n))
        lines := Table.set {} c.lines (2 * (n % 256) + way) { state := .clean, tag := n / 256, deferral := 0, record := r }
        lru := Table.set 0 c.lru (n % 256) (1 - way) } } : State).settleDown)) ∧
    (∀ way, s.PortComesTo (.fill n way) rest mem → Memory.readRecord mem n = none →
      let ahead : Bool := match s.cache.sweep with
        | some (.records _ next last _) => decide (next ≤ n) && decide (n ≤ last)
        | _ => false
      let waits : Request → Bool := fun q => q.sub == n && !(q.behindSweep && ahead) && (match q.kind with
        | .writeSub .. => false
        | .repairSub .. => false
        | _ => true)
      let failed := ({ s with mem, cache := { c with
        fills := c.fills.filter (fun f => decide (f.sub ≠ n))
        lines := Table.set {} c.lines (2 * (n % 256) + way) {}
        queue := c.queue.filter (fun q => !waits q)
        counts := { c.counts with fillFaults := c.counts.fillFaults + 1 } } } : State).notice (.recordFault n .fill)
      exec .fillDone s = .next (((c.queue.filter waits).foldl State.failWaiter failed).settleDown)) ∧
    (∀ r, s.PortComesTo (.castout n r) rest mem → exec .castoutDone s = .next (written r c)) ∧
    (∀ r, s.PortComesTo (.throughWrite n r) rest mem → exec .throughWriteDone s = .next (written r c)) ∧
    (∀ r bySweep, s.PortComesTo (.writeBack n r bySweep) rest mem →
      ¬(bySweep = true ∧ ∃ place next lines out, s.cache.sweep = some (.lines place next lines out) ∧ 512 ≤ next ∧ out ≤ 1) →
      let left : Option Sweep := match s.cache.sweep, bySweep with
        | some (.lines place next lines out), true => some (.lines place next lines (out - 1))
        | sweep, _ => sweep
      ∃ d : Cache, d = { c with lines := d.lines, sweep := left } ∧ exec .writeBackDone s = .next (written r d).settleDown ∧
        (∀ way, c.onChip n = some way → (c.line n way).state = .casting → (∀ r' b, PortOp.writeBack n r' b ∉ rest) →
          d.line n way = { c.line n way with state := .clean } ∧
            ∀ k, k ≠ 2 * (n % 256) + way → Table.get {} d.lines k = Table.get {} c.lines k) ∧
        (¬(∃ way, c.onChip n = some way ∧ (c.line n way).state = .casting ∧ ∀ r' b, PortOp.writeBack n r' b ∉ rest) →
          d.lines = c.lines))) ∧
  (∀ (u : State) (r : Request),
    let t := u.failWaiter r;
    (r.kind = .intakeRead ∨ r.kind = .memberRead →
      (∀ place sub m, u.intake.order = some (.submit place sub m) →
        t = ({ u with intake := { u.intake with order := none } } : State).reply place .recordFault .none) ∧
      (∀ g, u.intake.order = some (.group g) → t = u.refuseMember g .recordFault)) ∧
    (r.kind = .touch →
      let queued : List Nat := (List.range 128).flatMap (fun j => Table.get [] u.assembler.queues j)
      let skipped : Nat → Bool := fun k => u.assembler.missSkip.any (fun m => decide (m.sub = r.sub) && decide (m.entry = k))
      t = (queued.filter skipped).foldl (fun v k => (v.leaveQueue k).settle k .faulted 0) { u with assembler := { u.assembler with
        missSkip := u.assembler.missSkip.filter (fun m => decide (m.sub ≠ r.sub)) } }) ∧
    (r.kind = .settlementRead → ∀ el rest e, u.charging.head = .record → u.charging.settleList = el :: rest →
      u.store.entry el.entry = some e →
      let faulted : Entry := { e with outcome := some .faulted, replyCode := some 0 }
      t = ({ u with store := u.store.setEntry el.entry (some faulted) } : State).finishSettlement el faulted
        { charge := 0, deducted := 0, shortfall := 0, within := false } none) ∧
    (∀ entry admission attempts, r.kind = .reachRead entry admission attempts → t = { u with retry := { u.retry with
      answers := u.retry.answers ++ [{ entry, admission, attempts, unreachable := false, nextProbe := 0, fault := true }] } }) ∧
    (r.kind = .topUpRead ∨ r.kind = .adjustRead → ∀ place sub,
      (∃ amount, u.charging.order = some (.topUp place sub amount)) ∨ (∃ amount, u.charging.order = some (.adjust place sub amount)) →
      t = ({ u with charging := { u.charging with order := none } } : State).reply place .recordFault .none) ∧
    (∀ place phase, r.kind = .readSub place phase → t = u.reply place .recordFault .none) ∧
    (∀ w, r.kind = .update w → t = { u with cache := { u.cache with
      counts := { u.cache.counts with discardedUpdates := u.cache.counts.discardedUpdates + 1 } } }))

/-! ### Part states -/

/-- Power-on gives every unit its power-on values, samples the host link's line rate from the pins (R157) and, as the model reads it, the
zone links' too (R83 says only that pins select it; log 39), keeps record memory as found and the commands still to come. The values are
those the manual's tables name: CONFIG, timer STOPPED with length 32, ack delay 2 and the INTERNAL source at 1,200 ms, host level 3 with
congestion control ON, congestion level 3, BOUNDED with limit 4, no address base, U 6 and P 16, the retry policy table, detect and notice ON
for all five conditions, SERVICE_LOSS for UNTAKEN, REV_SILENT and REF_UNLOCK and ADVISORY for the other two, T 3 and S 8, every zone
UNCONFIGURED, every plan the default plan, selection ALL, numbers from 1, every line INVALID with count 0 and every LRU mark naming way 0,
both free lists full in ascending order, taken from the head and returned to the tail, and every count, list and queue of every unit 0 or
empty, each of them named (R4, R167, the tables of R18, R47, R48, R63, R85, R96, R112, R113, R117, R135, R147, R153 and R166, and the counts
of R81, R95, R116, R132 and R146). The stored memory is the model's (log 5), and so is the form that holds a free list (log 34). -/
def Obligations.PowerOnValues : Prop :=
  let slots : FreeList → List Nat := fun f => List.range' f.next (f.size - f.next) ++ f.returned
  let plan : Plan :=
    { base := 0, block := 0, retry := 0, priority := [16, 16, 16, 16], group := 16, expiry := 0, cap := 16777215, allowance := 0 };
  (∀ f : FreeList, (f.take = none ↔ slots f = []) ∧ (∀ n g, f.take = some (n, g) → slots f = n :: slots g) ∧
    (∀ n, slots (f.give n) = slots f ++ [n])) ∧
  (∀ (s : State) (host zone : Nat), 115200 ≤ host → host ≤ 3000000 → 115200 ≤ zone → zone ≤ 3000000 →
    exec (.powerOn host zone) s = .next { State.reset with
      pending := s.pending, mem := s.mem, link := { State.reset.link with lineRate := host }
      zoneLinks := { State.reset.zoneLinks with lineRate := zone } }) ∧
  (let s := State.reset;
    s.link.partState = .config ∧ s.link.receiver = .hunting ∧ s.link.nextNotice = 1 ∧ s.link.orders = [] ∧ s.link.notices = [] ∧
    s.intake.hostLevel = 3 ∧ s.intake.congestionControl = true ∧ s.intake.holdList = [] ∧
    s.store.congestion = 3 ∧ s.store.occupancy = 0 ∧ s.store.nextMessage = 1 ∧ s.store.nextAdmission = 1 ∧
    (∀ n, s.store.entry n = none ∧ s.store.body n = none ∧ Table.get [] s.store.groups n = []) ∧
    s.cache.policy = .bounded ∧ s.cache.limit = 4 ∧ s.cache.addressBase = none ∧ (∀ n, s.cache.lruWay n = 0) ∧
    (∀ n way, (s.cache.line n way).state = .invalid ∧ (s.cache.line n way).deferral = 0) ∧
    s.timer.state = .stopped ∧ s.timer.running = { length := 32, ackDelay := 2, source := { kind := .internal, nominal := 1200 } } ∧
    s.timer.frameCount = 0 ∧ s.timer.cycle = 0 ∧ s.timer.staged = {} ∧
    (∀ k, s.assembler.queue k = []) ∧ s.assembler.openFrame = none ∧ s.zoneLinks.reverseQueue = [] ∧
    (∀ z, (s.zoneLinks.zone z).offer = .idle ∧ (s.zoneLinks.zone z).launch = none ∧ (s.zoneLinks.zone z).pages = 0 ∧
      (s.zoneLinks.zone z).reference = .unknown ∧ (s.zoneLinks.zone z).lastWindow = none ∧
      (s.zoneLinks.zone z).counts = ⟨0, 0, 0, 0, 0, 0, 0, 0, 0, 0, 0, 0, 0, 0, 0, 0⟩) ∧
    (∀ z, (s.monitor.zone z).state = .unconfigured ∧ (s.monitor.zone z).neighbours = 0 ∧ (s.monitor.zone z).faults = 0 ∧
      (s.monitor.zone z).untakenRun = 0 ∧ (s.monitor.zone z).silence = 0 ∧ (s.monitor.zone z).arrival = false ∧
      (s.monitor.zone z).untakenDue = false ∧ (s.monitor.zone z).silentDue = false ∧
      (s.monitor.zone z).occurrences = ⟨0, 0, 0, 0, 0⟩) ∧
    s.link.inBreak = false ∧ s.link.taken = [] ∧ s.link.ready = [] ∧ s.link.sending = .idle ∧ s.link.restart = none ∧
    s.link.counts = ⟨0, 0, 0, 0, 0, 0, 0, 0, 0, 0, 0, 0, 0, 0, 0, 0, ⟨0, 0, 0, 0, 0, 0, 0⟩⟩ ∧
    s.intake.order = none ∧ s.store.setAside = 0 ∧ s.store.freeBodies.length = 4096 ∧ s.store.freeEntries.length = 16384 ∧
    slots s.store.freeBodies = List.range 4096 ∧ slots s.store.freeEntries = List.range 16384 ∧
    s.store.poolFree = 16384 ∧ (∀ n, Table.get none s.store.unfinished n = none) ∧
    s.cache.queue = [] ∧ s.cache.heldRequests = [] ∧ s.cache.fills = [] ∧ s.cache.holds = [] ∧ s.cache.port = [] ∧
    s.cache.sweep = none ∧ s.cache.counts = ⟨0, 0, 0, 0, 0, 0⟩ ∧
    s.timer.frameNumber = 0 ∧ s.timer.lengthInForce = 32 ∧ s.timer.coming = none ∧ s.timer.ignored = 0 ∧ s.timer.early = 0 ∧
    s.timer.holds = 0 ∧ s.assembler.missSkip = [] ∧ s.assembler.offered = none ∧
    s.assembler.counts = ⟨0, 0, 0, 0, 0, 0, 0, 0, 0⟩ ∧ s.zoneLinks.unattributed = 0 ∧ s.zoneLinks.sent = [] ∧
    s.monitor.summary = 0 ∧ s.monitor.first = none ∧
    s.retry.awaitSet = [] ∧ s.retry.list = [] ∧ s.retry.horizon = 0 ∧ s.retry.announced = [] ∧ s.retry.answers = [] ∧
    s.retry.counts = ⟨0, 0, 0, 0, 0, 0, 0, 0, 0, 0, 0, 0, 0⟩ ∧
    s.charging.head = .idle ∧ s.charging.order = none ∧ s.charging.counts = ⟨0, 0, 0, 0, 0⟩ ∧
    (∀ n, s.charging.pendingPlan n = { plan, mark := false }) ∧
    s.log.setAside = false ∧ s.log.waiting = false ∧ s.log.lastReturned = 0 ∧ s.log.greatest = 0 ∧
    s.log.counts = ⟨0, 0, 0, 0, 0, 0, 0⟩ ∧
    (let severity : Severity → ConditionSetting := fun v => { detect := true, notice := true, severity := v };
      s.monitor.settings.conditions =
        { untaken := severity .serviceLoss, fwdFrameError := severity .advisory, revFrameError := severity .advisory
          revSilent := severity .serviceLoss, refUnlock := severity .serviceLoss }) ∧
    s.monitor.settings.untakenLimit = 3 ∧ s.monitor.settings.silenceLimit = 8 ∧
    s.retry.missLimit = 6 ∧ s.retry.probeInterval = 16 ∧ s.retry.policy.map PolicyRow.maxAttempts = [7, 5, 4, 3] ∧
    s.retry.policy.map PolicyRow.backoff =
      [[0, 0, 0, 0, 0, 0], [0, 1, 2, 4, 8, 8], [1, 2, 4, 8, 8, 8], [4, 8, 15, 15, 15, 15]] ∧
    s.retry.policy.map PolicyRow.lifetime = [64, 256, 1024, 4096] ∧ s.retry.policy.map PolicyRow.repeats = [3, 2, 2, 1] ∧
    s.charging.period = 0 ∧ s.charging.settleList = [] ∧ (∀ n, s.charging.activePlan n = plan) ∧
    s.log.records = [] ∧ s.log.nextSequence = 1 ∧ s.log.high = .armed ∧ s.log.selection = .all) ∧
  (let s := State.reset;
    s.memoryLegal ∧ s.timerLegal ∧ s.queuesBounded ∧ s.settingsLegal ∧ s.monitor.legal ∧ s.logLegal ∧ s.entriesLegal)

/-- START and RESTART are checked in order when taken. START in CONFIG, with the address base set, a zone in service and no INIT_RECORDS
sweep, makes the part RUNNING: the timer runs from frame count, frame number and cycle number 0 under the settings held, the release horizon
is 0, and frame 0 is announced. RESTART in RUNNING with log room for every live entry and the one a submission may still create makes it
RESTARTING: the timer stops at frame number 0 with the coming and then the staged values made running; the frame queues and frames, the
await set, the retry list and what the Retry Unit had still to act on are emptied, and so is the hold list, at once or as soon as a
submission in progress has ended; all these entries settle CANCELLED, the miss-skip set is emptied, and the offers are withdrawn as at HOLD.
A refused RESTART gives the log places available and the live entries. With the store, the settle list and the Intake Unit empty and no
sweep, the restart sweep begins; when all its lines are visited, its last write-back, if one is outstanding, is carried out, the zone fault
state is cleared, the part is in CONFIG, and RESTART is answered OK (R61, R62, R80, R89, R114, R154, R156, R168 to R170). The order of the
units in RESTART is the model's (log 9), and so are its readings that what waits in the Retry Unit is dropped (log 39), that START is
announced as a frame start, its silence count among it (log 26), that RESTART_COMPLETE carries out that last write-back itself, or ends a
sweep with none outstanding (log 12), that the occurrences then still due are recorded before the fault state is cleared (log 13), and that
a step whose event cannot occur changes nothing (log 1). -/
def Obligations.PartStatesChange : Prop :=
  (∀ (s t : State) (place : Nat) (body : List Byte), s.takeOrder .start = some (place, body, t) →
    let served : Prop := ∃ z, z < 16 ∧ (t.monitor.zone z).state = .inService
    let initialising : Prop := ∃ p next last written, t.cache.sweep = some (.records p next last written)
    let begun : State := { t with
      link := { t.link with partState := .running }
      timer := { t.timer with
        state := .running, frameCount := 0, frameNumber := 0, cycle := 0, coming := none, lengthInForce := t.timer.running.length }
      retry := { t.retry with horizon := 0 } };
    (t.link.partState ≠ .config → exec .start s = .next (t.reply place .wrongState .none)) ∧
    (t.link.partState = .config → (t.cache.addressBase = none ∨ ¬served) → exec .start s = .next (t.reply place .badValue .none)) ∧
    (t.link.partState = .config → t.cache.addressBase ≠ none → served → initialising →
      exec .start s = .next (t.reply place .busy .none)) ∧
    (t.link.partState = .config → t.cache.addressBase ≠ none → served → ¬initialising →
      exec .start s = .next (((begun.announce none false).settleDown).reply place .ok
        (.started t.timer.running.length t.timer.running.ackDelay t.timer.running.source t.monitor.inService)))) ∧
  (∀ (s t : State) (place : Nat) (body : List Byte), s.takeOrder .restart = some (place, body, t) →
    let mayCreate : Nat := match t.intake.order with
      | some (.submit ..) => 1
      | some (.group _) => 1
      | _ => 0
    let places := 1024 - t.log.records.length
    let g := t.timer.staged
    let last := t.timer.coming.getD t.timer.running
    let running : Timing :=
      { length := g.length.getD last.length, ackDelay := g.ackDelay.getD last.ackDelay, source := g.source.getD last.source }
    let placed : Option Frame → List Nat := fun f => match f with
      | none => []
      | some f => f.placed.map Placed.entry
    let cancelled : List Nat := t.retry.awaitSet.map AwaitElement.entry ++ t.retry.list.map RetryElement.entry ++
      (if mayCreate = 0 then t.intake.holdList else []) ++ placed (t.assembler.offered.map OfferedFrame.frame) ++
      placed t.assembler.openFrame ++ (List.range 128).flatMap (fun k => Table.get [] t.assembler.queues k);
    (t.link.partState ≠ .running → exec .restart s = .next (t.reply place .wrongState (.noLogRoom places t.store.occupancy))) ∧
    (t.link.partState = .running → places < t.store.occupancy + mayCreate →
      exec .restart s = .next (t.reply place .logFull (.noLogRoom places t.store.occupancy))) ∧
    (t.link.partState = .running → t.store.occupancy + mayCreate ≤ places → ∃ u : State,
      exec .restart s = .next u.settleDown ∧ u.link.partState = .restarting ∧
      u.link.restart = some { place, settledBefore := t.charging.counts.ended } ∧
      u.timer = { t.timer with
        state := .stopped, running, staged := {}, coming := none, lengthInForce := running.length, frameNumber := 0 } ∧
      u.intake.holdList = (if mayCreate = 0 then [] else t.intake.holdList) ∧ (∀ k, u.assembler.queue k = []) ∧
      u.assembler.openFrame = none ∧ u.assembler.offered = none ∧ u.assembler.missSkip = [] ∧ u.zoneLinks = t.zoneLinks.withdrawAll ∧
      u.retry.awaitSet = [] ∧ u.retry.list = [] ∧ u.retry.announced = [] ∧
      u.charging.settleList = t.charging.settleList ++ cancelled.map (fun n => { entry := n, outcomeCycle := t.timer.cycle }) ∧
      (∀ n ∈ cancelled, ∀ e, t.store.entry n = some e →
        u.store.entry n = some { e with state := .settling, outcome := some .cancelled, replyCode := some 0 }) ∧
      (∀ n, n ∉ cancelled → u.store.entry n = t.store.entry n))) ∧
  (∀ s : State, s.link.partState = .restarting → s.intake.mayCreate = 0 →
    let cancelled := s.intake.holdList.foldl (fun u n => u.settle n .cancelled 0) s
    s.settleDown = ({ cancelled with intake := { cancelled.intake with holdList := [] } } : State).settleDown) ∧
  (∀ s : State,
    let drained : Prop := s.link.partState = .restarting ∧ s.store.occupancy = 0 ∧ s.charging.settleList = [] ∧
      s.intake.order = none ∧ s.cache.sweep = none;
    (drained → exec .restartDrainDone s = .next { s with cache := { s.cache with sweep := some (.lines none 0 0 0) } }) ∧
    (¬drained → exec .restartDrainDone s = .next s)) ∧
  (∀ (s u : State) (next written : Nat) (r : RestartOrder), s.link.partState = .restarting → 512 ≤ next →
    s.link.restart = some r →
    (s.cache.sweep = some (.lines none next written 0) ∧ u = { s with cache := { s.cache with sweep := none } }) ∨
      (s.cache.sweep = some (.lines none next written 1) ∧ ∃ n record rest, n < 262144 ∧
        s.cache.port = .writeBack n record true :: rest ∧
        u = { s with
          mem := Memory.writeRecord s.mem n record
          cache := { ({ s.cache with port := rest } : Cache).endWriteBack n with sweep := none } }) →
    let due : State := u.recordAllDue;
    ∃ m : Monitor, exec .restartComplete s = .next ((({ due with
        monitor := m
        link := { due.link with partState := .config, restart := none } } : State).reply r.place .ok
          (.restarted (s.charging.counts.ended - r.settledBefore) s.log.nextSequence written)).settleDown) ∧
      m.settings = s.monitor.settings ∧ m.summary = 0 ∧ m.first = none ∧
      (∀ z, z < 16 →
        let v := due.monitor.zone z;
        m.zone z = { v with
          state := if v.state = .unconfigured then .unconfigured else .inService
          faults := 0, untakenRun := 0, silence := 0, arrival := false, untakenDue := false, silentDue := false }))

/-! ### Laws of the whole machine -/

/-- Settling down: in RESTARTING the held entries settle once no submission is in progress; then the Record Cache, the settle list and again
the Record Cache go on, and last places are set aside for the orders that wait, as OrderTaken says. A subscriber's first queued request,
with no hold on it and no sweep before it, is served on a valid line: an update is carried out, a reach read answered from the record as
rolled, a touch reported; with no valid line it waits (R30, R33, R68, R106). So are those behind it until one must wait. The oldest request
whose turn it is and whose subscriber is absent starts a miss if one of the four places is free and a victim is found: an INVALID way, else
the LRU way, else the other, CLEAN or DIRTY and not pinned; the castout of a DIRTY victim is issued, then the fill, and the way is FILLING;
then the next is tried (R30, R34 to R36). Requests held are admitted oldest first while places are free (R30). The head of the settle list
waits for its body's submission, unless it asks for a place already, then for a log place; that each wait is counted once, as it begins, is
the model's choice (log 49). With its place set aside, a FAULTED entry settles without charge and the next becomes the head; another posts
its settlement read, and the list waits (R17, R125, R131, R136). What it leaves alone: commands, memory, the timer, zones, settings, plans
and groups, the part state and the orders but for their places; the billing records held stay at the head of the log; and the laws of the
log and of R3 are kept. That it is work of its own and its order are the model's (log 1), as is what pins a line (log 10) and which request
behind a host record order misses (log 46). -/
def Obligations.SettlingDownFrame : Prop :=
  (∀ s : State, Settled s s.settleDown ∧ (∃ new, s.settleDown.log.records = s.log.records ++ new) ∧
    s.settleDown.log.lastReturned = s.log.lastReturned ∧ (s.logLegal → s.settleDown.logLegal) ∧
    (s.entriesLegal → s.settleDown.entriesLegal)) ∧
  (∀ s : State,
    s.settleDown = s.cancelHeldWhenDue.runCache.runCharging.runCache.setPlaces ∧
    (¬(s.link.partState = .restarting ∧ s.intake.mayCreate = 0) → s.cancelHeldWhenDue = s) ∧
    (let served := s.cache.queue.foldl (fun u r => u.serveSub r.sub) s
      let tried : State → State := fun u => { u with cache := u.cache.tryMisses }
      s.runCache = tried ((tried served).admitHeld s.cache.heldRequests.length)) ∧
    s.runCharging = s.settleHeads (s.charging.settleList.length + 1)) ∧
  (∀ (s : State) (before after : List Request) (r : Request), s.cache.queue = before ++ r :: after →
    (∀ q ∈ before, q.sub ≠ r.sub) →
    let c := s.cache
    let swept : Prop := ∃ place next last written, c.sweep = some (.records place next last written) ∧ next ≤ r.sub ∧ r.sub ≤ last
    let waits : Prop := r.sub ∈ c.holds ∨ (r.behindSweep = true ∧ swept)
    let left : Cache := { c with queue := before ++ after };
    (waits → s.serveFront r.sub = none) ∧
    (c.onChip r.sub = none → r.kind = .touch ∨ (∃ u, r.kind = .update u) ∨ (∃ n a k, r.kind = .reachRead n a k) →
      s.serveFront r.sub = none) ∧
    (∀ way, ¬waits → c.onChip r.sub = some way →
      let d := left.access s.charging.period r.sub way
      let v := (d.line r.sub way).record;
      (∀ u, r.kind = .update u → s.serveFront r.sub = some { s with cache := d.change r.sub way u.apply }) ∧
      (∀ entry admission attempts, r.kind = .reachRead entry admission attempts →
        s.serveFront r.sub = some { s with cache := d, retry := { s.retry with answers := s.retry.answers ++
          [{ entry, admission, attempts, unreachable := v.unreachable, nextProbe := v.nextProbe, fault := false }] } }) ∧
      (r.kind = .touch → s.serveFront r.sub = some (({ s with cache := d } : State).readyReport r.sub v)))) ∧
  (∀ (s : State) (n : Nat),
    (s.serveFront n = none → s.serveSub n = s) ∧
    ((∀ r ∈ s.cache.queue, r.sub = n → r.kind ≠ .touch) →
      (s.serveSub n).serveFront n = none ∧ ∀ t, s.serveFront n = some t → s.serveSub n = t.serveSub n)) ∧
  (∀ (c : Cache) (n : Nat),
    let pinned : Nat → Bool := fun m => c.holds.contains m || c.queue.any (fun r => r.sub == m && !c.waitsForSweep r)
    let free : Nat → Bool := fun way =>
      [LineState.clean, .dirty].contains (c.line n way).state && !pinned ((c.line n way).tag * 256 + n % 256)
    let lru := if Table.get 0 c.lru (n % 256) = 0 then 0 else 1
    let victim : Option Nat :=
      if (c.line n 0).state = .invalid then some 0 else if (c.line n 1).state = .invalid then some 1
      else if free lru then some lru else if free (1 - lru) then some (1 - lru) else none
    let d := c.startMiss n;
    (4 ≤ c.fills.length ∨ victim = none → d = c) ∧
    (∀ way, c.fills.length < 4 → victim = some way →
      let l := c.line n way
      let dirty : Prop := l.state = .dirty;
      d = { c with
        lines := d.lines, port := d.port, fills := c.fills ++ [{ sub := n, way }]
        counts := { c.counts with
          fills := c.counts.fills + 1, memoryWrites := if dirty then c.counts.memoryWrites + 1 else c.counts.memoryWrites } } ∧
      (dirty → d.port = c.port ++ [.castout (l.tag * 256 + n % 256) l.record, .fill n way]) ∧
      (¬dirty → d.port = c.port ++ [.fill n way]) ∧
      d.line n way = { l with state := .filling, tag := n / 256, deferral := 0 } ∧
      (∀ k, k ≠ 2 * (n % 256) + way → Table.get {} d.lines k = Table.get {} c.lines k))) ∧
  (∀ c : Cache,
    let starts : Request → Prop := fun r => c.wantsMiss r = true ∧ c.startMiss r.sub ≠ c;
    (∀ r, c.wantsMiss r = true ↔ c.queue.find? (fun q => q.sub == r.sub) = some r ∧ r.kind.isHostOrder = false ∧
      (∀ way ∈ [0, 1], ¬((c.line r.sub way).state ≠ .invalid ∧ (c.line r.sub way).tag = r.sub / 256)) ∧ r.sub ∉ c.holds ∧
      c.waitsForSweep r = false) ∧
    ((∀ r ∈ c.queue, ¬starts r) → c.tryMisses = c) ∧
    (∀ before r after, c.queue = before ++ r :: after → starts r → (∀ q ∈ before, ¬starts q) →
      c.tryMisses = (c.startMiss r.sub).tryMisses)) ∧
  (∀ (s : State) (k : Nat),
    (s.cache.heldRequests = [] ∨ 128 ≤ s.cache.occupancy → s.admitHeld (k + 1) = s) ∧
    (∀ r rest, s.cache.heldRequests = r :: rest → s.cache.occupancy < 128 →
      let c : Cache := { s.cache with heldRequests := rest, queue := s.cache.queue ++ [r] }
      let joined := if c.wantsMiss r then c.tryMisses else c
      s.admitHeld (k + 1) = ((({ s with cache := joined } : State).serveSub r.sub).admitHeld k))) ∧
  (∀ (s : State) (k : Nat),
    (s.charging.settleList = [] ∨ s.charging.head = .record → s.settleHeads (k + 1) = s) ∧
    (∀ el rest e, s.charging.settleList = el :: rest → s.charging.head ≠ .record → s.store.entry el.entry = some e →
      let h := s.charging.head
      let n := s.charging.counts
      let inSubmission : Prop := h ≠ .logRoom ∧
        ∃ b, s.store.body e.body = some b ∧ b.inSubmission = true ∧ b.references ≤ 1
      let room : Prop :=
        if h = .logRoom then s.log.setAside = true else s.log.records.length + (if s.log.setAside then 1 else 0) < 1024
      let granted : State := { s with log := { s.log with setAside := true } };
      (inSubmission → s.settleHeads (k + 1) = { s with charging := { s.charging with
        head := .bodyInSubmission
        counts := if h = .bodyInSubmission then n else { n with waitedSubmission := n.waitedSubmission + 1 } } }) ∧
      (¬inSubmission → ¬room → s.settleHeads (k + 1) = { s with
        log := { s.log with waiting := true }
        charging := { s.charging with
          head := .logRoom, counts := if h = .logRoom then n else { n with waitedLogRoom := n.waitedLogRoom + 1 } } }) ∧
      (¬inSubmission → room → e.outcome = some .faulted → s.settleHeads (k + 1) = (granted.finishSettlement el e
        { charge := 0, deducted := 0, shortfall := 0, within := false } none).settleHeads k) ∧
      (¬inSubmission → room → e.outcome ≠ some .faulted → s.settleHeads (k + 1) =
        ({ granted with charging := { s.charging with head := .record } } : State).post e.sub .settlementRead)))

/-- Every well-formed command completes in every state; the one exception is the completion of a port operation on a record that does not
exist, which faults and names it. An ill-formed command is refused as no event of the part (R24; the fault and the refusal are the
model's, log 35). -/
def Obligations.WellFormedCommandsComplete : Prop :=
  ∀ (c : Instr) (s : State),
    (c.wellFormed = true → (∃ t, exec c s = .next t) ∨
      ∃ op ∈ s.cache.port, 262144 ≤ op.sub ∧ exec c s = .fault (.noSuchRecord op.sub)) ∧
    (c.wellFormed = false → exec c s = .refused .noSuchEvent)

/-- Every step keeps record memory in its canonical form, every queue and reply path within its places, every setting in its range, and
the laws of the zone faults (R18, R26, R40, R93, R112, R113, R147, R148, R153, R161 to R163; the form of memory is the model's, log 5). -/
def Obligations.StepKeepsBoundsAndSettings : Prop :=
  ∀ s t : State, step s = .next t →
    (s.memoryLegal → t.memoryLegal) ∧ (s.queuesBounded → t.queuesBounded) ∧ (s.settingsLegal → t.settingsLegal) ∧
      (s.monitor.legal → t.monitor.legal)

/-- Every step keeps the laws of the Air Timer, and the part state changes at four events alone: CONFIG to RUNNING by START, RUNNING to
RESTARTING by RESTART, RESTARTING to CONFIG when the restart completes, and any state to CONFIG at power-on (R49, R52, R57, R62, R167). -/
def Obligations.StepKeepsAirTimeAndPartState : Prop :=
  ∀ s t : State, step s = .next t →
    (s.timerLegal → t.timerLegal) ∧
    (∀ c rest, s.pending = c :: rest → t.link.partState ≠ s.link.partState →
      (c = .start ∧ s.link.partState = .config ∧ t.link.partState = .running) ∨
      (c = .restart ∧ s.link.partState = .running ∧ t.link.partState = .restarting) ∨
      (c = .restartComplete ∧ s.link.partState = .restarting ∧ t.link.partState = .config) ∨
      (∃ host zone, c = .powerOn host zone ∧ t.link.partState = .config))

/-- Every step keeps the law that ties the entries created to the billing records appended and the live entries, with the entry store
consistent, and keeps the log within its places with the head that waits for its record holding one of them (R3, R4, R135 to R137). -/
def Obligations.StepKeepsEntriesAndLog : Prop :=
  ∀ s t : State, step s = .next t → (s.entriesLegal → t.entriesLegal) ∧ (s.logLegal → t.logLegal)

end
end

