-- ==== Sys2Proof/Laws/State.lean ====
section
/-! SUPPORT. What each replacement of a part of the state leaves: one lemma per field per replacement. -/

namespace Sys2Proof.Machine.State

section
variable (s : State) (v : List Instr)
@[simp] theorem withPending_pending : (s.withPending v).pending = v := rfl
@[simp] theorem withPending_mem : (s.withPending v).mem = s.mem := rfl
@[simp] theorem withPending_link : (s.withPending v).link = s.link := rfl
@[simp] theorem withPending_intake : (s.withPending v).intake = s.intake := rfl
@[simp] theorem withPending_store : (s.withPending v).store = s.store := rfl
@[simp] theorem withPending_cache : (s.withPending v).cache = s.cache := rfl
@[simp] theorem withPending_timer : (s.withPending v).timer = s.timer := rfl
@[simp] theorem withPending_assembler : (s.withPending v).assembler = s.assembler := rfl
@[simp] theorem withPending_zoneLinks : (s.withPending v).zoneLinks = s.zoneLinks := rfl
@[simp] theorem withPending_monitor : (s.withPending v).monitor = s.monitor := rfl
@[simp] theorem withPending_retry : (s.withPending v).retry = s.retry := rfl
@[simp] theorem withPending_charging : (s.withPending v).charging = s.charging := rfl
@[simp] theorem withPending_log : (s.withPending v).log = s.log := rfl
end

section
variable (s : State) (v : List Host.Cell)
@[simp] theorem withMem_pending : (s.withMem v).pending = s.pending := rfl
@[simp] theorem withMem_mem : (s.withMem v).mem = v := rfl
@[simp] theorem withMem_link : (s.withMem v).link = s.link := rfl
@[simp] theorem withMem_intake : (s.withMem v).intake = s.intake := rfl
@[simp] theorem withMem_store : (s.withMem v).store = s.store := rfl
@[simp] theorem withMem_cache : (s.withMem v).cache = s.cache := rfl
@[simp] theorem withMem_timer : (s.withMem v).timer = s.timer := rfl
@[simp] theorem withMem_assembler : (s.withMem v).assembler = s.assembler := rfl
@[simp] theorem withMem_zoneLinks : (s.withMem v).zoneLinks = s.zoneLinks := rfl
@[simp] theorem withMem_monitor : (s.withMem v).monitor = s.monitor := rfl
@[simp] theorem withMem_retry : (s.withMem v).retry = s.retry := rfl
@[simp] theorem withMem_charging : (s.withMem v).charging = s.charging := rfl
@[simp] theorem withMem_log : (s.withMem v).log = s.log := rfl
end

section
variable (s : State) (v : Link)
@[simp] theorem withLink_pending : (s.withLink v).pending = s.pending := rfl
@[simp] theorem withLink_mem : (s.withLink v).mem = s.mem := rfl
@[simp] theorem withLink_link : (s.withLink v).link = v := rfl
@[simp] theorem withLink_intake : (s.withLink v).intake = s.intake := rfl
@[simp] theorem withLink_store : (s.withLink v).store = s.store := rfl
@[simp] theorem withLink_cache : (s.withLink v).cache = s.cache := rfl
@[simp] theorem withLink_timer : (s.withLink v).timer = s.timer := rfl
@[simp] theorem withLink_assembler : (s.withLink v).assembler = s.assembler := rfl
@[simp] theorem withLink_zoneLinks : (s.withLink v).zoneLinks = s.zoneLinks := rfl
@[simp] theorem withLink_monitor : (s.withLink v).monitor = s.monitor := rfl
@[simp] theorem withLink_retry : (s.withLink v).retry = s.retry := rfl
@[simp] theorem withLink_charging : (s.withLink v).charging = s.charging := rfl
@[simp] theorem withLink_log : (s.withLink v).log = s.log := rfl
end

section
variable (s : State) (v : Intake)
@[simp] theorem withIntake_pending : (s.withIntake v).pending = s.pending := rfl
@[simp] theorem withIntake_mem : (s.withIntake v).mem = s.mem := rfl
@[simp] theorem withIntake_link : (s.withIntake v).link = s.link := rfl
@[simp] theorem withIntake_intake : (s.withIntake v).intake = v := rfl
@[simp] theorem withIntake_store : (s.withIntake v).store = s.store := rfl
@[simp] theorem withIntake_cache : (s.withIntake v).cache = s.cache := rfl
@[simp] theorem withIntake_timer : (s.withIntake v).timer = s.timer := rfl
@[simp] theorem withIntake_assembler : (s.withIntake v).assembler = s.assembler := rfl
@[simp] theorem withIntake_zoneLinks : (s.withIntake v).zoneLinks = s.zoneLinks := rfl
@[simp] theorem withIntake_monitor : (s.withIntake v).monitor = s.monitor := rfl
@[simp] theorem withIntake_retry : (s.withIntake v).retry = s.retry := rfl
@[simp] theorem withIntake_charging : (s.withIntake v).charging = s.charging := rfl
@[simp] theorem withIntake_log : (s.withIntake v).log = s.log := rfl
end

section
variable (s : State) (v : Store)
@[simp] theorem withStore_pending : (s.withStore v).pending = s.pending := rfl
@[simp] theorem withStore_mem : (s.withStore v).mem = s.mem := rfl
@[simp] theorem withStore_link : (s.withStore v).link = s.link := rfl
@[simp] theorem withStore_intake : (s.withStore v).intake = s.intake := rfl
@[simp] theorem withStore_store : (s.withStore v).store = v := rfl
@[simp] theorem withStore_cache : (s.withStore v).cache = s.cache := rfl
@[simp] theorem withStore_timer : (s.withStore v).timer = s.timer := rfl
@[simp] theorem withStore_assembler : (s.withStore v).assembler = s.assembler := rfl
@[simp] theorem withStore_zoneLinks : (s.withStore v).zoneLinks = s.zoneLinks := rfl
@[simp] theorem withStore_monitor : (s.withStore v).monitor = s.monitor := rfl
@[simp] theorem withStore_retry : (s.withStore v).retry = s.retry := rfl
@[simp] theorem withStore_charging : (s.withStore v).charging = s.charging := rfl
@[simp] theorem withStore_log : (s.withStore v).log = s.log := rfl
end

section
variable (s : State) (v : Cache)
@[simp] theorem withCache_pending : (s.withCache v).pending = s.pending := rfl
@[simp] theorem withCache_mem : (s.withCache v).mem = s.mem := rfl
@[simp] theorem withCache_link : (s.withCache v).link = s.link := rfl
@[simp] theorem withCache_intake : (s.withCache v).intake = s.intake := rfl
@[simp] theorem withCache_store : (s.withCache v).store = s.store := rfl
@[simp] theorem withCache_cache : (s.withCache v).cache = v := rfl
@[simp] theorem withCache_timer : (s.withCache v).timer = s.timer := rfl
@[simp] theorem withCache_assembler : (s.withCache v).assembler = s.assembler := rfl
@[simp] theorem withCache_zoneLinks : (s.withCache v).zoneLinks = s.zoneLinks := rfl
@[simp] theorem withCache_monitor : (s.withCache v).monitor = s.monitor := rfl
@[simp] theorem withCache_retry : (s.withCache v).retry = s.retry := rfl
@[simp] theorem withCache_charging : (s.withCache v).charging = s.charging := rfl
@[simp] theorem withCache_log : (s.withCache v).log = s.log := rfl
end

section
variable (s : State) (v : Timer)
@[simp] theorem withTimer_pending : (s.withTimer v).pending = s.pending := rfl
@[simp] theorem withTimer_mem : (s.withTimer v).mem = s.mem := rfl
@[simp] theorem withTimer_link : (s.withTimer v).link = s.link := rfl
@[simp] theorem withTimer_intake : (s.withTimer v).intake = s.intake := rfl
@[simp] theorem withTimer_store : (s.withTimer v).store = s.store := rfl
@[simp] theorem withTimer_cache : (s.withTimer v).cache = s.cache := rfl
@[simp] theorem withTimer_timer : (s.withTimer v).timer = v := rfl
@[simp] theorem withTimer_assembler : (s.withTimer v).assembler = s.assembler := rfl
@[simp] theorem withTimer_zoneLinks : (s.withTimer v).zoneLinks = s.zoneLinks := rfl
@[simp] theorem withTimer_monitor : (s.withTimer v).monitor = s.monitor := rfl
@[simp] theorem withTimer_retry : (s.withTimer v).retry = s.retry := rfl
@[simp] theorem withTimer_charging : (s.withTimer v).charging = s.charging := rfl
@[simp] theorem withTimer_log : (s.withTimer v).log = s.log := rfl
end

section
variable (s : State) (v : Assembler)
@[simp] theorem withAssembler_pending : (s.withAssembler v).pending = s.pending := rfl
@[simp] theorem withAssembler_mem : (s.withAssembler v).mem = s.mem := rfl
@[simp] theorem withAssembler_link : (s.withAssembler v).link = s.link := rfl
@[simp] theorem withAssembler_intake : (s.withAssembler v).intake = s.intake := rfl
@[simp] theorem withAssembler_store : (s.withAssembler v).store = s.store := rfl
@[simp] theorem withAssembler_cache : (s.withAssembler v).cache = s.cache := rfl
@[simp] theorem withAssembler_timer : (s.withAssembler v).timer = s.timer := rfl
@[simp] theorem withAssembler_assembler : (s.withAssembler v).assembler = v := rfl
@[simp] theorem withAssembler_zoneLinks : (s.withAssembler v).zoneLinks = s.zoneLinks := rfl
@[simp] theorem withAssembler_monitor : (s.withAssembler v).monitor = s.monitor := rfl
@[simp] theorem withAssembler_retry : (s.withAssembler v).retry = s.retry := rfl
@[simp] theorem withAssembler_charging : (s.withAssembler v).charging = s.charging := rfl
@[simp] theorem withAssembler_log : (s.withAssembler v).log = s.log := rfl
end

section
variable (s : State) (v : ZoneLinks)
@[simp] theorem withZoneLinks_pending : (s.withZoneLinks v).pending = s.pending := rfl
@[simp] theorem withZoneLinks_mem : (s.withZoneLinks v).mem = s.mem := rfl
@[simp] theorem withZoneLinks_link : (s.withZoneLinks v).link = s.link := rfl
@[simp] theorem withZoneLinks_intake : (s.withZoneLinks v).intake = s.intake := rfl
@[simp] theorem withZoneLinks_store : (s.withZoneLinks v).store = s.store := rfl
@[simp] theorem withZoneLinks_cache : (s.withZoneLinks v).cache = s.cache := rfl
@[simp] theorem withZoneLinks_timer : (s.withZoneLinks v).timer = s.timer := rfl
@[simp] theorem withZoneLinks_assembler : (s.withZoneLinks v).assembler = s.assembler := rfl
@[simp] theorem withZoneLinks_zoneLinks : (s.withZoneLinks v).zoneLinks = v := rfl
@[simp] theorem withZoneLinks_monitor : (s.withZoneLinks v).monitor = s.monitor := rfl
@[simp] theorem withZoneLinks_retry : (s.withZoneLinks v).retry = s.retry := rfl
@[simp] theorem withZoneLinks_charging : (s.withZoneLinks v).charging = s.charging := rfl
@[simp] theorem withZoneLinks_log : (s.withZoneLinks v).log = s.log := rfl
end

section
variable (s : State) (v : Monitor)
@[simp] theorem withMonitor_pending : (s.withMonitor v).pending = s.pending := rfl
@[simp] theorem withMonitor_mem : (s.withMonitor v).mem = s.mem := rfl
@[simp] theorem withMonitor_link : (s.withMonitor v).link = s.link := rfl
@[simp] theorem withMonitor_intake : (s.withMonitor v).intake = s.intake := rfl
@[simp] theorem withMonitor_store : (s.withMonitor v).store = s.store := rfl
@[simp] theorem withMonitor_cache : (s.withMonitor v).cache = s.cache := rfl
@[simp] theorem withMonitor_timer : (s.withMonitor v).timer = s.timer := rfl
@[simp] theorem withMonitor_assembler : (s.withMonitor v).assembler = s.assembler := rfl
@[simp] theorem withMonitor_zoneLinks : (s.withMonitor v).zoneLinks = s.zoneLinks := rfl
@[simp] theorem withMonitor_monitor : (s.withMonitor v).monitor = v := rfl
@[simp] theorem withMonitor_retry : (s.withMonitor v).retry = s.retry := rfl
@[simp] theorem withMonitor_charging : (s.withMonitor v).charging = s.charging := rfl
@[simp] theorem withMonitor_log : (s.withMonitor v).log = s.log := rfl
end

section
variable (s : State) (v : Retry)
@[simp] theorem withRetry_pending : (s.withRetry v).pending = s.pending := rfl
@[simp] theorem withRetry_mem : (s.withRetry v).mem = s.mem := rfl
@[simp] theorem withRetry_link : (s.withRetry v).link = s.link := rfl
@[simp] theorem withRetry_intake : (s.withRetry v).intake = s.intake := rfl
@[simp] theorem withRetry_store : (s.withRetry v).store = s.store := rfl
@[simp] theorem withRetry_cache : (s.withRetry v).cache = s.cache := rfl
@[simp] theorem withRetry_timer : (s.withRetry v).timer = s.timer := rfl
@[simp] theorem withRetry_assembler : (s.withRetry v).assembler = s.assembler := rfl
@[simp] theorem withRetry_zoneLinks : (s.withRetry v).zoneLinks = s.zoneLinks := rfl
@[simp] theorem withRetry_monitor : (s.withRetry v).monitor = s.monitor := rfl
@[simp] theorem withRetry_retry : (s.withRetry v).retry = v := rfl
@[simp] theorem withRetry_charging : (s.withRetry v).charging = s.charging := rfl
@[simp] theorem withRetry_log : (s.withRetry v).log = s.log := rfl
end

section
variable (s : State) (v : Charging)
@[simp] theorem withCharging_pending : (s.withCharging v).pending = s.pending := rfl
@[simp] theorem withCharging_mem : (s.withCharging v).mem = s.mem := rfl
@[simp] theorem withCharging_link : (s.withCharging v).link = s.link := rfl
@[simp] theorem withCharging_intake : (s.withCharging v).intake = s.intake := rfl
@[simp] theorem withCharging_store : (s.withCharging v).store = s.store := rfl
@[simp] theorem withCharging_cache : (s.withCharging v).cache = s.cache := rfl
@[simp] theorem withCharging_timer : (s.withCharging v).timer = s.timer := rfl
@[simp] theorem withCharging_assembler : (s.withCharging v).assembler = s.assembler := rfl
@[simp] theorem withCharging_zoneLinks : (s.withCharging v).zoneLinks = s.zoneLinks := rfl
@[simp] theorem withCharging_monitor : (s.withCharging v).monitor = s.monitor := rfl
@[simp] theorem withCharging_retry : (s.withCharging v).retry = s.retry := rfl
@[simp] theorem withCharging_charging : (s.withCharging v).charging = v := rfl
@[simp] theorem withCharging_log : (s.withCharging v).log = s.log := rfl
end

section
variable (s : State) (v : BillingLog)
@[simp] theorem withLog_pending : (s.withLog v).pending = s.pending := rfl
@[simp] theorem withLog_mem : (s.withLog v).mem = s.mem := rfl
@[simp] theorem withLog_link : (s.withLog v).link = s.link := rfl
@[simp] theorem withLog_intake : (s.withLog v).intake = s.intake := rfl
@[simp] theorem withLog_store : (s.withLog v).store = s.store := rfl
@[simp] theorem withLog_cache : (s.withLog v).cache = s.cache := rfl
@[simp] theorem withLog_timer : (s.withLog v).timer = s.timer := rfl
@[simp] theorem withLog_assembler : (s.withLog v).assembler = s.assembler := rfl
@[simp] theorem withLog_zoneLinks : (s.withLog v).zoneLinks = s.zoneLinks := rfl
@[simp] theorem withLog_monitor : (s.withLog v).monitor = s.monitor := rfl
@[simp] theorem withLog_retry : (s.withLog v).retry = s.retry := rfl
@[simp] theorem withLog_charging : (s.withLog v).charging = s.charging := rfl
@[simp] theorem withLog_log : (s.withLog v).log = v := rfl
end

end Sys2Proof.Machine.State
end

