-- ==== Sys2Proof/Laws/Orders.lean ====
section
/-! SUPPORT. The reply places of the orders that wait; what taking an order comes to; and what an order that is answered at once comes to,
once it is known what was taken, in which part state, and how its fields read. -/

namespace Sys2Proof.Machine

/-! ### Reply places (R162) -/

/-- Giving places back changes no order but for its place. -/
theorem keepPlaces_unplaced (inTurn : List Order → Order → Bool) (before l : List Order) :
    (keepPlaces inTurn before l).map Order.unplaced = l.map Order.unplaced := by
  induction l generalizing before with
  | nil => rfl
  | cons o l ih =>
    unfold keepPlaces
    simp only [List.map_cons, ih, List.cons.injEq, and_true]
    split <;> rfl

/-- Giving places back takes no place. -/
theorem keepPlaces_count (inTurn : List Order → Order → Bool) (before l : List Order) :
    ((keepPlaces inTurn before l).filterMap Order.place).length ≤ (l.filterMap Order.place).length := by
  induction l generalizing before with
  | nil => exact Nat.le_refl _
  | cons o l ih =>
    unfold keepPlaces
    have := ih (before ++ [if inTurn before o = true then o else { o with place := none }])
    split
    · rename_i h
      simp only [h, if_true] at this
      cases hp : o.place <;> simp only [List.filterMap_cons, hp, List.length_cons] <;> omega
    · rename_i h
      rw [if_neg h] at this
      cases hp : o.place <;> simp only [List.filterMap_cons, hp, List.length_cons] <;> omega

/-- Giving places changes no order but for its place. -/
theorem givePlaces_unplaced (inTurn : List Order → Order → Bool) (free : List Nat) (before l : List Order) :
    (givePlaces inTurn free before l).map Order.unplaced = l.map Order.unplaced := by
  induction l generalizing free before with
  | nil => rfl
  | cons o l ih =>
    unfold givePlaces
    split
    · simp only [List.map_cons, ih]
    · split
      · rfl
      · simp only [List.map_cons, ih, Order.unplaced]

/-- Giving places uses no more than the free ones. -/
theorem givePlaces_count (inTurn : List Order → Order → Bool) (free : List Nat) (before l : List Order) :
    ((givePlaces inTurn free before l).filterMap Order.place).length ≤ (l.filterMap Order.place).length + free.length := by
  induction l generalizing free before with
  | nil => simp [givePlaces]
  | cons o l ih =>
    unfold givePlaces
    split
    · have := ih free (before ++ [o])
      cases hp : o.place <;> simp only [List.filterMap_cons, hp, List.length_cons] <;> omega
    · rename_i h
      have hp : o.place = none := by
        cases hp : o.place with
        | none => rfl
        | some p => simp [hp] at h
      split
      · simp
      · rename_i place free
        have := ih free (before ++ [{ o with place := some place }])
        simp only [List.filterMap_cons, hp, List.length_cons]
        omega

/-- Setting places aside changes no order but for its place. -/
theorem State.setPlaces_unplaced (s : State) : s.setPlaces.link.orders.map Order.unplaced = s.link.orders.map Order.unplaced :=
  (givePlaces_unplaced _ _ _ _).trans (keepPlaces_unplaced _ _ _)

/-- Taking back keeps the reply path within its places. -/
theorem State.takeBackPlaces_count (s : State) : s.takeBackPlaces.link.placesInUse.length ≤ s.link.placesInUse.length := by
  have a := keepPlaces_count s.inTurn [] s.link.orders
  simp only [Link.placesInUse, List.length_append, State.takeBackPlaces, State.withOrders, State.withLink]
  omega

/-- Giving the free places keeps the reply path within its places. -/
theorem State.giveFreePlaces_count (s : State) (h : s.link.placesInUse.length ≤ Config.replyPlaces) :
    s.giveFreePlaces.link.placesInUse.length ≤ Config.replyPlaces := by
  have a := givePlaces_count s.inTurn s.link.freeList [] s.link.orders
  have b : s.link.freeList.length ≤ Config.replyPlaces - s.link.placesInUse.length := List.length_take_le _ _
  simp only [Link.placesInUse, List.length_append] at b h ⊢
  simp only [State.giveFreePlaces, State.withOrders, State.withLink]
  omega

/-- Setting places aside keeps the reply path within its places. -/
theorem State.setPlaces_count (s : State) (h : s.link.placesInUse.length ≤ Config.replyPlaces) :
    s.setPlaces.link.placesInUse.length ≤ Config.replyPlaces :=
  s.takeBackPlaces.giveFreePlaces_count (Nat.le_trans s.takeBackPlaces_count h)

/-! ### Taking an order (R161) -/

/-- The oldest order of a unit stands before every other of that unit. -/
theorem oldestOf_spec {owner : OrderOwner} {l rest : List Order} {o : Order} :
    oldestOf owner l = some (o, rest) ↔ ∃ before after, l = before ++ o :: after ∧ rest = before ++ after ∧ o.kind.owner = owner ∧
      ∀ x ∈ before, x.kind.owner ≠ owner := by
  induction l generalizing rest with
  | nil => simp [oldestOf]
  | cons x l ih =>
    unfold oldestOf
    split
    · rename_i h
      constructor
      · intro e
        obtain ⟨rfl, rfl⟩ := Prod.mk.inj (Option.some.inj e)
        exact ⟨[], l, rfl, rfl, h, by simp⟩
      · rintro ⟨before, after, e, rfl, ho, hb⟩
        cases before with
        | nil =>
          obtain ⟨rfl, rfl⟩ := List.cons.inj e
          rfl
        | cons y before =>
          obtain ⟨rfl, -⟩ := List.cons.inj e
          exact absurd h (hb x (by simp))
    · rename_i h
      constructor
      · intro e
        obtain ⟨⟨p, q⟩, hq, hp⟩ := Option.map_eq_some_iff.1 e
        obtain ⟨rfl, rfl⟩ := Prod.mk.inj hp
        obtain ⟨before, after, rfl, rfl, ho, hb⟩ := ih.1 hq
        refine ⟨x :: before, after, rfl, rfl, ho, ?_⟩
        intro y hy
        rcases List.mem_cons.1 hy with rfl | hy
        · exact h
        · exact hb y hy
      · rintro ⟨before, after, e, rfl, ho, hb⟩
        cases before with
        | nil =>
          obtain ⟨rfl, rfl⟩ := List.cons.inj e
          exact absurd ho h
        | cons y before =>
          obtain ⟨rfl, rfl⟩ := List.cons.inj e
          rw [ih.2 ⟨before, after, rfl, rfl, ho, fun z hz => hb z (by simp [hz])⟩]
          rfl

/-- When an order is taken, and what taking it comes to (R161, R162). -/
theorem State.takeOrder_spec {s t : State} {kind : OrderKind} {place : Nat} {body : List Byte} :
    s.takeOrder kind = some (place, body, t) ↔ ∃ before o after, s.link.orders = before ++ o :: after ∧ o.kind = kind ∧ o.body = body ∧
      o.place = some place ∧ (∀ x ∈ before, x.kind.owner ≠ kind.owner) ∧ s.ready kind.owner = true ∧
      t = s.withLink { s.link with orders := before ++ after, taken := s.link.taken ++ [{ place, kind, tag := o.tag }] } := by
  unfold State.takeOrder
  constructor
  · intro h
    split at h
    · exact absurd h (by simp)
    · rename_i o rest ho
      obtain ⟨before, after, he, rfl, hk, hb⟩ := oldestOf_spec.1 ho
      split at h
      · exact absurd h (by simp)
      · rename_i p hp
        split at h
        · rename_i hr
          obtain ⟨rfl, rfl, rfl⟩ : p = place ∧ o.body = body ∧ _ = t := by simpa using h
          exact ⟨before, o, after, he, hr.1, rfl, hp, hb, hr.2, rfl⟩
        · exact absurd h (by simp)
  · rintro ⟨before, o, after, he, rfl, rfl, hp, hb, hr, rfl⟩
    rw [oldestOf_spec.2 ⟨before, after, he, rfl, rfl, hb⟩]
    simp only [hp, hr, and_self, if_true]

/-! ### Orders answered at once -/

/-- The order that was taken is carried out and its reply made. -/
theorem State.answerOrder_taken {s t : State} {kind : OrderKind} {place : Nat} {body : List Byte}
    (h : s.takeOrder kind = some (place, body, t)) (act : List Byte → State → Answer) :
    s.answerOrder kind act = (act body t).2.2.reply place (act body t).1 (act body t).2.1 := by
  simp only [State.answerOrder, h]

/-- An order no unit can take now changes nothing. -/
theorem State.answerOrder_waits {s : State} {kind : OrderKind} (h : s.takeOrder kind = none) (act : List Byte → State → Answer) :
    s.answerOrder kind act = s := by
  simp only [State.answerOrder, h]

theorem outsideRestart_served {t : State} (h : t.link.partState ≠ .restarting) (act : List Byte → State → Answer)
    (body : List Byte) : outsideRestart act body t = act body t := if_neg h

theorem outsideRestart_refused {t : State} (h : t.link.partState = .restarting) (act : List Byte → State → Answer)
    (body : List Byte) : outsideRestart act body t = (.wrongState, .none, t) := if_pos h

theorem withOperand_some {α : Type} {read : List Byte → Option α} {body : List Byte} {v : α} (h : read body = some v)
    (act : α → State → Answer) (t : State) : withOperand read act body t = act v t := by
  simp only [withOperand, h]

theorem withOperand_none {α : Type} {read : List Byte → Option α} {body : List Byte} (h : read body = none)
    (act : α → State → Answer) (t : State) : withOperand read act body t = (.badValue, .none, t) := by
  simp only [withOperand, h, refuse]

/-- The fields of an order that is served and whose fields are in range. -/
theorem readOrder_ok {α : Type} {read : List Byte → Option α} {body : List Byte} {v : α} {served : Bool} :
    readOrder served read body = .ok v ↔ served = true ∧ read body = some v := by
  unfold readOrder
  cases served <;> cases read body <;> simp

/-- How an order that is not served, or whose fields are out of range, is refused. -/
theorem readOrder_error {α : Type} {read : List Byte → Option α} {body : List Byte} {code : ReplyCode} {served : Bool} :
    readOrder served read body = .error code ↔
      (served = false ∧ code = .wrongState) ∨ (served = true ∧ read body = none ∧ code = .badValue) := by
  unfold readOrder
  cases served <;> cases read body <;> simp [eq_comm]

end Sys2Proof.Machine
end

