-- ==== Sys2Proof/Laws/Table.lean ====
section
/-! SUPPORT. The laws of sparse storage: a read after a write to the same key gives the value written, a write leaves every other key
alone, and every write keeps the canonical form. Record memory has the same laws, byte by byte and record by record. -/

namespace Sys2Proof.Table

variable {α : Type}

theorem get_insert (d : α) (t : Table α) (n m : Nat) (v : α) :
    get d (insert t n v) m = if n = m then v else get d t m := by
  induction t with
  | nil => simp [insert, get]
  | cons e t ih =>
    obtain ⟨k, w⟩ := e
    simp only [insert]
    split
    · simp only [get]
    · split
      · rename_i h; subst h; by_cases hm : k = m <;> simp [get, hm]
      · rename_i h
        by_cases hm : k = m
        · subst hm; simp [get, Ne.symm h]
        · simp [get, hm, ih]

theorem get_filter_ne (d : α) (t : Table α) (n m : Nat) :
    get d (t.filter (fun e => decide (e.1 ≠ n))) m = if n = m then d else get d t m := by
  induction t with
  | nil => simp [get]
  | cons e t ih =>
    obtain ⟨k, w⟩ := e
    by_cases hk : k = n
    · subst hk
      simp only [ne_eq, decide_not, List.filter_cons, decide_true, Bool.not_true, Bool.false_eq_true, if_false]
      simp only [ne_eq, decide_not] at ih
      rw [ih]; by_cases hm : k = m <;> simp [get, hm]
    · simp only [List.filter_cons, ne_eq, hk, not_false_eq_true, decide_true, if_true]
      by_cases hm : k = m
      · subst hm; simp [get, Ne.symm hk]
      · simp only [get, hm, if_false]; exact ih

/-- A read after a write: the value written under its key, what was there under every other. -/
theorem get_set [DecidableEq α] (d : α) (t : Table α) (n m : Nat) (v : α) :
    get d (set d t n v) m = if n = m then v else get d t m := by
  unfold set
  split
  · rename_i h; subst h; exact get_filter_ne _ t n m
  · exact get_insert d t n m v

@[simp] theorem get_set_same [DecidableEq α] (d : α) (t : Table α) (n : Nat) (v : α) : get d (set d t n v) n = v := by
  simp [get_set]

theorem get_set_other [DecidableEq α] (d : α) (t : Table α) {n m : Nat} (v : α) (h : n ≠ m) :
    get d (set d t n v) m = get d t m := by simp [get_set, h]

/-- The canonical form as pairwise rising keys and no default listed. -/
theorem mem_keys (t : Table α) (n : Nat) : n ∈ keys t ↔ ∃ v, (n, v) ∈ t := by
  induction t with
  | nil => simp [keys]
  | cons e t ih =>
    obtain ⟨k, w⟩ := e
    by_cases h : n = k <;> simp [keys, ih, h]

theorem keys_nodup (t : Table α) : (keys t).Nodup := by
  induction t with
  | nil => simp [keys]
  | cons e t ih => obtain ⟨k, w⟩ := e; simpa [keys] using ih.filter _

theorem get_of_not_key (d : α) (t : Table α) (n : Nat) (h : n ∉ keys t) : get d t n = d := by
  induction t with
  | nil => rfl
  | cons e t ih =>
    obtain ⟨k, w⟩ := e
    rw [mem_keys] at h
    rw [get, if_neg (fun hk => h ⟨w, by simp [hk]⟩)]
    exact ih (fun hn => h (by obtain ⟨v, hv⟩ := (mem_keys t n).mp hn; exact ⟨v, by simp [hv]⟩))

/-- What `filled` lists is exactly what the slots read as. -/
theorem mem_filled (t : Table (Option α)) (n : Nat) (v : α) : (n, v) ∈ filled t ↔ get none t n = some v := by
  simp only [filled, List.mem_filterMap, Option.map_eq_some_iff, Prod.mk.injEq]
  constructor
  · rintro ⟨k, -, w, hw, rfl, rfl⟩; exact hw
  · intro h
    refine ⟨n, ?_, v, h, rfl, rfl⟩
    by_contra hn
    rw [get_of_not_key none t n hn] at h; cases h

theorem filled_nodup (t : Table (Option α)) : ((filled t).map Prod.fst).Nodup := by
  have : ∀ l : List Nat, (l.filterMap (fun n => (get none t n).map (fun v => (n, v)))).map Prod.fst |>.Sublist l := by
    intro l
    induction l with
    | nil => simp
    | cons n l ih => cases h : get none t n <;> simp [h, ih, ih.cons]
  exact (this _).nodup (keys_nodup t)

theorem wf_iff [DecidableEq α] (d : α) (t : Table α) :
    wf d t = true ↔ t.Pairwise (fun a b => a.1 < b.1) ∧ ∀ e ∈ t, e.2 ≠ d := by
  induction t with
  | nil => simp [wf]
  | cons e t ih =>
    obtain ⟨k, v⟩ := e
    cases t with
    | nil => simp [wf]
    | cons f t =>
      obtain ⟨l, w⟩ := f
      simp only [wf, Bool.and_eq_true, decide_eq_true_eq, ih, List.pairwise_cons, List.forall_mem_cons]
      constructor
      · rintro ⟨⟨hkl, hv⟩, ⟨hl, ht⟩, hw, hd⟩
        exact ⟨⟨⟨hkl, fun a ha => lt_trans hkl (hl a ha)⟩, hl, ht⟩, hv, hw, hd⟩
      · rintro ⟨⟨⟨hkl, _⟩, hl, ht⟩, hv, hw, hd⟩
        exact ⟨⟨hkl, hv⟩, ⟨hl, ht⟩, hw, hd⟩

theorem mem_insert (t : Table α) (n : Nat) (v : α) (e : Nat × α) :
    e ∈ insert t n v → e = (n, v) ∨ e ∈ t := by
  induction t with
  | nil => simp [insert]
  | cons f t ih =>
    obtain ⟨k, w⟩ := f
    simp only [insert]
    split
    · simp
    · split
      · simp only [List.mem_cons]; rintro (h | h) <;> simp [h]
      · simp only [List.mem_cons]; rintro (h | h)
        · simp [h]
        · rcases ih h with h | h <;> simp [h]

theorem pairwise_insert (t : Table α) (n : Nat) (v : α) (h : t.Pairwise (fun a b => a.1 < b.1)) :
    (insert t n v).Pairwise (fun a b => a.1 < b.1) := by
  induction t with
  | nil => simp [insert]
  | cons f t ih =>
    obtain ⟨k, w⟩ := f
    rw [List.pairwise_cons] at h
    simp only [insert]
    split
    · rename_i hn
      refine List.pairwise_cons.2 ⟨?_, List.pairwise_cons.2 h⟩
      intro a ha
      rcases List.mem_cons.1 ha with rfl | ha
      · exact hn
      · exact lt_trans hn (h.1 a ha)
    · split
      · rename_i hk; subst hk; exact List.pairwise_cons.2 h
      · rename_i hn hk
        refine List.pairwise_cons.2 ⟨?_, ih h.2⟩
        intro a ha
        rcases mem_insert t n v a ha with rfl | ha
        · simp only; omega
        · exact h.1 a ha

/-- Every write keeps the canonical form. -/
theorem wf_set [DecidableEq α] (d : α) (t : Table α) (n : Nat) (v : α) (h : wf d t = true) : wf d (set d t n v) = true := by
  rw [wf_iff] at h ⊢
  unfold set
  split
  · exact ⟨h.1.filter _, fun e he => h.2 e (List.mem_of_mem_filter he)⟩
  · rename_i hv
    refine ⟨pairwise_insert t n v h.1, fun e he => ?_⟩
    rcases mem_insert t n v e he with rfl | he
    · exact hv
    · exact h.2 e he

end Sys2Proof.Table

namespace Sys2Proof.Machine.Memory

theorem read_write (m : List Host.Cell) (a b : Nat) (x : Byte) : read (write m a x) b = if a = b then x else read m b :=
  Table.get_set _ _ _ _ _

theorem wf_write (m : List Host.Cell) (a : Nat) (x : Byte) (h : wf m = true) : wf (write m a x) = true := Table.wf_set _ _ _ _ h

theorem wf_writeBytes (m : List Host.Cell) (a : Nat) (bs : List Byte) (h : wf m = true) : wf (writeBytes m a bs) = true := by
  induction bs generalizing m a with
  | nil => exact h
  | cons b bs ih => exact ih _ _ (wf_write _ _ _ h)

/-- Writing bytes leaves every byte outside them alone. -/
theorem read_writeBytes_other (m : List Host.Cell) (a : Nat) (bs : List Byte) (x : Nat) (h : x < a ∨ a + bs.length ≤ x) :
    read (writeBytes m a bs) x = read m x := by
  induction bs generalizing m a with
  | nil => rfl
  | cons b bs ih =>
    simp only [writeBytes, List.length_cons] at h ⊢
    rw [ih _ _ (by omega), read_write, if_neg (by omega)]

/-- Bytes written are read back. -/
theorem readBytes_writeBytes (m : List Host.Cell) (a : Nat) (bs : List Byte) :
    readBytes (writeBytes m a bs) a bs.length = bs := by
  induction bs generalizing m a with
  | nil => rfl
  | cons b bs ih =>
    simp only [writeBytes, List.length_cons, readBytes]
    rw [ih, read_writeBytes_other _ _ _ _ (by omega), read_write, if_pos rfl]

/-- A read of bytes depends on those bytes alone. -/
theorem readBytes_congr (m l : List Host.Cell) (a n : Nat) (h : ∀ x, a ≤ x → x < a + n → read m x = read l x) :
    readBytes m a n = readBytes l a n := by
  induction n generalizing a with
  | zero => rfl
  | succ n ih =>
    simp only [readBytes]
    rw [h a (le_refl _) (by omega), ih (a + 1) (fun x h1 h2 => h x (by omega) (by omega))]

end Sys2Proof.Machine.Memory
end

