-- ==== Sys2Proof/Laws/Quiet.lean ====
section
/-! SUPPORT. Quiet changes: what every operation below the end of a settlement or of an admission leaves alone. An operation is shown
quiet once, from the operations it is made of; a preserved law is then read off. -/

namespace Sys2Proof.Machine

/-! ### Unit by unit -/

/-- The Link Interface but for replies, notices, counts and the places of orders; no more reply places in use and no more notices than
there are places. -/
structure LinkQuiet (l m : Link) : Prop where
  partState : m.partState = l.partState
  lineRate : m.lineRate = l.lineRate
  receiver : m.receiver = l.receiver
  inBreak : m.inBreak = l.inBreak
  orders : m.orders.map Order.unplaced = l.orders.map Order.unplaced
  restart : m.restart = l.restart
  places : l.placesInUse.length ≤ Config.replyPlaces → m.placesInUse.length ≤ Config.replyPlaces
  notices : l.noticeCount ≤ Config.noticePlaces → m.noticeCount ≤ Config.noticePlaces

/-- The Record Cache but for lines, requests, memory operations and counts. -/
structure CacheQuiet (c d : Cache) : Prop where
  policy : d.policy = c.policy
  limit : d.limit = c.limit
  sweep : d.sweep = c.sweep
  addressBase : d.addressBase = c.addressBase

/-- The Message Store but for bodies and what live entries hold. -/
structure StoreQuiet (t u : Store) : Prop where
  groups : u.groups = t.groups
  unfinished : u.unfinished = t.unfinished
  poolFree : u.poolFree = t.poolFree
  freeEntries : u.freeEntries = t.freeEntries
  occupancy : u.occupancy = t.occupancy
  nextAdmission : u.nextAdmission = t.nextAdmission
  live : ∀ n, (u.entry n).isSome = (t.entry n).isSome

/-- The Billing Log but for what it has asked for and counted. -/
structure LogQuiet (l m : BillingLog) : Prop where
  records : m.records = l.records
  setAside : m.setAside = l.setAside
  nextSequence : m.nextSequence = l.nextSequence
  lastReturned : m.lastReturned = l.lastReturned
  selection : m.selection = l.selection
  appended : m.counts.appended = l.counts.appended

theorem LogQuiet.refl (l : BillingLog) : LogQuiet l l := ⟨rfl, rfl, rfl, rfl, rfl, rfl⟩

theorem LogQuiet.trans {l m n : BillingLog} (h : LogQuiet l m) (k : LogQuiet m n) : LogQuiet l n :=
  ⟨k.1.trans h.1, k.2.trans h.2, k.3.trans h.3, k.4.trans h.4, k.5.trans h.5, k.6.trans h.6⟩

theorem LinkQuiet.refl (l : Link) : LinkQuiet l l := ⟨rfl, rfl, rfl, rfl, rfl, rfl, id, id⟩

theorem LinkQuiet.trans {l m n : Link} (h : LinkQuiet l m) (k : LinkQuiet m n) : LinkQuiet l n :=
  ⟨k.1.trans h.1, k.2.trans h.2, k.3.trans h.3, k.4.trans h.4, k.5.trans h.5, k.6.trans h.6, fun x => k.7 (h.7 x), fun x => k.8 (h.8 x)⟩

theorem CacheQuiet.refl (c : Cache) : CacheQuiet c c := ⟨rfl, rfl, rfl, rfl⟩

theorem CacheQuiet.trans {c d e : Cache} (h : CacheQuiet c d) (k : CacheQuiet d e) : CacheQuiet c e :=
  ⟨k.1.trans h.1, k.2.trans h.2, k.3.trans h.3, k.4.trans h.4⟩

theorem StoreQuiet.refl (t : Store) : StoreQuiet t t := ⟨rfl, rfl, rfl, rfl, rfl, rfl, fun _ => rfl⟩

theorem StoreQuiet.trans {t u v : Store} (h : StoreQuiet t u) (k : StoreQuiet u v) : StoreQuiet t v :=
  ⟨k.1.trans h.1, k.2.trans h.2, k.3.trans h.3, k.4.trans h.4, k.5.trans h.5, k.6.trans h.6, fun n => (k.7 n).trans (h.7 n)⟩

theorem Settled.refl (s : State) : Settled s s := by constructor <;> rfl

theorem Settled.trans {s t u : State} (h : Settled s t) (k : Settled t u) : Settled s u := by
  constructor
  · exact k.pending.trans h.pending
  · exact k.mem.trans h.mem
  · exact k.timer.trans h.timer
  · exact k.zoneLinks.trans h.zoneLinks
  · exact k.monitor.trans h.monitor
  · exact k.partState.trans h.partState
  · exact k.lineRate.trans h.lineRate
  · exact k.receiver.trans h.receiver
  · exact k.inBreak.trans h.inBreak
  · exact k.orders.trans h.orders
  · exact k.restart.trans h.restart
  · exact k.hostLevel.trans h.hostLevel
  · exact k.congestionControl.trans h.congestionControl
  · exact k.groups.trans h.groups
  · exact k.unfinished.trans h.unfinished
  · exact k.poolFree.trans h.poolFree
  · exact k.writePolicy.trans h.writePolicy
  · exact k.limit.trans h.limit
  · exact k.sweep.trans h.sweep
  · exact k.addressBase.trans h.addressBase
  · exact k.retryPolicy.trans h.retryPolicy
  · exact k.missLimit.trans h.missLimit
  · exact k.probeInterval.trans h.probeInterval
  · exact k.activePlans.trans h.activePlans
  · exact k.pendingPlans.trans h.pendingPlans
  · exact k.period.trans h.period
  · exact k.selection.trans h.selection

/-- A quiet change: `Settled`, the records and places of the Billing Log and the head of the settle list as they were, the same
entries live. -/
structure Quiet (s t : State) : Prop where
  settled : Settled s t
  link : LinkQuiet s.link t.link
  store : StoreQuiet s.store t.store
  log : LogQuiet s.log t.log
  head : t.charging.head = s.charging.head

namespace Quiet

theorem refl (s : State) : Quiet s s := ⟨Settled.refl s, LinkQuiet.refl _, StoreQuiet.refl _, LogQuiet.refl _, rfl⟩

theorem trans {s t u : State} (h : Quiet s t) (k : Quiet t u) : Quiet s u :=
  ⟨h.settled.trans k.settled, h.link.trans k.link, h.store.trans k.store, h.log.trans k.log, k.head.trans h.head⟩

variable {s : State}

theorem withLink {l : Link} (h : LinkQuiet s.link l) : Quiet s (s.withLink l) :=
  ⟨{ Settled.refl s with
      partState := h.1, lineRate := h.2, receiver := h.3, inBreak := h.4, orders := h.5, restart := h.6 },
    h, StoreQuiet.refl _, LogQuiet.refl _, rfl⟩

theorem withStore {t : Store} (h : StoreQuiet s.store t) : Quiet s (s.withStore t) :=
  ⟨{ Settled.refl s with groups := h.1, unfinished := h.2, poolFree := h.3 }, LinkQuiet.refl _, h, LogQuiet.refl _, rfl⟩

theorem withCache {c : Cache} (h : CacheQuiet s.cache c) : Quiet s (s.withCache c) :=
  ⟨{ Settled.refl s with writePolicy := h.1, limit := h.2, sweep := h.3, addressBase := h.4 }, LinkQuiet.refl _,
    StoreQuiet.refl _, LogQuiet.refl _, rfl⟩

theorem withAssembler (a : Assembler) : Quiet s (s.withAssembler a) :=
  ⟨{ Settled.refl s with }, LinkQuiet.refl _, StoreQuiet.refl _, LogQuiet.refl _, rfl⟩

theorem withIntake {i : Intake} (h : i.hostLevel = s.intake.hostLevel) (k : i.congestionControl = s.intake.congestionControl) :
    Quiet s (s.withIntake i) :=
  ⟨{ Settled.refl s with hostLevel := h, congestionControl := k }, LinkQuiet.refl _, StoreQuiet.refl _, LogQuiet.refl _, rfl⟩

theorem withRetry {r : Retry} (h : r.policy = s.retry.policy) (k : r.missLimit = s.retry.missLimit)
    (p : r.probeInterval = s.retry.probeInterval) : Quiet s (s.withRetry r) :=
  ⟨{ Settled.refl s with retryPolicy := h, missLimit := k, probeInterval := p }, LinkQuiet.refl _, StoreQuiet.refl _, LogQuiet.refl _, rfl⟩

theorem withCharging {c : Charging} (h : c.active = s.charging.active) (k : c.pending = s.charging.pending)
    (p : c.period = s.charging.period) (q : c.head = s.charging.head) : Quiet s (s.withCharging c) :=
  ⟨{ Settled.refl s with activePlans := h, pendingPlans := k, period := p }, LinkQuiet.refl _, StoreQuiet.refl _, LogQuiet.refl _, q⟩

theorem withLog {l : BillingLog} (h : LogQuiet s.log l) : Quiet s (s.withLog l) :=
  ⟨{ Settled.refl s with selection := h.selection }, LinkQuiet.refl _, StoreQuiet.refl _, h, rfl⟩

/-- A fold of quiet changes is quiet. -/
theorem foldl {α : Type} {f : State → α → State} (h : ∀ s a, Quiet s (f s a)) (l : List α) (s : State) :
    Quiet s (l.foldl f s) := by
  induction l generalizing s with
  | nil => exact refl s
  | cons a l ih => exact (h s a).trans (ih _)

end Quiet

/-! ### The link -/

theorem Link.startSending_quiet (l : Link) : LinkQuiet l l.startSending := by
  have hp : ∀ (p : Nat) (a b : List Nat), (a ++ (b ++ [p])).length = (a ++ (p :: b)).length := by
    intro p a b; simp
  unfold Link.startSending
  split
  · exact LinkQuiet.refl l
  · split
    · exact LinkQuiet.refl l
    · exact LinkQuiet.refl l
    · rename_i h
      split
      · rename_i place r rest hr
        refine ⟨rfl, rfl, rfl, rfl, rfl, rfl, ?_, ?_⟩
        · simp [Link.placesInUse, h, hr]
        · simp [Link.noticeCount, h]
      · rename_i hr
        split
        · rename_i n rest hn
          refine ⟨rfl, rfl, rfl, rfl, rfl, rfl, ?_, ?_⟩
          · simp [Link.placesInUse, h, hr]
          · simp [Link.noticeCount, h, hn]
        · exact LinkQuiet.refl l

theorem Link.offerNotice_quiet (l : Link) (b : NoticeBody) : LinkQuiet l (l.offerNotice b) := by
  unfold Link.offerNotice
  dsimp only
  split
  · rename_i h
    refine LinkQuiet.trans ?_ (Link.startSending_quiet _)
    refine ⟨rfl, rfl, rfl, rfl, rfl, rfl, id, fun _ => ?_⟩
    simp only [Link.noticeCount, List.length_append, List.length_cons, List.length_nil] at h ⊢
    omega
  · exact ⟨rfl, rfl, rfl, rfl, rfl, rfl, id, id⟩

theorem Link.makeReply_quiet (l : Link) (place : Nat) (code : ReplyCode) (body : ReplyBody) :
    LinkQuiet l (l.makeReply place code body) := by
  unfold Link.makeReply
  split
  · exact LinkQuiet.refl l
  · rename_i t ht
    have hlt : (l.taken.filter (fun u => decide (u.place ≠ place))).length < l.taken.length := by
      have hm := List.mem_of_find?_eq_some ht
      have hp := List.find?_some ht
      rw [List.length_filter_lt_length_iff_exists]
      exact ⟨t, hm, by simpa using hp⟩
    dsimp only
    split
    · refine ⟨rfl, rfl, rfl, rfl, rfl, rfl, ?_, id⟩
      simp only [Link.placesInUse, List.length_append, List.length_map]
      omega
    · refine LinkQuiet.trans ?_ (Link.startSending_quiet _)
      refine ⟨rfl, rfl, rfl, rfl, rfl, rfl, ?_, id⟩
      simp only [Link.placesInUse, List.length_append, List.length_map, List.length_cons, List.length_nil]
      omega

theorem State.notice_quiet (b : NoticeBody) (s : State) : Quiet s (s.notice b) :=
  Quiet.withLink (Link.offerNotice_quiet _ b)

theorem State.setPlaces_quiet (s : State) : Quiet s s.setPlaces :=
  Quiet.withLink (s := s) (l := s.setPlaces.link) ⟨rfl, rfl, rfl, rfl, s.setPlaces_unplaced, rfl, s.setPlaces_count, id⟩

theorem State.reply_quiet (place : Nat) (code : ReplyCode) (body : ReplyBody) (s : State) : Quiet s (s.reply place code body) :=
  (Quiet.withLink (Link.makeReply_quiet _ place code body)).trans (State.setPlaces_quiet _)

end Sys2Proof.Machine
end

