-- ==== Sys2Proof/Laws/Frames.lean ====
section
/-! SUPPORT. The operations of the Message Store, the Record Cache, the Zone Monitor's record, the Retry Unit and the Frame Assembler
that are quiet, up to the Record Cache going on as far as it can. -/

namespace Sys2Proof.Machine

/-! ### The Message Store -/

theorem Store.entry_setEntry (t : Store) (n m : Nat) (v : Option Entry) :
    (t.setEntry n v).entry m = if n = m then v else t.entry m := Table.get_set _ _ _ _ _

/-- Replacing a live entry by another is quiet. -/
theorem Store.setEntry_quiet (t : Store) (n : Nat) (e : Entry) (h : (t.entry n).isSome = true) :
    StoreQuiet t (t.setEntry n (some e)) := by
  refine ⟨rfl, rfl, rfl, rfl, rfl, rfl, fun m => ?_⟩
  rw [Store.entry_setEntry]
  split
  · rename_i hm; subst hm; simpa using h.symm
  · rfl

theorem Store.changeEntry_quiet (t : Store) (n : Nat) (f : Entry → Entry) : StoreQuiet t (t.changeEntry n f) := by
  unfold Store.changeEntry
  split
  · exact StoreQuiet.refl t
  · rename_i e he
    exact Store.setEntry_quiet t n _ (by simp [he])

theorem Store.setBody_quiet (t : Store) (n : Nat) (v : Option Body) : StoreQuiet t (t.setBody n v) :=
  ⟨rfl, rfl, rfl, rfl, rfl, rfl, fun _ => rfl⟩

theorem Store.releaseIfUnused_quiet (t : Store) (n : Nat) : StoreQuiet t (t.releaseIfUnused n) := by
  unfold Store.releaseIfUnused
  split
  · exact StoreQuiet.refl t
  · split
    · exact ⟨rfl, rfl, rfl, rfl, rfl, rfl, fun _ => rfl⟩
    · exact StoreQuiet.refl t

theorem Store.lowerReferences_quiet (t : Store) (n : Nat) : StoreQuiet t (t.lowerReferences n) := by
  unfold Store.lowerReferences
  split
  · exact StoreQuiet.refl t
  · exact (Store.setBody_quiet t n _).trans (Store.releaseIfUnused_quiet _ n)

theorem State.changeEntry_quiet (n : Nat) (f : Entry → Entry) (s : State) : Quiet s (s.changeEntry n f) :=
  Quiet.withStore (Store.changeEntry_quiet _ n f)

theorem State.lowerReferences_quiet (n : Nat) (s : State) : Quiet s (s.lowerReferences n) :=
  Quiet.withStore (Store.lowerReferences_quiet _ n)

/-! ### The Record Cache -/

namespace Cache

variable (c : Cache) (n way : Nat)

theorem setLine_quiet (l : Line) : CacheQuiet c (c.setLine n way l) := ⟨rfl, rfl, rfl, rfl⟩

theorem markUsed_quiet : CacheQuiet c (c.markUsed n way) := ⟨rfl, rfl, rfl, rfl⟩

theorem issue_quiet (op : PortOp) : CacheQuiet c (c.issue op) := ⟨rfl, rfl, rfl, rfl⟩

theorem issueWrite_quiet (op : PortOp) : CacheQuiet c (c.issueWrite op) := ⟨rfl, rfl, rfl, rfl⟩

theorem withoutFront_quiet : CacheQuiet c (c.withoutFront n) := ⟨rfl, rfl, rfl, rfl⟩

theorem changeFront_quiet (k : RequestKind) : CacheQuiet c (c.changeFront n k) := ⟨rfl, rfl, rfl, rfl⟩

theorem afterUpdate_quiet : CacheQuiet c (c.afterUpdate n way) := by
  unfold afterUpdate
  split
  · exact ⟨rfl, rfl, rfl, rfl⟩
  · exact ⟨rfl, rfl, rfl, rfl⟩
  · dsimp only
    split <;> split <;> exact ⟨rfl, rfl, rfl, rfl⟩

theorem change_quiet (f : Record → Record) : CacheQuiet c (c.change n way f) :=
  (setLine_quiet c n way _).trans (afterUpdate_quiet _ n way)

theorem access_quiet (period : Word16) : CacheQuiet c (c.access period n way) := by
  unfold access
  split
  · exact markUsed_quiet c n way
  · exact (change_quiet c n way _).trans (markUsed_quiet _ n way)

theorem carryOut_quiet (period : Word16) (f : Record → Record) : CacheQuiet c (c.carryOut period n way f) :=
  (access_quiet c n way period).trans (change_quiet _ n way f)

theorem takeWay_quiet : CacheQuiet c (c.takeWay n way) := by
  unfold takeWay
  dsimp only
  split <;> exact ⟨rfl, rfl, rfl, rfl⟩

theorem startMiss_quiet : CacheQuiet c (c.startMiss n) := by
  unfold startMiss
  split
  · split
    · exact CacheQuiet.refl c
    · exact takeWay_quiet c n _
  · exact CacheQuiet.refl c

theorem tryMisses_quiet : CacheQuiet c c.tryMisses := by
  unfold tryMisses
  generalize c.queue = q
  induction q generalizing c with
  | nil => exact CacheQuiet.refl c
  | cons r q ih =>
    refine CacheQuiet.trans ?_ (ih _)
    dsimp only
    split
    · exact startMiss_quiet c r.sub
    · exact CacheQuiet.refl c

theorem enqueue_quiet (r : Request) : CacheQuiet c (c.enqueue r) := by
  unfold enqueue
  dsimp only
  split
  · exact CacheQuiet.trans (d := { c with queue := c.queue ++ [r] }) ⟨rfl, rfl, rfl, rfl⟩ (tryMisses_quiet _)
  · exact ⟨rfl, rfl, rfl, rfl⟩

theorem admitUpTo_quiet (fuel : Nat) : CacheQuiet c (c.admitUpTo fuel) := by
  induction fuel generalizing c with
  | zero => exact CacheQuiet.refl c
  | succ fuel ih =>
    unfold admitUpTo
    split
    · exact CacheQuiet.refl c
    · rename_i r rest _
      split
      · exact CacheQuiet.refl c
      · refine CacheQuiet.trans (CacheQuiet.trans (d := { c with heldRequests := rest }) ⟨rfl, rfl, rfl, rfl⟩ (enqueue_quiet _ r)) (ih _)

theorem admitted_quiet : CacheQuiet c c.admitted := admitUpTo_quiet c _

theorem leaveTouch_quiet : CacheQuiet c (c.leaveTouch n) := by
  unfold leaveTouch
  split
  · exact ⟨rfl, rfl, rfl, rfl⟩
  · split
    · exact CacheQuiet.refl c
    · exact enqueue_quiet c _

/-- With no request held none is admitted. -/
theorem admitted_of_none (h : c.heldRequests = []) : c.admitted = c := by
  simp only [admitted, h, List.length_nil, admitUpTo]

end Cache

namespace State

variable (s : State)

theorem serveOnLine_quiet (kind : RequestKind) (n way : Nat) : Quiet s (s.serveOnLine kind n way) := by
  unfold serveOnLine
  split
  case h_1 => exact Quiet.withCache (Cache.carryOut_quiet _ _ _ _ _)
  case h_2 => exact (Quiet.withCache (Cache.access_quiet _ _ _ _)).trans (Quiet.withRetry rfl rfl rfl)
  all_goals exact Quiet.refl s

theorem post_quiet (n : Nat) (kind : RequestKind) : Quiet s (s.post n kind) := by
  have base := Cache.admitted_quiet s.cache
  unfold post
  dsimp only
  split
  · exact (Quiet.withCache base).trans (serveOnLine_quiet _ kind n _)
  · split
    · exact Quiet.withCache (base.trans ⟨rfl, rfl, rfl, rfl⟩)
    · exact Quiet.withCache (base.trans (Cache.enqueue_quiet _ _))

theorem nonWaitingRead_quiet (n : Nat) : Quiet s (s.nonWaitingRead n).2 := by
  have base := Cache.admitted_quiet s.cache
  unfold nonWaitingRead
  dsimp only
  split
  · exact Quiet.withCache (base.trans (Cache.leaveTouch_quiet _ n))
  · exact Quiet.withCache (base.trans (Cache.access_quiet _ _ _ _))

theorem serveHolding_quiet (n way : Nat) : Quiet s (s.serveHolding n way) :=
  Quiet.withCache (((Cache.withoutFront_quiet _ n).trans (Cache.access_quiet _ n way _)).trans ⟨rfl, rfl, rfl, rfl⟩)

theorem release_quiet (n : Nat) : Quiet s (s.release n) := Quiet.withCache ⟨rfl, rfl, rfl, rfl⟩

theorem closingUpdate_quiet (n way : Nat) (f : Record → Record) : Quiet s (s.closingUpdate n way f) :=
  (Quiet.withCache (Cache.carryOut_quiet _ _ _ _ _)).trans (release_quiet _ n)

/-! ### Settling and the retry list -/

theorem settle_quiet (n : Nat) (outcome : EntryOutcome) (replyCode : Nat) : Quiet s (s.settle n outcome replyCode) :=
  (changeEntry_quiet n _ s).trans (Quiet.withCharging rfl rfl rfl rfl)

theorem countRetry_quiet (f : RetryCounts → RetryCounts) : Quiet s (s.countRetry f) := Quiet.withRetry rfl rfl rfl

theorem joinRetryList_quiet (x : RetryElement) : Quiet s (s.joinRetryList x) :=
  (changeEntry_quiet _ _ s).trans (Quiet.withRetry rfl rfl rfl)

theorem leaveRetryList_quiet (n : Nat) : Quiet s (s.leaveRetryList n) := Quiet.withRetry rfl rfl rfl

theorem awaitRetry_quiet (n : Nat) (missFrame cycle : Word32) : Quiet s (s.awaitRetry n missFrame cycle) := by
  unfold awaitRetry
  split
  · exact Quiet.refl s
  · exact joinRetryList_quiet s _

theorem postReachRead_quiet (n : Nat) : Quiet s (s.postReachRead n) := by
  unfold postReachRead
  split
  · exact Quiet.refl s
  · exact post_quiet _ _ _

theorem withAnnounced_quiet (v : List Announced) : Quiet s (s.withAnnounced v) := Quiet.withRetry rfl rfl rfl

theorem holdOver_quiet (event : RetryEvent) : Quiet s (s.holdOver event) := withAnnounced_quiet s _

theorem askReach_quiet (n : Nat) : Quiet s (s.askReach n) := by
  unfold askReach
  split
  · split
    · exact Quiet.refl s
    · exact holdOver_quiet s _
  · exact postReachRead_quiet s n

theorem resolveOneWay_quiet (n : Nat) (launch cycle : Word32) : Quiet s (s.resolveOneWay n launch cycle) := by
  unfold resolveOneWay
  split
  · exact Quiet.refl s
  · split
    · exact (settle_quiet s n _ _).trans (countRetry_quiet _ _)
    · split
      · exact settle_quiet s n _ _
      · exact ((awaitRetry_quiet s n _ _).trans (askReach_quiet _ n)).trans (countRetry_quiet _ _)

theorem takeLaunched_quiet (p : Placed) (launch : Word32) : Quiet s (s.takeLaunched p launch) := by
  unfold takeLaunched
  split
  · exact (changeEntry_quiet _ _ s).trans (Quiet.withRetry rfl rfl rfl)
  · exact resolveOneWay_quiet s _ _ _

/-! ### The Frame Assembler -/

theorem countAssembly_quiet (f : AssemblyCounts → AssemblyCounts) : Quiet s (s.countAssembly f) := Quiet.withAssembler _

theorem joinQueue_quiet (n k : Nat) : Quiet s (s.joinQueue n k) := Quiet.withAssembler _

theorem leaveQueue_quiet (n : Nat) : Quiet s (s.leaveQueue n) := by
  unfold leaveQueue
  split
  · exact Quiet.refl s
  · exact Quiet.withAssembler _

theorem leaveMissSkip_quiet (n : Nat) : Quiet s (s.leaveMissSkip n) := Quiet.withAssembler _

theorem withOpen_quiet (f : Option Frame) : Quiet s (s.withOpen f) := Quiet.withAssembler _

theorem fileQuietly_quiet (n : Nat) : Quiet s (s.fileQuietly n) := by
  unfold fileQuietly
  split
  · exact settle_quiet s n _ _
  · split
    · exact Quiet.refl s
    · exact (changeEntry_quiet n _ s).trans (joinQueue_quiet _ n _)

theorem place_quiet (n : Nat) (e : Entry) (r : Record) (mask : ZoneSet) : Quiet s (s.place n e r mask) := by
  unfold place
  split
  · exact Quiet.refl s
  · exact (((leaveQueue_quiet s n).trans (changeEntry_quiet n _ _)).trans (withOpen_quiet _ _)).trans (post_quiet _ _ _)

theorem defer_quiet (n : Nat) : Quiet s (s.defer n) := by
  unfold defer
  refine (countAssembly_quiet s (fun c => { c with deferrals := c.deferrals + 1 })).trans ?_
  dsimp only
  split
  · exact Quiet.refl _
  · split
    · exact changeEntry_quiet n _ _
    · split
      · exact changeEntry_quiet n _ _
      · split
        · exact changeEntry_quiet n _ _
        · exact (((leaveQueue_quiet _ n).trans (changeEntry_quiet n _ _)).trans (joinQueue_quiet _ n _)).trans
            (countAssembly_quiet _ _)

theorem displace_quiet (p : Placed) : Quiet s (s.displace p) := by
  unfold displace
  split
  · exact Quiet.refl s
  · exact ((withOpen_quiet s _).trans (fileQuietly_quiet _ _)).trans (countAssembly_quiet _ _)

theorem evictFor_quiet (mask : ZoneSet) (size : Nat) (p : Placed) : Quiet s (s.evictFor mask size p) := by
  unfold evictFor
  split
  · exact Quiet.refl s
  · split
    · exact Quiet.refl s
    · exact displace_quiet s p

theorem tryWithRecord_quiet (late : Bool) (n : Nat) (e : Entry) (f : Frame) (r : Record) :
    Quiet s (s.tryWithRecord late n e f r) := by
  unfold tryWithRecord
  dsimp only
  split
  · exact countAssembly_quiet s _
  · split
    · exact place_quiet s n e r _
    · split
      · exact (Quiet.foldl (fun s p => evictFor_quiet s _ _ p) _ s).trans (place_quiet _ n e r _)
      · exact defer_quiet s n

theorem tryEntry_quiet (late : Bool) (report : Option Record) (n : Nat) : Quiet s (s.tryEntry late report n) := by
  unfold tryEntry
  split
  · rename_i e f _ _
    split
    · exact countAssembly_quiet s _
    · split
      · exact (leaveMissSkip_quiet s n).trans (tryWithRecord_quiet _ _ _ _ _ _)
      · have h := nonWaitingRead_quiet s e.sub
        split
        · rename_i heq
          rw [heq] at h
          exact (h.trans (leaveMissSkip_quiet _ n)).trans (tryWithRecord_quiet _ _ _ _ _ _)
        · rename_i heq
          rw [heq] at h
          exact ((h.trans (leaveMissSkip_quiet _ n)).trans (Quiet.withAssembler _)).trans (countAssembly_quiet _ _)
  · exact Quiet.refl s

theorem file_quiet (n : Nat) : Quiet s (s.file n) := by
  unfold file
  dsimp only
  refine (fileQuietly_quiet s n).trans ?_
  split
  · split
    · exact tryEntry_quiet _ _ _ n
    · exact Quiet.refl _
  · exact Quiet.refl _

theorem readyReport_quiet (sub : Nat) (r : Record) : Quiet s (s.readyReport sub r) := by
  unfold readyReport
  dsimp only
  split
  · exact Quiet.withAssembler _
  · exact (Quiet.withAssembler _).trans (Quiet.foldl (fun s n => tryEntry_quiet s _ _ n) _ _)

theorem touchFault_quiet (sub : Nat) : Quiet s (s.touchFault sub) := by
  unfold touchFault
  dsimp only
  exact (Quiet.withAssembler (s := s) _).trans
    (Quiet.foldl (fun s n => (leaveQueue_quiet s n).trans (settle_quiet _ n _ _)) _ _)

theorem voidAttempt_quiet (n : Nat) : Quiet s (s.voidAttempt n) := by
  unfold voidAttempt
  refine (countAssembly_quiet s (fun c => { c with voidAttempts := c.voidAttempts + 1 })).trans ?_
  dsimp only
  split
  · exact Quiet.refl _
  · split
    · exact settle_quiet _ n _ _
    · exact file_quiet _ n

/-! ### The Record Cache going on -/

theorem answerFromLine_quiet (place n way : Nat) : Quiet s (s.answerFromLine place n way) :=
  (Quiet.withCache (Cache.access_quiet _ n way _)).trans (reply_quiet _ _ _ _)

theorem beginRepair_quiet (place n : Nat) (fields : HostFields) (balance : Nat) :
    Quiet s (s.beginRepair place n fields balance) := by
  unfold beginRepair
  split
  · exact (Quiet.withCache (Cache.withoutFront_quiet _ n)).trans (reply_quiet _ _ _ _)
  · dsimp only
    refine Quiet.withCache ?_
    split <;> exact ⟨rfl, rfl, rfl, rfl⟩

theorem serveFront_quiet (n : Nat) {t : State} (h : s.serveFront n = some t) : Quiet s t := by
  unfold serveFront at h
  split at h
  · exact absurd h (by simp)
  · split at h
    · exact absurd h (by simp)
    · split at h
      case h_1 =>
        obtain ⟨way, _, rfl⟩ := Option.map_eq_some_iff.1 h
        exact (Quiet.withCache (Cache.withoutFront_quiet _ n)).trans (serveOnLine_quiet _ _ _ _)
      case h_2 =>
        obtain ⟨way, _, rfl⟩ := Option.map_eq_some_iff.1 h
        exact (Quiet.withCache (Cache.withoutFront_quiet _ n)).trans (serveOnLine_quiet _ _ _ _)
      case h_3 =>
        obtain ⟨way, _, rfl⟩ := Option.map_eq_some_iff.1 h
        exact (Quiet.withCache ((Cache.withoutFront_quiet _ n).trans (Cache.access_quiet _ n way _))).trans
          (readyReport_quiet _ _ _)
      case h_4 =>
        obtain ⟨way, _, rfl⟩ := Option.map_eq_some_iff.1 h
        exact (Quiet.withCache (Cache.withoutFront_quiet _ n)).trans (answerFromLine_quiet _ _ _ _)
      case h_5 =>
        split at h
        · exact absurd h (by simp)
        · obtain rfl := Option.some.inj h
          exact Quiet.withCache ((Cache.changeFront_quiet _ n _).trans (Cache.issue_quiet _ _))
      case h_6 =>
        split at h
        · exact absurd h (by simp)
        · obtain rfl := Option.some.inj h
          exact beginRepair_quiet s _ n _ _
      all_goals exact absurd h (by simp)

theorem serveMany_quiet (n fuel : Nat) : Quiet s (s.serveMany n fuel) := by
  induction fuel generalizing s with
  | zero => exact Quiet.refl s
  | succ fuel ih =>
    unfold serveMany
    split
    · exact Quiet.refl s
    · rename_i t h
      exact (serveFront_quiet s n h).trans (ih t)

theorem serveSub_quiet (n : Nat) : Quiet s (s.serveSub n) := serveMany_quiet s n _

theorem serveAll_quiet : Quiet s s.serveAll := Quiet.foldl (fun (s : State) (r : Request) => serveSub_quiet s r.sub) _ s

theorem admitHeld_quiet (fuel : Nat) : Quiet s (s.admitHeld fuel) := by
  induction fuel generalizing s with
  | zero => exact Quiet.refl s
  | succ fuel ih =>
    unfold admitHeld
    split
    · exact Quiet.refl s
    · rename_i r rest _
      split
      · exact Quiet.refl s
      · refine Quiet.trans (Quiet.trans (Quiet.withCache ?_) (serveSub_quiet _ _)) (ih _)
        exact CacheQuiet.trans (d := { s.cache with heldRequests := rest }) ⟨rfl, rfl, rfl, rfl⟩ (Cache.enqueue_quiet _ _)

theorem tryMisses_quiet : Quiet s s.tryMisses := Quiet.withCache (Cache.tryMisses_quiet _)

/-- The Record Cache goes on quietly. -/
theorem runCache_quiet : Quiet s s.runCache :=
  (((serveAll_quiet s).trans (tryMisses_quiet _)).trans (admitHeld_quiet _ _)).trans (tryMisses_quiet _)

/-! ### Admission -/

theorem withOrder_quiet (v : Option IntakeOrder) : Quiet s (s.withOrder v) := Quiet.withIntake rfl rfl

theorem leaveHoldList_quiet (n : Nat) : Quiet s (s.leaveHoldList n) := Quiet.withIntake rfl rfl

theorem fileNew_quiet (n : Nat) (r : Record) : Quiet s (s.fileNew n r) := by
  unfold fileNew
  split
  · exact Quiet.refl s
  · split
    · split
      · exact settle_quiet s n _ _
      · exact joinRetryList_quiet s _
    · split
      · exact file_quiet s n
      · split
        · exact settle_quiet s n _ _
        · exact (changeEntry_quiet n _ s).trans (Quiet.withIntake rfl rfl)

theorem releaseHeld_quiet (before : Nat) : Quiet s (s.releaseHeld before) := by
  unfold releaseHeld
  split
  · refine Quiet.foldl (fun s n => ?_) _ s
    unfold releaseOne
    split
    · exact Quiet.refl s
    · split
      · exact (leaveHoldList_quiet s n).trans (file_quiet _ n)
      · exact Quiet.refl s
  · exact Quiet.refl s

theorem expireHeld_quiet (coming : Word32) : Quiet s (s.expireHeld coming) := by
  unfold expireHeld
  refine Quiet.foldl (fun s n => ?_) _ s
  split
  · exact Quiet.refl s
  · split
    · exact (leaveHoldList_quiet s n).trans (settle_quiet _ n _ _)
    · exact Quiet.refl s

theorem cancelHeld_quiet : Quiet s s.cancelHeld :=
  (Quiet.foldl (fun s n => settle_quiet s n .cancelled 0) _ s).trans (Quiet.withIntake rfl rfl)

theorem cancelHeldWhenDue_quiet : Quiet s s.cancelHeldWhenDue := by
  unfold cancelHeldWhenDue
  split
  · exact cancelHeld_quiet s
  · exact Quiet.refl s

end State

end Sys2Proof.Machine
end

