-- ==== Sys2Proof/Laws/Announced.lean ====
section
/-! SUPPORT. What the Retry Unit's work at frame starts and cycle turns leaves alone (R104 to R109), and that what is still due from the
last frame start does not touch the Air Timer. -/

namespace Sys2Proof.Machine

theorem State.postMiss_quiet (s : State) (a) : Quiet s (s.postMiss a) := by
  unfold State.postMiss
  split
  · exact Quiet.refl s
  · refine Quiet.trans (?_ : Quiet s (s.withRetry (s.retry.markMissed a.entry))) (State.post_quiet _ _ _)
    exact Quiet.withRetry rfl rfl rfl

theorem State.leaveAwaitSet_quiet (s : State) (n) : Quiet s (s.leaveAwaitSet n) := Quiet.withRetry rfl rfl rfl

theorem State.resolveMiss_quiet (s : State) (n g c) : Quiet s (s.resolveMiss n g c) := by
  have left := State.leaveAwaitSet_quiet s n
  unfold State.resolveMiss
  dsimp only
  split
  · exact left
  · split
    · exact left.trans (State.settle_quiet _ _ _ _)
    · split
      · exact (left.trans (State.settle_quiet _ _ _ _)).trans (State.countRetry_quiet _ _)
      · exact ((left.trans (State.awaitRetry_quiet _ _ _ _)).trans (State.postReachRead_quiet _ _)).trans (State.countRetry_quiet _ _)

theorem State.missDeadline_quiet (s : State) (g c a) : Quiet s (s.missDeadline g c a) := by
  unfold State.missDeadline
  dsimp only
  split
  · exact State.postMiss_quiet s a
  · exact (State.postMiss_quiet s a).trans (State.resolveMiss_quiet _ _ _ _)

theorem State.passDeadlines_quiet (g c) (fuel) : ∀ s : State, Quiet s (s.passDeadlines g c fuel) := by
  induction fuel with
  | zero => exact fun s => Quiet.refl s
  | succ n ih =>
    intro s; unfold State.passDeadlines; split
    · exact Quiet.refl s
    · split
      · exact Quiet.refl s
      · exact (State.missDeadline_quiet s _ _ _).trans (ih _)

theorem State.expireRetries_quiet (k) (s : State) : Quiet s (s.expireRetries k) := by
  unfold State.expireRetries
  apply Quiet.foldl
  intro s a; split
  · exact Quiet.refl s
  · split
    · exact ((State.leaveRetryList_quiet s _).trans (State.settle_quiet _ _ _ _)).trans (State.countRetry_quiet _ _)
    · exact Quiet.refl s
theorem State.releaseDue_quiet (k) (s : State) : Quiet s (s.releaseDue k) := by
  unfold State.releaseDue
  apply Quiet.foldl
  intro s a; split
  · exact ((State.leaveRetryList_quiet s _).trans (State.file_quiet _ _)).trans (State.countRetry_quiet _ _)
  · exact Quiet.refl s
theorem State.turnRetries_quiet (k) (s : State) : Quiet s (s.turnRetries k) :=
  ((State.expireRetries_quiet k s).trans (State.releaseDue_quiet k _)).trans (Quiet.withRetry rfl rfl rfl)

theorem State.actOn_quiet (a rest) (s : State) : Quiet s (s.actOn a rest) := by
  unfold State.actOn
  split
  · exact (State.withAnnounced_quiet s rest).trans (State.post_quiet _ _ _)
  · exact (State.withAnnounced_quiet s rest).trans (State.turnRetries_quiet _ _)
  · exact (State.passDeadlines_quiet _ _ _ s).trans (State.withAnnounced_quiet _ _)

theorem State.drainAnnounced_quiet (fuel) : ∀ s : State, Quiet s (s.drainAnnounced fuel) := by
  induction fuel with
  | zero => exact fun s => Quiet.refl s
  | succ n ih =>
    intro s; unfold State.drainAnnounced; split
    · exact Quiet.refl s
    · split
      · exact Quiet.refl s
      · exact (State.actOn_quiet _ _ s).trans (ih _)
theorem State.takeAnnounced_quiet (s : State) : Quiet s s.takeAnnounced := State.drainAnnounced_quiet _ s

theorem State.occurrence_timer (s : State) (z c) : (s.occurrence z c).timer = s.timer := by
  unfold State.occurrence; split
  · rfl
  · dsimp only; split
    · unfold State.record; dsimp only; split <;> rfl
    · rfl
theorem State.recordAllDue_timer (s : State) : s.recordAllDue.timer = s.timer := by
  unfold State.recordAllDue
  generalize List.range Config.zones = l
  induction l generalizing s with
  | nil => rfl
  | cons z l ih =>
    rw [List.foldl_cons, ih]
    have h1 : ∀ s : State, (s.recordUntaken z).timer = s.timer := by
      intro s; unfold State.recordUntaken; split
      · rw [State.occurrence_timer]; rfl
      · rfl
    have h2 : ∀ s : State, (s.recordSilent z).timer = s.timer := by
      intro s; unfold State.recordSilent; split
      · rw [State.occurrence_timer]; rfl
      · rfl
    unfold State.recordDue
    rw [h2, h1]

theorem State.finishLastFrame_timer (s : State) : s.finishLastFrame.timer = s.timer := by
  unfold State.finishLastFrame
  rw [(State.takeAnnounced_quiet _).settled.timer, State.recordAllDue_timer]

end Sys2Proof.Machine
end

