-- ==== Sys2Proof/Laws/PerInstr.lean ====
section
/-! SUPPORT. A law of each command as syntax: spec/opcode_table.json gives its row no bits, so no table word spells it. -/

namespace Sys2Proof.Laws.Unspelled

/-- No table word spells the command. -/
def Statement (i : Instr) : Prop := ∀ nbits w, decodeTableWord nbits w ≠ some i

theorem powerOn (hostRate zoneRate : Nat) : Statement (.powerOn hostRate zoneRate) := fun _ _ h => by cases h
theorem submit : Statement .submit := fun _ _ h => by cases h
theorem intakeReadServed : Statement .intakeReadServed := fun _ _ h => by cases h
theorem submitGroup : Statement .submitGroup := fun _ _ h => by cases h
theorem groupMemberReadServed : Statement .groupMemberReadServed := fun _ _ h => by cases h
theorem cancel : Statement .cancel := fun _ _ h => by cases h
theorem cancelRequest : Statement .cancelRequest := fun _ _ h => by cases h
theorem setAdmission : Statement .setAdmission := fun _ _ h => by cases h
theorem queryMessage : Statement .queryMessage := fun _ _ h => by cases h
theorem groupSet : Statement .groupSet := fun _ _ h => by cases h
theorem groupRead : Statement .groupRead := fun _ _ h => by cases h
theorem readSub : Statement .readSub := fun _ _ h => by cases h
theorem readSubServed (sub : Nat) : Statement (.readSubServed sub) := fun _ _ h => by cases h
theorem hostReadDone : Statement .hostReadDone := fun _ _ h => by cases h
theorem writeSub : Statement .writeSub := fun _ _ h => by cases h
theorem writeSubReadDone : Statement .writeSubReadDone := fun _ _ h => by cases h
theorem repairSub : Statement .repairSub := fun _ _ h => by cases h
theorem hostWriteDone : Statement .hostWriteDone := fun _ _ h => by cases h
theorem initRecords : Statement .initRecords := fun _ _ h => by cases h
theorem initRecordWrite : Statement .initRecordWrite := fun _ _ h => by cases h
theorem initRecordsDone : Statement .initRecordsDone := fun _ _ h => by cases h
theorem flush : Statement .flush := fun _ _ h => by cases h
theorem flushVisit : Statement .flushVisit := fun _ _ h => by cases h
theorem flushDone : Statement .flushDone := fun _ _ h => by cases h
theorem setCache : Statement .setCache := fun _ _ h => by cases h
theorem setAddressBase : Statement .setAddressBase := fun _ _ h => by cases h
theorem fillDone : Statement .fillDone := fun _ _ h => by cases h
theorem castoutDone : Statement .castoutDone := fun _ _ h => by cases h
theorem writeBackDone : Statement .writeBackDone := fun _ _ h => by cases h
theorem throughWriteDone : Statement .throughWriteDone := fun _ _ h => by cases h
theorem setTiming : Statement .setTiming := fun _ _ h => by cases h
theorem frameStart : Statement .frameStart := fun _ _ h => by cases h
theorem strobe (elapsed : Nat) : Statement (.strobe elapsed) := fun _ _ h => by cases h
theorem strobeLoss : Statement .strobeLoss := fun _ _ h => by cases h
theorem cycleTurn : Statement .cycleTurn := fun _ _ h => by cases h
theorem taken (link : Nat) (body : List Byte) : Statement (.taken link body) := fun _ _ h => by cases h
theorem reject (link : Nat) (body : List Byte) : Statement (.reject link body) := fun _ _ h => by cases h
theorem stateReport (link : Nat) (body : List Byte) : Statement (.stateReport link body) := fun _ _ h => by cases h
theorem window (link : Nat) (body : List Byte) : Statement (.window link body) := fun _ _ h => by cases h
theorem zoneBadFrame (link : Nat) (frame : ZoneFrameIn) : Statement (.zoneBadFrame link frame) := fun _ _ h => by cases h
theorem zoneGapTimeout (link : Nat) (kind : Option Byte) : Statement (.zoneGapTimeout link kind) := fun _ _ h => by cases h
theorem ack : Statement .ack := fun _ _ h => by cases h
theorem register : Statement .register := fun _ _ h => by cases h
theorem deadlineMiss : Statement .deadlineMiss := fun _ _ h => by cases h
theorem reachReadAnswer : Statement .reachReadAnswer := fun _ _ h => by cases h
theorem setPolicy : Statement .setPolicy := fun _ _ h => by cases h
theorem setReach : Statement .setReach := fun _ _ h => by cases h
theorem planSet : Statement .planSet := fun _ _ h => by cases h
theorem planRead : Statement .planRead := fun _ _ h => by cases h
theorem closePeriod : Statement .closePeriod := fun _ _ h => by cases h
theorem topUp : Statement .topUp := fun _ _ h => by cases h
theorem topUpReadServed : Statement .topUpReadServed := fun _ _ h => by cases h
theorem adjust : Statement .adjust := fun _ _ h => by cases h
theorem adjustReadServed : Statement .adjustReadServed := fun _ _ h => by cases h
theorem settlement : Statement .settlement := fun _ _ h => by cases h
theorem collect : Statement .collect := fun _ _ h => by cases h
theorem setNotices : Statement .setNotices := fun _ _ h => by cases h
theorem setZone : Statement .setZone := fun _ _ h => by cases h
theorem zoneRestore : Statement .zoneRestore := fun _ _ h => by cases h
theorem setFaultHandling : Statement .setFaultHandling := fun _ _ h => by cases h
theorem clearFaults : Statement .clearFaults := fun _ _ h => by cases h
theorem readFaults : Statement .readFaults := fun _ _ h => by cases h
theorem untaken (zone : Nat) : Statement (.untaken zone) := fun _ _ h => by cases h
theorem revSilent (zone : Nat) : Statement (.revSilent zone) := fun _ _ h => by cases h
theorem status : Statement .status := fun _ _ h => by cases h
theorem start : Statement .start := fun _ _ h => by cases h
theorem restart : Statement .restart := fun _ _ h => by cases h
theorem restartDrainDone : Statement .restartDrainDone := fun _ _ h => by cases h
theorem restartComplete : Statement .restartComplete := fun _ _ h => by cases h
theorem hostFrame (kind tag : Byte) (body : List Byte) (check : Word16) : Statement (.hostFrame kind tag body check) := fun _ _ h => by cases h
theorem hostGapTimeout : Statement .hostGapTimeout := fun _ _ h => by cases h
theorem linkReset : Statement .linkReset := fun _ _ h => by cases h
theorem breakEnd : Statement .breakEnd := fun _ _ h => by cases h
theorem frameSent : Statement .frameSent := fun _ _ h => by cases h
theorem hostSync : Statement .hostSync := fun _ _ h => by cases h
theorem hostLineError : Statement .hostLineError := fun _ _ h => by cases h
theorem hostLengthDiscard (length : Word16) : Statement (.hostLengthDiscard length) := fun _ _ h => by cases h

end Sys2Proof.Laws.Unspelled
end

