-- ==== Sys2Proof/Laws/Port.lean ====
section
/-! SUPPORT. The record memory port and the queue behind it: what stands at the port when an operation completes (R36, R45), and what
a host record order leaves of the queue as it goes on to its next phase (R42 to R44). -/

namespace Sys2Proof.Machine

variable {s t : State} {op : PortOp} {rest : List PortOp} {mem : List Host.Cell}

/-- The default writes ahead of an operation are carried out in the port's order, and no more than them (log 11). -/
theorem State.completion_go (s : State) (ahead : List (Nat × Record)) (rest : List PortOp) (mem : List Host.Cell)
    (h : ∀ d ∈ ahead, d.1 < Config.subscribers) :
    State.completion.go s (ahead.map (fun d => .initWrite d.1 d.2 false) ++ rest) mem =
      State.completion.go s rest (ahead.foldl (fun m d => Memory.writeRecord m d.1 d.2) mem) := by
  induction ahead generalizing mem with
  | nil => rfl
  | cons d ahead ih =>
    rw [List.map_cons, List.cons_append, State.completion.go, if_pos (h d (by simp))]
    exact ih _ (fun e he => h e (by simp [he]))

/-- An operation other than such a default write completes as the port comes to it. -/
theorem State.completion_go_head (s : State) (op : PortOp) (rest : List PortOp) (mem : List Host.Cell)
    (h : ∀ n r, op ≠ .initWrite n r false) :
    State.completion.go s (op :: rest) mem = some (op, (s.withMem mem).withCache { s.cache with port := rest }) := by
  rw [State.completion.go]
  exact fun n r e => h n r e

theorem State.PortComesTo.completion (h : s.PortComesTo op rest mem) (hop : ∀ n r, op ≠ .initWrite n r false) :
    s.completion = some (op, { s with mem, cache := { s.cache with port := rest } }) := by
  obtain ⟨ahead, hr, hp, rfl⟩ := h
  rw [State.completion, hp, State.completion_go s ahead _ _ hr, State.completion_go_head s op rest _ hop]
  rfl

/-- What completes at the port, and all that the completion brings with it: the operation is the first that is no default write before a
sweep's last, and those ahead of it have been written. -/
theorem State.completion_eq_some :
    s.completion = some (op, t) ↔ (∀ n r, op ≠ .initWrite n r false) ∧
      ∃ rest mem, s.PortComesTo op rest mem ∧ t = { s with mem, cache := { s.cache with port := rest } } := by
  constructor
  · have key : ∀ (port : List PortOp) (m : List Host.Cell), State.completion.go s port m = some (op, t) →
        (∀ n r, op ≠ .initWrite n r false) ∧ ∃ (ahead : List (Nat × Record)) (rest : List PortOp),
          (∀ d ∈ ahead, d.1 < Config.subscribers) ∧ port = ahead.map (fun d => .initWrite d.1 d.2 false) ++ op :: rest ∧
          t = { s with mem := ahead.foldl (fun m d => Memory.writeRecord m d.1 d.2) m, cache := { s.cache with port := rest } } := by
      intro port
      induction port with
      | nil => intro m h; simp [State.completion.go] at h
      | cons p port ih =>
        intro m h
        by_cases hp : ∃ n r, p = .initWrite n r false
        · obtain ⟨n, r, rfl⟩ := hp
          rw [State.completion.go] at h
          split at h
          · rename_i hn
            obtain ⟨hop, ahead, rest, hr, rfl, rfl⟩ := ih _ h
            exact ⟨hop, (n, r) :: ahead, rest, by simpa using ⟨hn, fun a b => hr (a, b)⟩, rfl, rfl⟩
          · cases h
        · have hp' : ∀ n r, p ≠ .initWrite n r false := fun n r e => hp ⟨n, r, e⟩
          rw [State.completion_go_head s p port m hp'] at h
          cases h
          exact ⟨hp', [], port, by simp, rfl, rfl⟩
    intro h
    obtain ⟨hop, ahead, rest, hr, hp, ht⟩ := key _ _ h
    exact ⟨hop, rest, _, ⟨ahead, hr, hp, rfl⟩, ht⟩
  · rintro ⟨hop, rest, mem, h, rfl⟩
    exact h.completion hop

/-- With default writes before a sweep's last alone at the port, nothing completes. -/
theorem State.completion_of_default_writes (ahead : List (Nat × Record))
    (h : s.cache.port = ahead.map (fun d => .initWrite d.1 d.2 false)) : s.completion = none := by
  by_contra hc
  obtain ⟨⟨op, t⟩, ho⟩ := Option.ne_none_iff_exists'.1 hc
  obtain ⟨hop, rest, mem, ⟨ahead', -, hp, -⟩, -⟩ := State.completion_eq_some.1 ho
  have : op ∈ ahead.map (fun d => PortOp.initWrite d.1 d.2 false) := by rw [← h, hp]; simp
  obtain ⟨d, -, rfl⟩ := List.mem_map.1 this
  exact hop _ _ rfl

/-- A host record order takes its next phase in its place: every other request stays. -/
theorem Cache.changeFront_split (c : Cache) (n : Nat) (kind : RequestKind) {before after : List Request} {q : Request}
    (hq : c.queue = before ++ q :: after) (hn : q.sub = n) (hb : ∀ x ∈ before, x.sub ≠ n) :
    c.changeFront n kind = { c with queue := before ++ { q with kind } :: after } := by
  have key : ∀ l : List Request, (∀ x ∈ l, x.sub ≠ n) →
      Cache.changeFront.go n kind (l ++ q :: after) = l ++ { q with kind } :: after := by
    intro l
    induction l with
    | nil => intro _; simp [Cache.changeFront.go, hn]
    | cons x l ih =>
      intro hl
      have hx : x.sub ≠ n := hl x (by simp)
      simp only [List.cons_append, Cache.changeFront.go, beq_iff_eq, hx, if_false]
      rw [ih (fun y hy => hl y (by simp [hy]))]
  rw [Cache.changeFront, hq, key before hb]

end Sys2Proof.Machine
end

