-- ==== Sys2Proof/Laws/Progress.lean ====
section
/-! SUPPORT. What the operations that end settlements and create entries keep, and with them the whole of settling down: `Settled`,
the records already in the log, the laws of the log's places and of the entries (R3, R4, R135). -/

namespace Sys2Proof.Machine

/-- A change that keeps `Settled`, the records already held, and the laws of the log and of the entries. -/
structure Progress (s t : State) : Prop where
  settled : Settled s t
  link : LinkQuiet s.link t.link
  records : ∃ new, t.log.records = s.log.records ++ new
  lastReturned : t.log.lastReturned = s.log.lastReturned
  log : s.logLegal → t.logLegal
  entries : s.entriesLegal → t.entriesLegal

theorem Progress.refl (s : State) : Progress s s :=
  ⟨Settled.refl s, LinkQuiet.refl _, ⟨[], by simp⟩, rfl, id, id⟩

theorem Progress.trans {s t u : State} (h : Progress s t) (k : Progress t u) : Progress s u := by
  refine ⟨h.settled.trans k.settled, h.link.trans k.link, ?_, k.lastReturned.trans h.lastReturned, fun x => k.log (h.log x),
    fun x => k.entries (h.entries x)⟩
  obtain ⟨a, ha⟩ := h.records
  obtain ⟨b, hb⟩ := k.records
  exact ⟨a ++ b, by rw [hb, ha, List.append_assoc]⟩

/-- The law of the entries follows the store and the count of records appended. -/
theorem entriesLegal_of_quiet {s t : State} (h : StoreQuiet s.store t.store)
    (a : t.log.counts.appended = s.log.counts.appended) (k : s.entriesLegal) : t.entriesLegal := by
  obtain ⟨k1, k2, k3, k4, k5⟩ := k
  have hn : ∀ n, t.store.entry n = none ↔ s.store.entry n = none := fun n => by
    rw [← Option.isNone_iff_eq_none, ← Option.isNone_iff_eq_none, ← Option.not_isSome, ← Option.not_isSome, h.live n]
  refine ⟨by rw [h.freeEntries]; exact k1, fun n => ?_, fun n hx => (hn n).2 (k3 n hx), ?_, ?_⟩
  · rw [h.freeEntries, hn n]; exact k2 n
  · rw [h.freeEntries, h.occupancy]; exact k4
  · rw [h.nextAdmission, h.occupancy, a]; exact k5

theorem Quiet.progress {s t : State} (h : Quiet s t) : Progress s t := by
  refine ⟨h.settled, h.link, ⟨[], by rw [h.log.records, List.append_nil]⟩, h.log.lastReturned, fun k => ?_,
    entriesLegal_of_quiet h.store h.log.appended⟩
  unfold State.logLegal
  rw [h.log.records, h.log.setAside, h.head]
  exact k

/-! ### Free lists -/

theorem FreeList.slots_give (f : FreeList) (n : Nat) : (f.give n).slots = f.slots ++ [n] := by
  simp [FreeList.slots, FreeList.give]

theorem FreeList.slots_take {f g : FreeList} {n : Nat} (h : f.take = some (n, g)) : f.slots = n :: g.slots := by
  unfold FreeList.take at h
  split at h
  · rename_i hlt
    obtain ⟨rfl, rfl⟩ := Prod.mk.inj (Option.some.inj h)
    have : f.size - f.next = (f.size - (f.next + 1)) + 1 := by omega
    simp [FreeList.slots, this, List.range'_succ]
  · rename_i hlt
    split at h
    · exact absurd h (by simp)
    · rename_i m rest hr
      obtain ⟨rfl, rfl⟩ := Prod.mk.inj (Option.some.inj h)
      have : f.size - f.next = 0 := by omega
      simp [FreeList.slots, this, hr]

/-! ### Entries created and freed -/

namespace State

variable (s : State)

/-- A change of occupancy that comes with a change of the entries alone, log and head as they were. -/
theorem setOccupancy_frame (t : Store) (n : Nat) (hg : t.groups = s.store.groups) (hu : t.unfinished = s.store.unfinished)
    (hp : t.poolFree = s.store.poolFree) :
    let u := (s.withStore t).setOccupancy n
    Settled s u ∧ LinkQuiet s.link u.link ∧ u.log = s.log ∧ u.charging = s.charging ∧ u.store.occupancy = n ∧
      u.store.freeEntries = t.freeEntries ∧ u.store.entries = t.entries ∧ u.store.nextAdmission = t.nextAdmission := by
  unfold setOccupancy
  dsimp only
  split
  · exact ⟨{ Settled.refl s with groups := hg, unfinished := hu, poolFree := hp }, LinkQuiet.refl _, rfl, rfl, rfl, rfl, rfl, rfl⟩
  · refine ⟨?_, Link.offerNotice_quiet _ _, rfl, rfl, rfl, rfl, rfl, rfl⟩
    refine Settled.trans (t := s.withStore { t with occupancy := n, congestion := congestionAfter t.congestion n }) ?_
      (notice_quiet _ _).settled
    exact { Settled.refl s with groups := hg, unfinished := hu, poolFree := hp }

/-- The law of the entries once an entry is freed and its record has been appended. -/
theorem freeEntry_frame (n : Nat) (h : (s.store.entry n).isSome = true) :
    let u := s.freeEntry n
    Settled s u ∧ LinkQuiet s.link u.link ∧ u.log = s.log ∧ u.charging = s.charging ∧
      (s.store.freeEntries.slots.Nodup →
        (∀ m, m ∈ s.store.freeEntries.slots ↔ m < Config.entrySlots ∧ s.store.entry m = none) →
        (∀ m, Config.entrySlots ≤ m → s.store.entry m = none) →
        s.store.occupancy + s.store.freeEntries.slots.length = Config.entrySlots →
        s.store.nextAdmission - 1 + 1 = s.log.counts.appended + BitVec.ofNat 32 s.store.occupancy → u.entriesLegal) := by
  unfold freeEntry
  split
  · rename_i hn; rw [hn] at h; exact absurd h (by simp)
  · rename_i e he
    obtain ⟨f1, f2, f3, f4, f5, f6, f7, f8⟩ := setOccupancy_frame s
      { s.store.setEntry n none with freeEntries := s.store.freeEntries.give n } (s.store.occupancy - 1) rfl rfl rfl
    refine ⟨f1, f2, f3, f4, fun k1 k2 k3 k4 k5 => ?_⟩
    have hlt : n < Config.entrySlots := by
      by_contra hc
      rw [k3 n (by omega)] at he; exact absurd he (by simp)
    have hnot : n ∉ s.store.freeEntries.slots := fun hm => by
      have := (k2 n).1 hm; rw [he] at this; exact absurd this.2 (by simp)
    have hent : ∀ m, (setOccupancy (s.store.occupancy - 1) (s.withStore
        { s.store.setEntry n none with freeEntries := s.store.freeEntries.give n })).store.entry m =
          if n = m then none else s.store.entry m := fun m => by
      rw [← Store.entry_setEntry]; unfold Store.entry; rw [f7]
    have hpos : 0 < s.store.occupancy := by
      by_contra hz
      have hz : s.store.occupancy = 0 := by omega
      rw [hz, Nat.zero_add] at k4
      have hnd : (n :: s.store.freeEntries.slots).Nodup := List.nodup_cons.2 ⟨hnot, k1⟩
      have hsub : n :: s.store.freeEntries.slots ⊆ List.range Config.entrySlots := by
        intro x hx
        rcases List.mem_cons.1 hx with rfl | hx
        · exact List.mem_range.2 hlt
        · exact List.mem_range.2 ((k2 x).1 hx).1
      have := (List.subperm_of_subset hnd hsub).length_le
      simp only [List.length_cons, List.length_range] at this
      omega
    refine ⟨?_, fun m => ?_, fun m hm => ?_, ?_, ?_⟩
    · rw [f6, FreeList.slots_give]
      refine List.Nodup.append k1 (List.nodup_singleton n) ?_
      simpa using hnot
    · rw [f6, FreeList.slots_give, hent]
      simp only [List.mem_append, List.mem_singleton, k2]
      by_cases hm : n = m
      · subst hm; simp [hlt]
      · simp [hm, Ne.symm hm]
    · rw [hent]; split
      · rfl
      · exact k3 m hm
    · rw [f5, f6, FreeList.slots_give, List.length_append, List.length_singleton]; omega
    · rw [f8, f3, f5]
      have hx : BitVec.ofNat 32 s.store.occupancy = BitVec.ofNat 32 (s.store.occupancy - 1) + 1#32 := by
        rw [← BitVec.ofNat_add, Nat.sub_add_cancel hpos]
      rw [hx] at k5
      show s.store.nextAdmission - 1 = _
      rw [← BitVec.add_assoc] at k5
      exact add_right_cancel k5

/-- Creating an entry keeps everything a settlement keeps. -/
theorem createEntry_progress (e : Entry) {n : Nat} {t : State} (h : s.createEntry e = some (n, t)) : Progress s t := by
  unfold createEntry at h
  obtain ⟨⟨m, g⟩, ht, hp⟩ := Option.map_eq_some_iff.1 h
  obtain ⟨rfl, rfl⟩ := Prod.mk.inj hp
  obtain ⟨f1, f2, f3, f4, f5, f6, f7, f8⟩ := setOccupancy_frame s
    { s.store with freeEntries := g, entries := Table.set none s.store.entries m (some e),
                   nextAdmission := s.store.nextAdmission + 1 } (s.store.occupancy + 1) rfl rfl rfl
  refine ⟨f1, f2, ⟨[], by rw [f3, List.append_nil]⟩, by rw [f3], fun k => ?_, fun k => ?_⟩
  · unfold logLegal; rw [f3, f4]; exact k
  · obtain ⟨k1, k2, k3, k4, k5⟩ := k
    have hs := FreeList.slots_take ht
    have hent : ∀ x, (setOccupancy (s.store.occupancy + 1) (s.withStore
        { s.store with freeEntries := g, entries := Table.set none s.store.entries m (some e),
                       nextAdmission := s.store.nextAdmission + 1 })).store.entry x =
          if m = x then some e else s.store.entry x := fun x => by
      unfold Store.entry; rw [f7]; exact Table.get_set none s.store.entries m x (some e)
    have hm : m < Config.entrySlots := ((k2 m).1 (by rw [hs]; simp)).1
    rw [hs] at k1 k2 k4
    rw [List.nodup_cons] at k1
    refine ⟨by rw [f6]; exact k1.2, fun x => ?_, fun x hx => ?_, ?_, ?_⟩
    · rw [f6, hent]
      by_cases hx : m = x
      · subst hx; simp [k1.1]
      · have := k2 x
        simp only [List.mem_cons, Ne.symm hx, false_or] at this
        simp [hx, this]
    · rw [hent, if_neg (by omega)]; exact k3 x hx
    · rw [f5, f6]
      show _ + g.slots.length = _
      simp only [List.length_cons] at k4
      omega
    · rw [f8, f3, f5]
      show s.store.nextAdmission + 1 - 1 = _
      rw [BitVec.ofNat_add, ← BitVec.add_assoc, ← k5]
      exact (add_sub_cancel_right _ _).trans (sub_add_cancel _ _).symm

/-! ### The end of a settlement -/

theorem appendRecord_frame (r : BillingRecord) :
    let u := s.appendRecord r
    Settled s u ∧ LinkQuiet s.link u.link ∧ u.store = s.store ∧ u.log.records = s.log.records ++ [r] ∧ u.log.setAside = false ∧
      u.log.lastReturned = s.log.lastReturned ∧ u.log.counts.appended = s.log.counts.appended + 1 := by
  unfold appendRecord
  dsimp only
  split
  · refine ⟨?_, Link.offerNotice_quiet _ _, rfl, rfl, rfl, rfl, rfl⟩
    exact { (notice_quiet _ s).settled with }
  · exact ⟨{ Settled.refl s with }, LinkQuiet.refl _, rfl, rfl, rfl, rfl, rfl⟩

theorem outcomeNotice_quiet (n : Nat) (r : BillingRecord) : Quiet s (s.outcomeNotice n r) := by
  unfold outcomeNotice
  dsimp only
  split
  · exact (notice_quiet _ s).trans (Quiet.withLog ⟨rfl, rfl, rfl, rfl, rfl, rfl⟩)
  · exact Quiet.withLog ⟨rfl, rfl, rfl, rfl, rfl, rfl⟩

/-- Finishing the settlement of a live entry, a log place being set aside, keeps what `Progress` names. -/
theorem finishSettlement_progress (el : SettleElement) (e : Entry) (m : Money) (plan : Option Nat)
    (live : (s.store.entry el.entry).isSome = true) (place : s.logLegal → s.log.setAside = true) :
    Progress s (s.finishSettlement el e m plan) := by
  obtain ⟨a1, a2, a3, a4, a5, a6, a7⟩ := appendRecord_frame s (s.billingRecord e el m plan)
  have b := lowerReferences_quiet e.body (s.appendRecord (s.billingRecord e el m plan))
  have hlive : (((s.appendRecord (s.billingRecord e el m plan)).lowerReferences e.body).store.entry el.entry).isSome = true := by
    rw [b.store.live, a3]; exact live
  obtain ⟨c1, c2, c3, c4, c5⟩ := freeEntry_frame _ el.entry hlive
  have d := releaseHeld_quiet (((s.appendRecord (s.billingRecord e el m plan)).lowerReferences e.body).freeEntry el.entry)
    ((s.appendRecord (s.billingRecord e el m plan)).lowerReferences e.body).effectiveLevel
  have f := outcomeNotice_quiet (((s.appendRecord (s.billingRecord e el m plan)).lowerReferences e.body).endEntry el.entry)
    el.entry (s.billingRecord e el m plan)
  have df := d.trans f
  unfold finishSettlement
  dsimp only
  have hrec : ((((s.appendRecord (s.billingRecord e el m plan)).lowerReferences e.body).endEntry el.entry).outcomeNotice el.entry
      (s.billingRecord e el m plan)).log.records = s.log.records ++ [s.billingRecord e el m plan] :=
    df.log.records.trans ((congrArg BillingLog.records c3).trans (b.log.records.trans a4))
  have hset : ((((s.appendRecord (s.billingRecord e el m plan)).lowerReferences e.body).endEntry el.entry).outcomeNotice el.entry
      (s.billingRecord e el m plan)).log.setAside = false :=
    df.log.setAside.trans ((congrArg BillingLog.setAside c3).trans (b.log.setAside.trans a5))
  refine ⟨?_, ((a2.trans b.link).trans c2).trans df.link, ⟨_, hrec⟩, ?_, fun k => ?_, fun k => ?_⟩
  · exact ((a1.trans b.settled).trans c1).trans (df.settled.trans { Settled.refl _ with })
  · exact df.log.lastReturned.trans ((congrArg BillingLog.lastReturned c3).trans (b.log.lastReturned.trans a6))
  · have hp := place k
    obtain ⟨k1, _⟩ := k
    rw [hp] at k1
    unfold logLegal
    simp only [withCharging_log, withCharging_charging, hrec, hset, List.length_append, List.length_singleton]
    refine ⟨by simpa using k1, fun hc => absurd hc (by simp)⟩
  · obtain ⟨k1, k2, k3, k4, k5⟩ := k
    have hs : StoreQuiet s.store ((s.appendRecord (s.billingRecord e el m plan)).lowerReferences e.body).store :=
      a3 ▸ b.store
    have hn : ∀ n, ((s.appendRecord (s.billingRecord e el m plan)).lowerReferences e.body).store.entry n = none ↔
        s.store.entry n = none := fun n => by
      rw [← Option.isNone_iff_eq_none, ← Option.isNone_iff_eq_none, ← Option.not_isSome, ← Option.not_isSome, hs.live n]
    have freed := c5 (by rw [hs.freeEntries]; exact k1) (fun n => by rw [hs.freeEntries, hn]; exact k2 n)
      (fun n hx => (hn n).2 (k3 n hx)) (by rw [hs.freeEntries, hs.occupancy]; exact k4)
      (by rw [hs.nextAdmission, hs.occupancy, b.log.appended, a7, k5]; ring)
    exact entriesLegal_of_quiet (s := _) df.store df.log.appended freed

/-! ### The settle list going on -/

theorem headWaits_progress (state : HeadState) (count : ChargingCounts → ChargingCounts) (h : state ≠ .record) :
    Progress s (s.headWaits state count) := by
  unfold headWaits
  split
  · exact Progress.refl s
  · refine ⟨{ Settled.refl s with }, LinkQuiet.refl _, ⟨[], by simp⟩, rfl, fun k => ?_, id⟩
    exact ⟨k.1, fun hc => absurd hc h⟩

theorem logPlace_progress {log : BillingLog} (h : s.logPlace = some log) :
    Progress s (s.withLog log) ∧ log.setAside = true := by
  unfold logPlace at h
  split at h
  · split at h
    · rename_i hset
      obtain rfl := Option.some.inj h
      exact ⟨Progress.refl s, hset⟩
    · exact absurd h (by simp)
  · split at h
    · rename_i hfree
      obtain rfl := Option.some.inj h
      refine ⟨⟨{ Settled.refl s with }, LinkQuiet.refl _, ⟨[], by simp⟩, rfl, fun _ => ⟨?_, fun _ => rfl⟩, id⟩, rfl⟩
      simp only [BillingLog.free, BillingLog.available] at hfree
      simp only [withLog_log, if_true]
      omega
    · exact absurd h (by simp)

theorem thirdStage_progress (el : SettleElement) (e : Entry) (live : (s.store.entry el.entry).isSome = true)
    (place : s.log.setAside = true) : Progress s (s.thirdStage el e).1 := by
  unfold thirdStage
  split
  · exact finishSettlement_progress s el e _ none live (fun _ => place)
  · exact Progress.trans (t := s.withCharging { s.charging with head := .record })
      ⟨{ Settled.refl s with }, LinkQuiet.refl _, ⟨[], by simp⟩, rfl, fun k => ⟨k.1, fun _ => place⟩, id⟩
      (post_quiet _ e.sub .settlementRead).progress

theorem settleHeads_progress (fuel : Nat) : Progress s (s.settleHeads fuel) := by
  induction fuel generalizing s with
  | zero => exact Progress.refl s
  | succ fuel ih =>
    unfold settleHeads
    split
    · exact Progress.refl s
    · exact Progress.refl s
    · rename_i el _ _ _
      split
      · exact Progress.refl s
      · rename_i e he
        split
        · exact headWaits_progress s _ _ (by simp)
        · split
          · refine (headWaits_progress s .logRoom (fun c => { c with waitedLogRoom := c.waitedLogRoom + 1 }) (by simp)).trans ?_
            exact ⟨{ Settled.refl _ with }, LinkQuiet.refl _, ⟨[], by simp⟩, rfl, id, id⟩
          · rename_i log hlog
            obtain ⟨hp, hset⟩ := logPlace_progress s hlog
            have ht := thirdStage_progress (s.withLog log) el e (by simp [he]) hset
            split
            · rename_i settled heq
              rw [heq] at ht
              exact (hp.trans ht).trans (ih settled)
            · rename_i posted heq
              rw [heq] at ht
              exact hp.trans ht

theorem runCharging_progress : Progress s s.runCharging := settleHeads_progress s _

/-- Settling down keeps `Settled`, the records already held, and the laws of the log and of the entries. -/
theorem settleDown_progress : Progress s s.settleDown :=
  (((cancelHeldWhenDue_quiet s).trans (runCache_quiet _)).progress.trans (runCharging_progress _)).trans
    ((runCache_quiet _).trans (setPlaces_quiet _)).progress

/-! ### Submissions, cancels and failed fills -/

theorem dropSetAside_quiet : Quiet s s.dropSetAside := Quiet.withStore ⟨rfl, rfl, rfl, rfl, rfl, rfl, fun _ => rfl⟩

theorem endGroup_quiet (g : GroupOrder) : Quiet s (s.endGroup g) := by
  unfold endGroup
  split
  · exact withOrder_quiet s none
  · exact ((Quiet.withStore ((Store.setBody_quiet _ _ _).trans (Store.releaseIfUnused_quiet _ _))).trans
      (withOrder_quiet _ none)).trans (reply_quiet _ _ _ _)

theorem nextMember_quiet (g : GroupOrder) : Quiet s (s.nextMember g) := by
  unfold nextMember
  split
  · exact endGroup_quiet s g
  · split
    · refine Quiet.trans ?_ (endGroup_quiet _ _)
      exact Quiet.withStore ⟨rfl, rfl, rfl, rfl, rfl, rfl, fun _ => rfl⟩
    · exact (withOrder_quiet s _).trans (post_quiet _ _ _)

theorem refuseMember_quiet (g : GroupOrder) (code : ReplyCode) : Quiet s (s.refuseMember g code) :=
  (dropSetAside_quiet s).trans (nextMember_quiet _ _)

theorem takeBody_quiet {t u : Store} {m : Submission} {message : Option Word32} {references : Nat} {inSubmission : Bool} {n : Nat}
    (h : t.takeBody m message references inSubmission = some (n, u)) : StoreQuiet t u := by
  unfold Store.takeBody at h
  obtain ⟨p, _, hp⟩ := Option.map_eq_some_iff.1 h
  obtain ⟨rfl, rfl⟩ := Prod.mk.inj hp
  exact ⟨rfl, rfl, rfl, rfl, rfl, rfl, fun _ => rfl⟩

theorem addReference_quiet (t : Store) (body : Nat) : StoreQuiet t (t.addReference body) := by
  unfold Store.addReference
  split
  · exact StoreQuiet.refl t
  · split
    · exact Store.setBody_quiet t _ _
    · exact ⟨rfl, rfl, rfl, rfl, rfl, rfl, fun _ => rfl⟩

theorem admitEntry_progress (sub way body : Nat) (group : Option Nat) (m : Submission) (r : Record) (reservation : Nat)
    {n : Nat} {t : State} (h : s.admitEntry sub way body group m r reservation = some (n, t)) : Progress s t := by
  unfold admitEntry at h
  obtain ⟨⟨k, u⟩, hc, hp⟩ := Option.map_eq_some_iff.1 h
  obtain ⟨rfl, rfl⟩ := Prod.mk.inj hp
  exact (createEntry_progress s _ hc).trans
    (((closingUpdate_quiet u sub way _).trans (serveSub_quiet _ sub)).trans (fileNew_quiet _ _ r)).progress

theorem refuseSubmit_quiet (place sub : Nat) (code : ReplyCode) (body : ReplyBody) :
    Quiet s (s.refuseSubmit place sub code body) :=
  ((release_quiet s sub).trans (withOrder_quiet _ none)).trans (reply_quiet _ _ _ _)

theorem createMessage_progress (place sub way : Nat) (m : Submission) (r : Record) (reservation : Nat) {t : State}
    (h : s.createMessage place sub way m r reservation = some t) : Progress s t := by
  unfold createMessage at h
  simp only [Option.bind_eq_bind, Option.bind_eq_some_iff, Prod.exists, Option.pure_def, Option.some.injEq] at h
  obtain ⟨body, store, hb, entry, filed, ha, rfl⟩ := h
  have hs := takeBody_quiet hb
  refine Progress.trans (Progress.trans (Quiet.withStore (t := { store with nextMessage := nextNumber store.nextMessage })
    ⟨hs.1, hs.2, hs.3, hs.4, hs.5, hs.6, hs.7⟩).progress (admitEntry_progress _ _ _ _ _ _ _ _ ha)) ?_
  exact ((withOrder_quiet filed none).trans (reply_quiet _ _ _ _)).progress

theorem completeSubmit_progress (place sub way : Nat) (m : Submission) : Progress s (s.completeSubmit place sub way m) := by
  unfold completeSubmit
  dsimp only
  split
  · exact (refuseSubmit_quiet s _ _ _ _).progress
  · split
    · rename_i h; exact createMessage_progress s _ _ _ _ _ _ h
    · exact (refuseSubmit_quiet s _ _ _ _).progress

theorem completeMember_progress (g : GroupOrder) (sub way : Nat) : Progress s (s.completeMember g sub way) := by
  unfold completeMember
  dsimp only
  split
  · exact ((release_quiet s sub).trans (refuseMember_quiet _ g _)).progress
  · split
    · exact ((release_quiet s sub).trans (refuseMember_quiet _ g _)).progress
    · rename_i h
      exact (((dropSetAside_quiet s).trans (Quiet.withStore (addReference_quiet _ _))).progress.trans
        (admitEntry_progress _ _ _ _ _ _ _ _ h)).trans (nextMember_quiet _ _).progress

theorem cancelEntry_quiet (n : Nat) : Quiet s (s.cancelEntry n).2 := by
  have unplaced : Quiet s (s.unplace n) := by
    unfold unplace
    split
    · exact Quiet.refl s
    · split
      · exact Quiet.refl s
      · exact withOpen_quiet s _
  unfold cancelEntry
  split
  · exact Quiet.refl s
  · split
    · exact (leaveHoldList_quiet s n).trans (settle_quiet _ _ _ _)
    · exact ((leaveMissSkip_quiet s n).trans (leaveQueue_quiet _ n)).trans (settle_quiet _ _ _ _)
    · exact (leaveRetryList_quiet s n).trans (settle_quiet _ _ _ _)
    · exact unplaced.trans (settle_quiet _ _ _ _)
    · exact changeEntry_quiet n _ s
    · exact changeEntry_quiet n _ s
    · exact Quiet.refl s

theorem takeCancelRequest_quiet (c : CancelOrder) (n : Nat) (rest : List Nat) : Quiet s (s.takeCancelRequest c n rest) := by
  unfold takeCancelRequest
  dsimp only
  refine (cancelEntry_quiet s n).trans ?_
  split
  · exact withOrder_quiet _ _
  · exact (withOrder_quiet _ _).trans (reply_quiet _ _ _ _)

theorem awaitedHead_spec {el : SettleElement} {e : Entry} (h : s.awaitedHead = some (el, e)) :
    s.charging.head = .record ∧ s.store.entry el.entry = some e := by
  unfold awaitedHead at h
  split at h
  · rename_i hh _
    obtain ⟨x, hx, hp⟩ := Option.map_eq_some_iff.1 h
    obtain ⟨rfl, rfl⟩ := Prod.mk.inj hp
    exact ⟨hh, hx⟩
  · exact absurd h (by simp)

theorem faultHead_progress : Progress s s.faultHead := by
  unfold faultHead
  split
  · exact Progress.refl s
  · rename_i el e h
    obtain ⟨hh, he⟩ := awaitedHead_spec s h
    have c := changeEntry_quiet el.entry (fun _ => { e with outcome := some .faulted, replyCode := some 0 }) s
    refine c.progress.trans (finishSettlement_progress _ el _ _ none ?_ (fun k => k.2 hh))
    rw [c.store.live, he]; rfl

theorem settleServed_progress (n way : Nat) : Progress s (s.settleServed n way) := by
  unfold settleServed
  split
  · exact Progress.refl s
  · rename_i el e h
    obtain ⟨hh, he⟩ := awaitedHead_spec s h
    have c := closingUpdate_quiet s n way (settlementUpdate
      (moneyOf (s.charging.activePlan (s.lineRecord n way).host.plan) e (e.outcome.getD .cancelled) (s.lineRecord n way)) e
      (e.outcome.getD .cancelled))
    refine c.progress.trans (finishSettlement_progress _ el _ _ _ ?_ (fun k => k.2 ?_))
    · rw [c.store.live, he]; rfl
    · rw [c.head]; exact hh

theorem noteFault_quiet (n : Nat) (source : FaultSource) : Quiet s (s.noteFault n source) := notice_quiet _ s

theorem countCache_quiet (f : CacheCounts → CacheCounts) : Quiet s (s.countCache f) := Quiet.withCache ⟨rfl, rfl, rfl, rfl⟩

theorem faultMoney_quiet : Quiet s s.faultMoney := by
  unfold faultMoney
  split
  · exact Quiet.refl s
  · refine Quiet.trans ?_ (reply_quiet _ _ _ _)
    exact Quiet.withCharging rfl rfl rfl rfl
  · refine Quiet.trans ?_ (reply_quiet _ _ _ _)
    exact Quiet.withCharging rfl rfl rfl rfl

theorem faultIntake_quiet : Quiet s s.faultIntake := by
  unfold faultIntake
  split
  · exact (withOrder_quiet s none).trans (reply_quiet _ _ _ _)
  · exact refuseMember_quiet s _ _
  · exact Quiet.refl s
  · exact Quiet.refl s

theorem failWaiter_progress (r : Request) : Progress s (s.failWaiter r) := by
  unfold failWaiter
  split
  · exact (faultIntake_quiet s).progress
  · exact (faultIntake_quiet s).progress
  · exact (touchFault_quiet s _).progress
  · exact faultHead_progress s
  · refine Quiet.progress ?_
    exact Quiet.withRetry rfl rfl rfl
  · exact (faultMoney_quiet s).progress
  · exact (faultMoney_quiet s).progress
  · exact (reply_quiet _ _ _ s).progress
  · exact (countCache_quiet s _).progress
  · exact Progress.refl s
  · exact Progress.refl s

/-- A fold of changes that keep what `Progress` names keeps it. -/
theorem foldl_progress {α : Type} {f : State → α → State} (h : ∀ s a, Progress s (f s a)) (l : List α) (s : State) :
    Progress s (l.foldl f s) := by
  induction l generalizing s with
  | nil => exact Progress.refl s
  | cons a l ih => exact (h s a).trans (ih _)

theorem failFill_progress (n way : Nat) : Progress s (s.failFill n way) := by
  unfold failFill
  dsimp only
  refine Progress.trans (Quiet.trans (Quiet.withCache ?_) (noteFault_quiet _ n .fill)).progress
    (foldl_progress failWaiter_progress _ _)
  exact ⟨rfl, rfl, rfl, rfl⟩

end State

end Sys2Proof.Machine
end

