-- ==== Sys2Proof/Laws/Updates.lean ====
section
/-! SUPPORT. What the Record Cache's operations on one line come to: an update under each write policy (R39, R40), an access with its
roll (R28), and a holding read with its closing update (R31). -/

namespace Sys2Proof.Machine

/-- A line set is read back. -/
theorem Cache.line_setLine (c : Cache) (n way : Nat) (l : Line) : (c.setLine n way l).line n way = l := by
  simp [Cache.setLine, Cache.line]
/-- Setting a line leaves the others alone. -/
theorem Cache.lines_setLine (c : Cache) (n way : Nat) (l : Line) (k : Nat) (h : k ≠ Cache.index (Cache.setOf n) way) :
    Table.get {} (c.setLine n way l).lines k = Table.get {} c.lines k := by
  simp [Cache.setLine, Table.get_set_other _ _ _ (Ne.symm h)]

/-- What an update leaves under each write policy: its line, the port, and nothing else (R39, R40). -/
theorem Cache.afterUpdate_spec (c : Cache) (n way : Nat) :
    let l := c.line n way
    let d := c.afterUpdate n way
    let m := d.line n way
    let raised := if l.state = .dirty then l.deferral + 1 else 1;
    m.record = l.record ∧ m.tag = l.tag ∧ m.state.valid = true ∧
    (∀ k, k ≠ Cache.index (Cache.setOf n) way → Table.get {} d.lines k = Table.get {} c.lines k) ∧
    (c.policy = .through → m.state = .clean ∧ m.deferral = 0 ∧ d.port = c.port ++ [.throughWrite n m.record]) ∧
    (c.policy = .deferred → m.state = .dirty ∧ m.deferral = (if raised ≤ 15 then raised else 15) ∧ d.port = c.port) ∧
    (c.policy = .bounded → raised < c.limit → m.state = .dirty ∧ m.deferral = raised ∧ d.port = c.port) ∧
    (c.policy = .bounded → c.limit ≤ raised → m.state = .casting ∧ m.deferral = 0 ∧
      d.port = c.port ++ [.writeBack n m.record false]) ∧
    d = { c with lines := d.lines, port := d.port, counts := d.counts } := by
  intro l d m raised
  simp only [m, d, Cache.afterUpdate]
  have key : ∀ x : Line, (Cache.line { c with lines := Table.set {} c.lines (Cache.index (Cache.setOf n) way) x } n way) = x := by
    intro x; simp [Cache.line]
  have key2 : ∀ (x : Line) k, k ≠ Cache.index (Cache.setOf n) way → Table.get {} (Table.set {} c.lines (Cache.index (Cache.setOf n) way) x) k = Table.get {} c.lines k := fun x k h => Table.get_set_other _ _ _ (Ne.symm h)
  rcases hp : c.policy with _ | _ | _
  · simp only [Cache.setLine, Cache.issueWrite, Cache.issue]
    refine ⟨?_, ?_, ?_, fun k h => key2 _ k h, ?_, by simp, by simp, by simp, ?_⟩ <;> simp [Cache.line, l, LineState.valid, hp]
  · simp only [Cache.setLine]
    have hmin : ∀ x : Nat, min 15 x = if x ≤ 15 then x else 15 := by intro x; split <;> omega
    refine ⟨?_, ?_, ?_, fun k h => key2 _ k h, by simp, ?_, by simp, by simp, ?_⟩ <;> simp [Cache.line, l, LineState.valid, hp, raised]
    exact hmin _
  · simp only []
    by_cases h : c.limit ≤ raised
    · rw [if_pos h]
      simp only [Cache.setLine, Cache.issueWrite, Cache.issue]
      refine ⟨?_, ?_, ?_, fun k h => key2 _ k h, by simp, by simp, fun _ hh => absurd hh (not_lt.2 h), ?_, ?_⟩ <;> simp [Cache.line, l, LineState.valid, hp]
    · rw [if_neg h]
      simp only [Cache.setLine]
      refine ⟨?_, ?_, ?_, fun k h => key2 _ k h, by simp, by simp, ?_, fun _ hh => absurd hh h, ?_⟩ <;> simp [Cache.line, l, LineState.valid, hp, raised] <;> first | rfl | (intro _; rfl)

/-- What one update of a line comes to (R33, R39, R40). -/
theorem Cache.change_spec (c : Cache) (n way : Nat) (f : Record → Record) :
    let l := c.line n way
    let d := c.change n way f
    let m := d.line n way
    let raised := if l.state = .dirty then l.deferral + 1 else 1;
    m.record = f l.record ∧ m.tag = l.tag ∧ m.state.valid = true ∧
    (∀ k, k ≠ Cache.index (Cache.setOf n) way → Table.get {} d.lines k = Table.get {} c.lines k) ∧
    (c.policy = .through → m.state = .clean ∧ m.deferral = 0 ∧ d.port = c.port ++ [.throughWrite n m.record]) ∧
    (c.policy = .deferred → m.state = .dirty ∧ m.deferral = (if raised ≤ 15 then raised else 15) ∧ d.port = c.port) ∧
    (c.policy = .bounded → raised < c.limit → m.state = .dirty ∧ m.deferral = raised ∧ d.port = c.port) ∧
    (c.policy = .bounded → c.limit ≤ raised → m.state = .casting ∧ m.deferral = 0 ∧
      d.port = c.port ++ [.writeBack n m.record false]) ∧
    d = { c with lines := d.lines, port := d.port, counts := d.counts } := by
  intro l d m raised
  have h := Cache.afterUpdate_spec (c.setLine n way { l with record := f l.record }) n way
  simp only [Cache.line_setLine] at h
  obtain ⟨h1, h2, h3, h4, h5, h6, h7, h8, h9⟩ := h
  refine ⟨h1, h2, h3, fun k hk => (h4 k hk).trans (Cache.lines_setLine c n way _ k hk), h5, h6, h7, h8, h9⟩

/-- What one access to a valid line comes to: the record as rolled, every other line as it was (R28). -/
theorem Cache.access_spec (c : Cache) (p : Word16) (n way : Nat) (hv : (c.line n way).state.valid = true) :
    let d := c.access p n way
    (d.line n way).record = (c.line n way).record.roll p ∧ (d.line n way).tag = (c.line n way).tag ∧ (d.line n way).state.valid = true ∧
    (∀ k, k ≠ Cache.index (Cache.setOf n) way → Table.get {} d.lines k = Table.get {} c.lines k) ∧
    d = { c with lines := d.lines, port := d.port, counts := d.counts, lru := d.lru } := by
  intro d
  by_cases hr : (c.line n way).record.period = p
  · have e : d = c.markUsed n way := by simp only [d, Cache.access]; rw [if_pos hr]
    rw [e]
    refine ⟨?_, rfl, hv, fun k _ => rfl, rfl⟩
    show _ = Record.roll _ _
    simp only [Record.roll]; rw [if_pos hr]; rfl
  · have e : d = (c.change n way (Record.roll p)).markUsed n way := by simp only [d, Cache.access]; rw [if_neg hr]
    obtain ⟨h1, h2, h3, h4, h5, h6, h7, h8, h9⟩ := Cache.change_spec c n way (Record.roll p)
    rw [e]
    refine ⟨h1, h2, h3, h4, ?_⟩
    show Cache.markUsed (c.change n way (Record.roll p)) n way = _
    have hl : (c.change n way (Record.roll p)).lru = c.lru := by rw [h9]
    conv_lhs => rw [h9]
    simp only [Cache.markUsed, hl]

/-- A holding read served and closed by an update (R31): the line holds what the update makes of the record as rolled. -/
theorem State.closingUpdate_held (s : State) (sub way : Nat) (hv : (s.cache.line sub way).state.valid = true) (f : Record → Record) :
    let r := (s.cache.line sub way).record.roll s.charging.period
    ∃ c, HeldUpdate s.cache c sub way (f r) ∧ (s.serveHolding sub way).closingUpdate sub way f = { s with cache := c } ∧
      (s.serveHolding sub way).lineRecord sub way = r := by
  intro r
  have a := Cache.access_spec (s.cache.withoutFront sub) s.charging.period sub way hv
  obtain ⟨a1, a2, a3, a4, a5⟩ := a
  let c1 : Cache := { (s.cache.withoutFront sub).access s.charging.period sub way with holds := sub :: ((s.cache.withoutFront sub).access s.charging.period sub way).holds }
  have ap : (c1.line sub way).record = r := a1
  have a' := Cache.access_spec c1 s.charging.period sub way a3
  obtain ⟨b1, b2, b3, b4, b5⟩ := a'
  have hroll : r.roll s.charging.period = r := by
    simp only [r, Record.roll]; split
    · rename_i h; simp only [h, if_true]
    · simp
  obtain ⟨d1, d2, d3, d4, d5, d6, d7, d8, d9⟩ := Cache.change_spec (c1.access s.charging.period sub way) sub way f
  refine ⟨{ (c1.carryOut s.charging.period sub way f) with holds := (c1.carryOut s.charging.period sub way f).holds.filter (fun m => decide (m ≠ sub)) }, ?_, rfl, ap⟩
  have e9 : c1.carryOut s.charging.period sub way f = { c1 with lines := (c1.carryOut s.charging.period sub way f).lines, port := (c1.carryOut s.charging.period sub way f).port, counts := (c1.carryOut s.charging.period sub way f).counts, lru := (c1.carryOut s.charging.period sub way f).lru } := by
    have e : c1.carryOut s.charging.period sub way f = (c1.access s.charging.period sub way).change sub way f := rfl
    rw [e, d9, b5]
  have a5' : c1 = { s.cache.withoutFront sub with lines := c1.lines, port := c1.port, counts := c1.counts, lru := c1.lru, holds := sub :: s.cache.holds } := by
    simp only [c1]; rw [a5]; rfl
  constructor
  · show ((c1.carryOut s.charging.period sub way f).line sub way).record = _
    rw [show (c1.carryOut s.charging.period sub way f) = (c1.access s.charging.period sub way).change sub way f from rfl, d1, b1, ap, hroll]
  · exact d2.trans (b2.trans a2)
  · exact d3
  · intro k hk; exact (d4 k hk).trans ((b4 k hk).trans (a4 k hk))
  · show (c1.carryOut s.charging.period sub way f).queue = _
    rw [e9, a5']; rfl
  · show List.filter _ (c1.carryOut s.charging.period sub way f).holds = _
    rw [e9]; show List.filter _ c1.holds = _
    rw [a5']; simp
  · show (c1.carryOut s.charging.period sub way f).heldRequests = _
    rw [e9, a5']; rfl
  · show (c1.carryOut s.charging.period sub way f).fills = _
    rw [e9, a5']; rfl
  · show (c1.carryOut s.charging.period sub way f).sweep = _
    rw [e9, a5']; rfl
  · show (c1.carryOut s.charging.period sub way f).policy = _
    rw [e9, a5']; rfl
  · show (c1.carryOut s.charging.period sub way f).limit = _
    rw [e9, a5']; rfl
  · show (c1.carryOut s.charging.period sub way f).addressBase = _
    rw [e9, a5']; rfl

end Sys2Proof.Machine
end

