-- ==== Sys2Proof/Tests/Slice0.lean ====
section
/-! SUPPORT. The model's own tests. First the smoke test of WellFormed, then checks against the manual's worked examples and tables, then
for each obligation that has hypotheses a state and operands that meet them together, clause by clause, at the ends of the ranges. -/

namespace Sys2Proof.Tests
open Sys2Proof Sys2Proof.Machine

-- One theorem after the other: each kernel evaluation waits for those before it, and would hold a thread while it waits.
set_option Elab.async false

/-! ### WellFormed: an ill-formed command for each check -/

theorem test_wellFormed_refuses_powerOn :
    Instr.wellFormed (.powerOn 115199 115200) = false ∧ Instr.wellFormed (.powerOn 115200 3000001) = false := by decide

theorem test_wellFormed_refuses_readSubServed : Instr.wellFormed (.readSubServed 262144) = false := by decide

theorem test_wellFormed_refuses_links :
    (∀ c ∈ [Instr.taken 16 [], .reject 16 [], .stateReport 16 [], .window 16 [], .zoneGapTimeout 16 none, .untaken 16, .revSilent 16,
      .zoneBadFrame 16 { length := 0, kind := 0, tag := 0, body := [], check := 0 }], c.wellFormed = false) := by decide

theorem test_wellFormed_refuses_bodies :
    (∀ c ∈ [Instr.taken 0 (List.replicate 509 0), .reject 0 (List.replicate 509 0), .stateReport 0 (List.replicate 509 0),
      .window 0 (List.replicate 509 0), .hostFrame 0 0 (List.replicate 509 0) 0,
      .zoneBadFrame 0 { length := 2, kind := 0, tag := 0, body := [0], check := 0 }, .hostLengthDiscard 508],
        c.wellFormed = false) := by decide +kernel

/-- WellFormedCommandsComplete: each of its two clauses, and the exception of the first, has an instance. -/
theorem witness_WellFormedCommandsComplete :
    Instr.wellFormed (.powerOn 115200 3000000) = true ∧ Instr.wellFormed (.taken 15 (List.replicate 508 0)) = true ∧
      Instr.wellFormed (.readSubServed 262143) = true ∧ Instr.wellFormed (.readSubServed 262144) = false := by decide +kernel

/-! ### States the witnesses are built from -/

/-- A state whose order input queue holds one order, a reply place set aside for it. -/
def hasOrder (b : State) (k : OrderKind) (body : List Byte) : State :=
  { b with link := { b.link with orders := [{ kind := k, tag := 7, body, place := some 0 }] } }

/-- The state in which that order has been taken into reply place 0. -/
def took (b : State) (k : OrderKind) : State :=
  { b with link := { b.link with orders := [], taken := [{ place := 0, kind := k, tag := 7 }] } }

/-- The order is taken. -/
def takes (b : State) (k : OrderKind) (body : List Byte) : Bool :=
  decide ((hasOrder b k body).takeOrder k = some (0, body, took b k))

def running : State := { State.reset with link := { partState := .running } }
def restarting : State := { State.reset with link := { partState := .restarting } }

theorem takes_iff (b : State) (k : OrderKind) (body : List Byte) :
    takes b k body = true ↔ (hasOrder b k body).takeOrder k = some (0, body, took b k) := decide_eq_true_iff

theorem takes_any (k : OrderKind) (body : List Byte) :
    takes .reset k body = true ∧ takes running k body = true ∧ takes restarting k body = true := by
  simp only [takes_iff]
  rcases k <;> exact ⟨rfl, rfl, rfl⟩

/-- A body of message 9 in slot 3, with the entry of number 16,383. -/
def entryOf (state : EntryState) : Entry :=
  { sub := 262143, body := 3, group := none, originalLevel := 2, level := 2, admission := 1, admissionCycle := 0, expiryCycle := 1024,
    maxAttempts := 4, repeats := 2, attempts := 1, reservation := 10, blocks := 2, downgraded := false, state }
def storeOf (state : EntryState) : Store :=
  { entries := [(16383, some (entryOf state))]
    bodies := [(3, some { message := some 9, encoding := .text, content := [0x41], references := 1, inSubmission := false })]
    occupancy := 1, nextMessage := 10, nextAdmission := 2 }
def holding (state : EntryState) : State := { running with store := storeOf state }

/-! ### Witnesses: the queue and taking an order -/

theorem witness_StepRunsFrontCommand :
    ({ State.reset with pending := [.submit, .hostSync] } : State).pending = .submit :: [.hostSync] ∧ State.reset.pending = [] := by
  decide

/-- Orders that wait, and so many places in use by orders taken, the first of them a CANCEL in progress. -/
def waiting (busy : Bool) (places : Nat) (orders : List Order) : State :=
  { running with
    intake := { order := if busy then some (.cancel { place := 0, byMessage := true, requests := [1] }) else none }
    link := { partState := .running, orders, taken := (List.range places).map (fun p => { place := p, kind := .cancel, tag := 0 }) } }

/-- A SUBMIT in range, and one of a level out of range. -/
def goodSubmit (tag : Byte) : Order := { kind := .submit, tag, body := [0, 0, 5, 1, 0, 0] }
def wrongSubmit (tag : Byte) : Order := { kind := .submit, tag, body := [0, 0, 5, 4, 0, 0] }
def aStatus (tag : Byte) : Order := { kind := .status, tag, body := [9, 0] }

/-- The last free place passes an older order whose unit has an order in progress. -/
def busyIntake : State := waiting true 63 [goodSubmit 1, aStatus 2]

/-- A START that the one in CONFIG takes, a RESTART and a second START behind it. -/
def startRestartStart : State :=
  { State.reset with
    cache := { addressBase := some 0 }, monitor := { zones := [(15, { state := .inService })] }
    link := { orders := [OrderKind.start, .restart, .start].map (fun kind => { kind, tag := 0, body := [] }) } }

/-- Taking: ready and placed, not ready, not placed, and behind an older order of its unit. Placing: one lost, the first that is due, none
due, and no place free. Keeping: each kind that may keep its unit does, and does not. What an order leaves for those after it: each kind. -/
theorem witness_OrderTaken :
    (busyIntake.setPlaces.takeOrder .status).map (fun r => (r.1, r.2.1, r.2.2.link.orders.map Order.tag)) = some (63, [9, 0], [1]) ∧
    busyIntake.takeOrder .status = none ∧ busyIntake.setPlaces.takeOrder .submit = none ∧
    (waiting false 0 [goodSubmit 1, { wrongSubmit 2 with kind := .cancel }]).setPlaces.takeOrder .cancel = none ∧
    (busyIntake.ready .intake = false ∧ busyIntake.ready .linkStatus = true) ∧
    (busyIntake.link.freeList.head? = some 63 ∧ busyIntake.setPlaces.link.freeList = []) ∧
    ((waiting true 62 [goodSubmit 1]).link.freeList = [62, 63] ∧ (waiting true 62 [goodSubmit 1]).setPlaces = waiting true 62 [goodSubmit 1]) ∧
    (running.keepsUnit (goodSubmit 0) = true ∧ running.keepsUnit (wrongSubmit 0) = false ∧ State.reset.keepsUnit (goodSubmit 0) = false) ∧
    (State.reset.keepsUnit { kind := .topUp, tag := 0, body := [3, 255, 255, 0, 0, 0, 1] } = true ∧
      State.reset.keepsUnit { kind := .adjust, tag := 0, body := [4, 0, 0, 0, 0, 0, 1] } = false) ∧
    (running.keepsUnit { kind := .restart, tag := 0, body := [] } = true ∧ State.reset.keepsUnit { kind := .restart, tag := 0, body := [] } = false) ∧
    running.keepsUnit { kind := .readSub, tag := 0, body := [0, 0, 5] } = false ∧
    running.keepsUnit { kind := .cancel, tag := 0, body := [0, 0, 0, 0, 0, 0, 0, 1] } = false ∧
    ((waiting false 61 [{ goodSubmit 1 with place := some 62 }, { goodSubmit 2 with place := some 63 }]).passes
        [{ goodSubmit 1 with place := some 62 }] = false ∧
      (waiting false 61 [{ goodSubmit 1 with place := some 62 }, { goodSubmit 2 with place := some 63 }]).setPlaces.link.orders.map
        Order.place = [some 62, none]) ∧
    ((startRestartStart.anticipate { kind := .start, tag := 0, body := [] }).link.partState = .running ∧
      (State.reset.anticipate { kind := .start, tag := 0, body := [] }).link.partState = .config) ∧
    ((State.reset.anticipate { kind := .initRecords, tag := 0, body := [0, 0, 0, 3, 255, 255] }).cache.sweep = some (.records 0 0 262143 0) ∧
      (running.anticipate { kind := .initRecords, tag := 0, body := [0, 0, 0, 3, 255, 255] }).cache.sweep = none) ∧
    ((running.anticipate { kind := .flush, tag := 0, body := [] }).cache.sweep = some (.lines (some 0) 0 0 0) ∧
      (restarting.anticipate { kind := .flush, tag := 0, body := [] }).cache.sweep = none) ∧
    ([OrderKind.readSub, .writeSub, .repairSub].map (fun kind =>
      ((running.anticipate { kind, tag := 0, body := List.replicate 14 0 }).cache.queue.length,
        (running.anticipate { kind, tag := 0, body := List.replicate 14 255 }).cache.queue.length)) = [(1, 0), (1, 0), (1, 0)] ∧
      ((holding .queued).anticipate { kind := .repairSub, tag := 0, body := [3, 255, 255] ++ List.replicate 11 0 }).cache.queue = [] ∧
      (holding .queued).repairRefused 262143 = true ∧ running.repairRefused 0 = false) := by decide +kernel

/-- What a next state shows; none for a stop. -/
def shows {α : Type} (o : Host.Outcome State Fault Refusal) (f : State → α) : Option α :=
  match o with
  | .next s => some (f s)
  | .fault _ => none
  | .refused _ => none

/-- A place that frees while the Intake Unit is busy is the STATUS's, and stays so when the Intake Unit is ready before the STATUS is taken
(R162). -/
theorem test_freed_place_kept :
    let freed := exec .frameSent { waiting true 63 [goodSubmit 1, aStatus 2] with
      link := { (waiting true 63 [goodSubmit 1, aStatus 2]).link with
        sending := .reply 63 { kind := 1, tag := 2, code := .ok, body := .none } } };
    shows freed (fun s => s.link.orders.map Order.place) = some [none, some 63] ∧
    shows freed (fun s => (({ s with intake := {} } : State).setPlaces.link.orders.map Order.place,
      (({ s with intake := {} } : State).takeOrder .submit).isNone,
      (({ s with intake := {} } : State).takeOrder .status).map (fun r => r.1))) = some ([none, some 63], true, some 63) := by decide +kernel

/-- Behind a SUBMIT that will be refused BAD_VALUE the next SUBMIT has the second place, and a refusal finds none; behind one that keeps the
Intake Unit the second place is the refusal's (R160, R162). -/
theorem test_places_go_to_orders_before_refusals :
    ((waiting false 62 [wrongSubmit 1, goodSubmit 2]).setPlaces.link.orders.map Order.place = [some 62, some 63] ∧
      ((waiting false 62 [wrongSubmit 1, goodSubmit 2]).setPlaces.link.refuse 0 0 .unknownOrder).counts.overruns = 1) ∧
    ((waiting false 62 [goodSubmit 1, goodSubmit 2]).setPlaces.link.orders.map Order.place = [some 62, none] ∧
      ((waiting false 62 [goodSubmit 1, goodSubmit 2]).setPlaces.link.refuse 0 0 .unknownOrder).counts.unknownOrder = 1) := by decide +kernel

/-- With three places free a START, a RESTART and a START wait: the RESTART will find RUNNING and keep the Link Interface, so the second START
has no place, and one it held is given back (R161, R162). -/
theorem test_no_place_behind_a_restart :
    startRestartStart.setPlaces.link.orders.map Order.place = [some 0, some 1, none] ∧
    shows (exec .start startRestartStart.setPlaces) (fun s => s.link.orders.map Order.place) = some [some 1, none] ∧
    ({ startRestartStart with link := { partState := .restarting, restart := some { place := 1, settledBefore := 0 }
                                        orders := [{ kind := .start, tag := 0, body := [], place := some 2 }] } } : State
      ).setPlaces.link.orders.map Order.place = [none] := by decide +kernel

/-! ### Witnesses: settings -/

/-- The code of the reply that a command leaves being sent. -/
def codeSent (o : Host.Outcome State Fault Refusal) : Option ReplyCode :=
  (shows o (fun s => match s.link.sending with
    | .reply _ r => some r.code
    | .notice _ => none
    | .idle => none)).join

/-- The order in this state is refused with this code. -/
def refusedWith (b : State) (c : Instr) (k : OrderKind) (code : ReplyCode) (body : List Byte) : Bool :=
  takes b k body && decide (codeSent (exec c (hasOrder b k body)) = some code)

/-- Each field out of its range, by one where it can be. -/
theorem witness_settings_out_of_range :
    ([[0, 255], [255, 0]].all (refusedWith running .setReach .setReach .badValue) ∧
      [[4, 1, 0, 0, 0, 0, 0, 0, 0, 1, 1, 0], [0, 0, 0, 0, 0, 0, 0, 0, 0, 1, 1, 0], [0, 8, 0, 0, 0, 0, 0, 0, 0, 1, 1, 0],
        [0, 1, 0, 0, 0, 0, 0, 16, 0, 1, 1, 0], [0, 1, 0, 0, 0, 0, 0, 0, 0, 0, 1, 0], [0, 1, 0, 0, 0, 0, 0, 0, 0, 1, 0, 0],
        [0, 1, 0, 0, 0, 0, 0, 0, 0, 1, 8, 0]].all (refusedWith running .setPolicy .setPolicy .badValue)) ∧
    ([[3], [255]].all (refusedWith running .setNotices .setNotices .badValue) ∧
      [[7, 0, 3, 5, 1, 0, 4, 0], [7, 0, 3, 5, 1, 16, 4, 0], [7, 0, 3, 5, 1, 1, 3, 0]].all
        (refusedWith running .setFaultHandling .setFaultHandling .badValue)) ∧
    [[3, 1], [2, 0], [2, 16]].all (refusedWith running .setCache .setCache .badValue) ∧
    ([[1, 7, 0, 0, 0, 0], [1, 129, 0, 0, 0, 0], [2, 0, 0, 0, 0, 0], [2, 0, 5, 0, 0, 0], [4, 0, 0, 2, 0, 100], [4, 0, 0, 0, 0, 99],
        [4, 0, 0, 1, 19, 137]].all (fun b => refusedWith running .setTiming .setTiming .badValue b &&
          refusedWith .reset .setTiming .setTiming .badValue b)) ∧
    [[4, 0], [0, 2]].all (refusedWith running .setAdmission .setAdmission .badValue) ∧
    ([[16, 1, 0, 0], [0, 0, 0, 0], [0, 3, 0, 0], [15, 1, 128, 0]].all (refusedWith running .setZone .setZone .badValue)) ∧
    (refusedWith running .initRecords .initRecords .wrongState [0, 0, 0, 0, 0, 0] ∧
      [[4, 0, 0, 4, 0, 0], [0, 0, 0, 4, 0, 0], [0, 0, 1, 0, 0, 0]].all (refusedWith .reset .initRecords .initRecords .badValue)) := by
  decide +kernel

theorem witness_HostSettingsReplaced :
    (takes running .setReach [1, 255] ∧ (took running .setReach).link.partState ≠ .restarting) ∧
    (takes .reset .setPolicy [3, 7, 15, 0, 15, 0, 15, 15, 255, 255, 7, 0] ∧ (took .reset .setPolicy).link.partState ≠ .restarting) ∧
    (takes running .setPolicy [0, 1, 0, 0, 0, 0, 0, 0, 0, 1, 1, 0] ∧ (took running .setPolicy).link.partState ≠ .restarting) ∧
    (takes running .setNotices [0] ∧ takes running .setNotices [1] ∧ takes running .setNotices [2]) ∧
    (takes running .setFaultHandling [7, 0, 3, 5, 1, 15, 4, 0] ∧ takes .reset .setFaultHandling [7, 0, 3, 5, 1, 1, 255, 0]) := by
  decide +kernel

theorem witness_CacheSettingsReplaced :
    (takes running .setCache [0, 0] ∧ takes running .setCache [1, 0] ∧ takes running .setCache [2, 1] ∧ takes running .setCache [2, 15]) ∧
    (takes .reset .setAddressBase [252, 0, 0] ∧ (took .reset .setAddressBase).link.partState = .config ∧
      (252 * 256 + 0) * 256 + 0 ≤ 16515072) ∧
    (takes .reset .setAddressBase [252, 0, 1] ∧ 16515072 < (252 * 256 + 0) * 256 + 1) ∧
    (takes running .setAddressBase [0, 0, 0] ∧ (took running .setAddressBase).link.partState ≠ .config) := by decide +kernel

/-- A SET_TIMING that names all three parameters: length 128, ack delay 1, EXTERNAL at 100 ms. -/
def timingBody : List Byte := [7, 128, 1, 1, 0, 100]
def timingNamed : Staged := { length := some 128, ackDelay := some 1, source := some { kind := .external, nominal := 100 } }
def lengthStaged : State := { running with timer := { staged := { length := some 8 } } }

theorem witness_SetTimingAppliesOrStages :
    Operands.setTiming timingBody = some timingNamed ∧
    (takes .reset .setTiming timingBody ∧ (took .reset .setTiming).link.partState = .config) ∧
    (takes running .setTiming timingBody ∧ (took running .setTiming).timer.staged = {}) ∧
    (takes lengthStaged .setTiming timingBody ∧ timingNamed.length ≠ none ∧
      (took lengthStaged .setTiming).timer.staged.length ≠ none) := by decide +kernel

/-- Held entries at level 2 and 3, under a host level of 2 and of 3. -/
def heldTwo (hostLevel : Nat) : State :=
  { running with
    intake := { hostLevel, holdList := [4, 9] }
    store := { entries := [(4, some { entryOf .held with level := 3 }), (9, some { entryOf .held with level := 2 })] } }

/-- Only the entry the new level admits leaves the hold list (R19). -/
theorem test_hold_release :
    (((heldTwo 2).releaseHeld 1).intake.holdList, (((heldTwo 2).releaseHeld 1).store.entry 9).map Entry.state) = ([4], some .queued) ∧
    ((heldTwo 2).releaseHeld 2).intake.holdList = [4, 9] := by decide +kernel

theorem witness_SetAdmissionReplacesBoth :
    (1 < (heldTwo 2).effectiveLevel ∧ (heldTwo 2).effectiveLevel ≤ 2) ∧
    takes running .setAdmission [3, 0] ∧ takes running .setAdmission [0, 1] ∧
      (took running .setAdmission).link.partState ≠ .restarting := by decide +kernel

/-! ### Witnesses: plans, reports and groups -/

/-- PLAN_SET of plan 63, its fields at the ends of their ranges. -/
def planBody : List Byte := [63, 0, 255, 255, 15, 255, 15, 255, 16, 16, 64, 64, 0, 16, 255, 255, 255, 0, 255, 255]
def planGiven : Plan :=
  { base := 65535, block := 4095, retry := 4095, priority := [16, 16, 64, 64], group := 0, expiry := 16, cap := 16777215,
    allowance := 65535 }
def planMarked : State := { running with charging := { pending := [(63, { plan := planGiven, mark := true })], period := 65535 } }

theorem witness_PlansStagedAndApplied :
    Operands.planSet planBody = some (63, planGiven) ∧ takes .reset .planSet planBody ∧ takes running .planSet planBody ∧
    (takes planMarked .closePeriod [] ∧ ((took planMarked .closePeriod).charging.pendingPlan 63).mark = true ∧
      ((took planMarked .closePeriod).charging.pendingPlan 0).mark = false) := by decide +kernel

/-- The plan body with one byte in its place. -/
def planWith (i : Nat) (b : Byte) : List Byte := planBody.set i b

theorem witness_plans_refused :
    [planWith 0 64, planWith 4 16, planWith 6 16, planWith 8 15, planWith 11 65, planWith 12 17, planWith 13 17,
      (planWith 14 0).set 15 0 |>.set 16 0].all (refusedWith running .planSet .planSet .badValue) ∧
    refusedWith .reset .closePeriod .closePeriod .wrongState [] := by decide +kernel

theorem witness_PlanReadAnswers :
    takes restarting .planRead [63] ∧ takes running .planRead [64] ∧
    (takes planMarked .planRead [63] ∧ ((took planMarked .planRead).charging.pendingPlan 63).mark = true) ∧
    (takes planMarked .planRead [0] ∧ ((took planMarked .planRead).charging.pendingPlan 0).mark = false) := by decide +kernel

def grouped : State :=
  { running with
    store := { groups := [(1023, [5, 6, 7])], poolFree := 16377, unfinished := [(2, some { total := 4, members := [8, 9] })] } }

theorem witness_GroupReadAnswers :
    takes restarting .groupRead [3, 255, 0, 0, 160, 0] ∧
    (∀ body ∈ [[(4 : Byte), 0, 0, 0, 1, 0], [3, 255, 0, 0, 0, 0], [3, 255, 0, 0, 161, 0], [3, 255, 0, 4, 160, 0]],
      takes grouped .groupRead body) ∧
    (takes grouped .groupRead [3, 255, 0, 3, 1, 0] ∧ takes grouped .groupRead [0, 2, 0, 0, 160, 0] ∧
      (Table.get [] (took grouped .groupRead).store.groups 1023).length = 3 ∧
      Table.get [] (took grouped .groupRead).store.groups 2 = []) := by decide +kernel

/-- GROUP_SET pieces: of group 1,023 a whole list of one; of group 2 the continuation its unfinished list waits for, and one it does not;
of group 0 a first piece of a list larger than the pool has room for. -/
def wholePiece : List Byte := [3, 255, 0, 1, 0, 0, 1, 0, 3, 255, 255]
def nextPiece : List Byte := [0, 2, 0, 4, 0, 2, 2, 0, 0, 0, 1, 0, 0, 2]
def strayPiece : List Byte := [0, 2, 0, 4, 0, 3, 1, 0, 0, 0, 1]
def poolLow : State := { grouped with store := { grouped.store with poolFree := 0 } }

theorem witness_GroupSetBuildsList :
    (takes poolLow .groupSet wholePiece ∧
      Operands.groupSet wholePiece = some { group := 1023, total := 1, position := 0, members := [262143] } ∧
      poolLow.store.unfinishedList 1023 = none ∧ poolLow.intake.groupBusy 1023 = false) ∧
    (takes grouped .groupSet wholePiece ∧ 1 ≤ grouped.store.poolFree) ∧
    (takes grouped .groupSet nextPiece ∧
      Operands.groupSet nextPiece = some { group := 2, total := 4, position := 2, members := [1, 2] } ∧
      grouped.store.unfinishedList 2 = some { total := 4, members := [8, 9] }) ∧
    (takes grouped .groupSet strayPiece ∧
      Operands.groupSet strayPiece = some { group := 2, total := 4, position := 3, members := [1] }) := by decide +kernel

/-- A store in which two bodies carry the number 9. -/
def twoOfNine : Store :=
  { storeOf .queued with
    bodies := (storeOf .queued).bodies ++
      [(7, some { message := some 9, encoding := .tone, content := [], references := 0, inSubmission := false })] }

theorem witness_ReportsChangeNothing :
    ((twoOfNine.findMessage 9).map Prod.fst = some 3 ∧ (twoOfNine.body 7).any (fun b => b.message == some 9) = true ∧
      twoOfNine.findMessage 8 = none ∧ (twoOfNine.entriesOf 3).map Prod.fst = [16383] ∧ twoOfNine.entriesOf 7 = []) ∧
    (takes (holding .queued) .queryMessage [0, 0, 0, 9] ∧ (holding .queued).store.findMessage 9 ≠ none) ∧
    (takes (holding .queued) .queryMessage [0, 0, 0, 8] ∧ (holding .queued).store.findMessage 8 = none ∧
      (holding .queued).store.findMessage 0 = none) ∧
    (takes restarting .status [5, 15] ∧ Operands.status [5, 15] = some (.zone 15)) ∧
    (takes running .status [5, 16] ∧ Operands.status [5, 16] = none ∧ Operands.status [10, 0] = none) ∧
    (∀ b ∈ ([0, 1, 2, 3, 4, 6, 7, 8, 9] : List Byte), takes running .status [b, 255]) ∧ takes running .status [10, 0] ∧
    takes restarting .readFaults [] := by decide +kernel

/-! ### Witnesses: zones and the part states that refuse -/

/-- Zone 15 in a state, with UNTAKEN (severity SERVICE_LOSS) or FWD_FRAME_ERROR (ADVISORY) in its fault set and the first-fault record. -/
def zoned (state : ZoneState) (c : Condition) : State :=
  { running with monitor :=
    { zones := [(15, { state, faults := c.bit, untakenRun := 2, silence := 7 })]
      summary := ZoneSet.single 15
      first := some { zone := 15, condition := c, frameCount := 3 } } }

/-- The first-fault record names a zone and a condition that the faults of zone 15 do not account for. -/
def namingAnother (zone : Nat) (condition : Condition) : State :=
  { running with monitor :=
    { (zoned .inService .fwdFrameError).monitor with first := some { zone, condition, frameCount := 3 } } }

theorem witness_SetZoneFollowsTable :
    Operands.setZone [15, 1, 127, 255] = some (15, true, 0x7FFF) ∧ Operands.setZone [15, 2, 0, 0] = some (15, false, 0) ∧
    (takes running .setZone [15, 1, 127, 255] ∧ (running.monitor.zone 15).state = .unconfigured) ∧
    takes (zoned .outOfService .untaken) .setZone [15, 1, 127, 255] ∧ takes running .setZone [15, 2, 0, 0] ∧
    takes (zoned .inService .fwdFrameError) .setZone [15, 2, 0, 0] ∧
    FaultSet.has ((zoned .inService .fwdFrameError).monitor.zone 15).faults .fwdFrameError = true ∧
    (takes (namingAnother 15 .untaken) .setZone [15, 2, 0, 0] ∧ takes (namingAnother 14 .fwdFrameError) .setZone [15, 2, 0, 0] ∧
      FaultSet.has ((zoned .inService .fwdFrameError).monitor.zone 15).faults .untaken = false) := by decide +kernel

/-- Zone 15 with an UNTAKEN and a REV_SILENT reported and not yet recorded. -/
def dueZone : State :=
  { running with monitor := { zones := [(15, { state := .inService, untakenRun := 3, silence := 8, untakenDue := true, silentDue := true })] } }

/-- A DISABLE records what is due first: both counts are raised and two FAULT notices offered, and the zone then leaves with no fault
(R148, R154; log 13). -/
theorem test_disable_records_what_is_due :
    takes dueZone .setZone [15, 2, 0, 0] = true ∧
    shows (exec .setZone (hasOrder dueZone .setZone [15, 2, 0, 0])) (fun t => (t.monitor.zone 15, t.monitor.first, t.link.nextNotice)) =
      some ({ occurrences := { (⟨0, 0, 0, 0, 0⟩ : PerCondition Word32) with untaken := 1, revSilent := 1 } }, none, 3) := by decide +kernel

theorem witness_ZoneRestoreByState :
    takes restarting .zoneRestore [15] ∧ takes running .zoneRestore [16] ∧ takes running .zoneRestore [15] ∧
    takes (zoned .inService .fwdFrameError) .zoneRestore [15] ∧
    (takes (zoned .outOfService .untaken) .zoneRestore [15] ∧ FaultSet.has Condition.untaken.bit .untaken = true ∧
      ((zoned .outOfService .untaken).monitor.settings.conditions.get .untaken).severity = .serviceLoss) ∧
    (takes (zoned .outOfService .fwdFrameError) .zoneRestore [15] ∧
      ∀ c ∈ Condition.all, FaultSet.has Condition.fwdFrameError.bit c = true →
        ((zoned .outOfService .fwdFrameError).monitor.settings.conditions.get c).severity = .advisory) := by decide +kernel

theorem witness_FaultsCleared :
    takes restarting .clearFaults [15, 31] ∧ takes running .clearFaults [16, 31] ∧
    (takes (zoned .outOfService .untaken) .clearFaults [15, 31] ∧
      FaultSet.has (Condition.untaken.bit &&& (31 : Byte).setWidth 5) .untaken = true) ∧
    takes (zoned .outOfService .untaken) .clearFaults [15, 30] := by decide +kernel

theorem witness_OrdersRefusedInRestarting : takes restarting .submit [] ∧ takes restarting .cancel [] ∧ takes restarting .planRead [] ∧
    takes restarting .start [] ∧ takes restarting .restart [] ∧ (took restarting .restart).link.partState = .restarting := by
  decide +kernel

/-! ### Witnesses: the host link -/

/-- A link with so many orders waiting and so many reply places in use. -/
def busyLink (waiting places : Nat) : State :=
  { running with link :=
    { partState := .running, receiver := .gathering, orders := List.replicate waiting { kind := .status, tag := 0, body := [0, 0] }
      taken := (List.range places).map (fun p => { place := p, kind := .cancel, tag := 0 }) } }

theorem witness_HostFrameChecked :
    (frameCheck 0x20 1 [0, 0] ≠ frameCheck 0x20 1 [0, 0] + 1 ∧ (busyLink 0 0).link.inBreak = false) ∧
    (∃ kind k, OrderKind.ofCode kind = some k ∧ k.lengthFits [] = true ∧ (busyLink 31 64).link.orders.length < 32) ∧
    (OrderKind.ofCode 0 = none ∧ 64 ≤ (busyLink 0 64).link.placesInUse.length ∧
      64 ≤ (busyLink 1 63).setPlaces.link.placesInUse.length) ∧
    ((busyLink 0 63).link.placesInUse.length < 64 ∧ 63 ∉ (busyLink 0 63).link.placesInUse ∧
      (∀ q, q < 63 → q ∈ (busyLink 0 63).link.placesInUse) ∧ ∃ kind k, OrderKind.ofCode kind = some k ∧ k.lengthFits [] = false) ∧
    (¬(busyLink 32 0).link.orders.length < 32 ∧ (busyLink 32 0).link.placesInUse = []) := by
  refine ⟨by decide +kernel, ⟨OrderKind.readFaults.code, .readFaults, by decide +kernel⟩, by decide +kernel,
    ⟨by decide +kernel, by decide +kernel, by decide +kernel, OrderKind.submit.code, .submit, by decide +kernel⟩, by decide +kernel⟩

def aReply : Reply := { kind := 1, tag := 2, code := .ok, body := .none }
def aNotice : Notice := { number := 1, body := .congestion 2 12288 2 }
def broken : State := { running with link := { partState := .running, inBreak := true } }
def sendingReply : State :=
  { running with link := { partState := .running, sending := .reply 63 aReply, ready := [(0, aReply)], notices := [aNotice] } }
def sendingNotice : State := { running with link := { partState := .running, sending := .notice aNotice, notices := [aNotice] } }

theorem witness_ReceiverAndTransmitterMove :
    (running.link.inBreak = false ∧ running.link.receiver = .hunting) ∧ (busyLink 0 0).link.receiver = .gathering ∧
    508 < (509 : Word16).toNat ∧ broken.link.inBreak = true ∧ sendingReply.link.sending = .reply 63 aReply ∧
    sendingNotice.link.sending = .notice aNotice ∧
    (∃ l : Link, l.inBreak = false ∧ l.sending = .idle ∧ l.ready = [(0, aReply)]) ∧
    (∃ l : Link, l.inBreak = false ∧ l.sending = .idle ∧ l.ready = [] ∧ l.notices = [aNotice]) ∧
    ((∀ o ∈ (busyLink 0 63).link.taken, o.place ≠ 63) ∧
      (busyLink 0 2).link.taken = [{ place := 0, kind := .cancel, tag := 0 }] ++ { place := 1, kind := .cancel, tag := 0 } :: []) ∧
    (({ place := 0, kind := .cancel, tag := 0 } : TakenOrder).marked = false ∧
      ({ place := 0, kind := .cancel, tag := 0 } : TakenOrder).mark.marked = true) :=
  ⟨⟨rfl, rfl⟩, rfl, by decide, rfl, rfl, rfl, ⟨{ ready := [(0, aReply)] }, rfl, rfl, rfl⟩,
    ⟨{ notices := [aNotice] }, rfl, rfl, rfl, rfl⟩, ⟨by decide +kernel, rfl⟩, rfl, rfl⟩

/-- The reply of a marked order is discarded and counted, and its place goes to the order that waits; that of another joins the ready
replies (R159, R162). -/
theorem test_marked_reply_discarded :
    let marked : State := { waiting false 64 [aStatus 2] with
      link := { (waiting false 64 [aStatus 2]).link with taken := (waiting false 64 []).link.taken.map TakenOrder.mark } };
    ((marked.reply 63 .ok .none).link.counts.repliesDiscarded, (marked.reply 63 .ok .none).link.orders.map Order.place) =
      (1, [some 63]) ∧
    (((busyLink 0 2).reply 1 .ok .none).link.sending, ((busyLink 0 2).reply 1 .ok .none).link.counts.repliesDiscarded) =
      (.reply 1 { kind := OrderKind.cancel.code, tag := 0, code := .ok, body := .none }, 0) := by decide +kernel

def aRecord : BillingRecord :=
  { sequence := 1, message := 9, sub := 5, group := none, outcome := .delivered, replyCode := 3, attempts := 1, blocks := 2, level := 2,
    plan := some 0, period := 0, charge := 10, deducted := 10, shortfall := 0, withinAllowance := false, fault := false,
    admissionCycle := 0, outcomeCycle := 1, takenSet := 1 }

theorem witness_LinkResetDiscards :
    broken.link.inBreak = true ∧ running.link.inBreak = false ∧ (List.replicate 767 aRecord).length < 768 ∧
      768 ≤ (List.replicate 768 aRecord).length ∧ ({ notices := List.replicate 255 aNotice } : Link).noticeCount = 255 ∧
      ({ notices := List.replicate 255 aNotice, sending := .notice aNotice } : Link).noticeCount = 256 := by
  refine ⟨rfl, rfl, by decide +kernel, by decide +kernel, by decide +kernel, by decide +kernel⟩

/-! ### Witnesses: air time -/

def timed (state : TimerState) (kind : SourceKind) (number : Nat) : State :=
  { running with timer :=
    { state, frameNumber := number, frameCount := 4294967295
      running := { length := 8, ackDelay := 1, source := { kind, nominal := 100 } }, lengthInForce := 8 } }

/-- The frame start of a cycle's middle, the one that is the cycle turn, and the wrap. -/
theorem witness_FrameStartAdvances :
    (∀ n ∈ [0, 5, 7], (timed .running .internal n).timer.state = .running ∧
      (timed .running .internal n).timer.running.source.kind = .internal) ∧
    (timed .running .internal 5).timer.nextFrame.frameNumber + 2 = 8 ∧ (timed .running .internal 7).timer.nextFrame.frameNumber = 0 ∧
    (timed .running .internal 0).timer.nextFrame.frameCount = 0 ∧
    ([0, 5, 7].map (fun n => ((timed .hold .external n).timer.nextFrame.frameNumber, (timed .hold .external n).timer.nextFrame.comingCycle)) =
      [(1, none), (6, some 1), (0, none)]) := by decide +kernel

/-- Of two occurrences left due the next frame start records zone 14's REV_SILENT before zone 15's UNTAKEN (R154; log 53). -/
theorem test_due_occurrences_recorded_zones_rising :
    let s : State := { running with monitor := { zones := [(14, { state := .inService, silentDue := true, silence := 9 }),
      (15, { state := .inService, untakenDue := true, untakenRun := 9 })] } };
    (s.finishLastFrame.monitor.first.map (fun f => (f.zone, f.condition)), (s.finishLastFrame.monitor.zone 14).silence,
      (s.finishLastFrame.monitor.zone 15).untakenDue) = (some (14, .revSilent), 0, false) := by decide +kernel

/-- Zone 15 has been offered a frame that holds entry 16,383. -/
def offeringFrame : State :=
  { timed .running .external 0 with
    store := storeOf .offered
    zoneLinks := { zones := [(15, { offer := .sent, launch := some 9, pages := 1 })] }
    assembler := { offered := some { handed := 0x8000, frame :=
      { launch := 9, number := 3, cycle := 0, blocks := [(15, 3)], tally := []
        placed := [{ entry := 16383, sub := 262143, zones := 0x8000, size := 3, tag := 3, mode := .twoWay }] } } } }

theorem witness_StrobesJudgedAndLost :
    running.timer.state = .stopped ∧
    ((timed .running .internal 0).timer.state = .running ∧ (timed .running .internal 0).timer.running.source.kind = .internal) ∧
    ((timed .running .external 0).timer.state = .running ∧ (timed .running .external 0).timer.running.source.kind = .external ∧
      99 < (timed .running .external 0).timer.running.source.nominal ∧
      (timed .running .external 0).timer.running.source.nominal ≤ 100) ∧
    (timed .hold .external 0).timer.state = .hold ∧
    ((timed .running .external 0).assembler.offered = none ∧ offeringFrame.assembler.offered.isSome) ∧
    ((offeringFrame.zoneLinks.zone 15).offer = .sent ∧ (offeringFrame.zoneLinks.zone 15).launch = some 9 ∧
      (offeringFrame.zoneLinks.zone 14).offer = .idle) ∧
    ((entryOf .offered).cancelRequested = false ∧ ({ entryOf .offered with cancelRequested := true } : Entry).cancelRequested = true) := by
  decide +kernel

/-- Strobe loss withdraws the offer of zone 15 alone, and files the entry back with its attempts (R59, R79, R89). -/
theorem test_strobe_loss_withdraws :
    shows (exec .strobeLoss offeringFrame) (fun s =>
      (s.zoneLinks.sent, (s.zoneLinks.zone 15).counts.withdrawals, (s.zoneLinks.zone 15).launch)) = some ([(15, .withdraw 9)], 1, none) ∧
    shows (exec .strobeLoss offeringFrame) (fun s => ((s.store.entry 16383).map (fun e => (e.state, e.attempts)),
      s.assembler.offered.isNone, s.assembler.counts.voidAttempts)) = some (some (.queued, 1), true, 1) := by decide +kernel

/-! ### Witnesses: frames from the zones -/

def linked (offer : OfferState) (launch : Option Word32) : State :=
  { running with zoneLinks := { zones := [(15, { offer, launch })] }, monitor := { zones := [(15, { state := .inService })] } }
def takenBody : List Byte := [15, 0, 0, 0, 255, 255, 255, 255]
def rejectBody : List Byte := [15, 1, 0, 0, 0, 0, 0, 0]

/-- Outstanding and SENT, outstanding and decided, IDLE, an answer to an earlier count, and one to a later count. -/
theorem witness_AnswersDecideOffers :
    Operands.taken 15 takenBody = some 4294967295 ∧ Operands.reject 15 rejectBody = some 0 ∧
    ((linked .sent (some 4294967295)).zoneLinks.zone 15).launch = some 4294967295 ∧
    ((linked .taken (some 0)).zoneLinks.zone 15).offer ≠ .sent ∧ ((linked .idle none).zoneLinks.zone 15).offer = .idle ∧
    ((0 : Word32) < ((linked .sent (some 1)).zoneLinks.zone 15).launch.getD 0) ∧
    (¬((4294967295 : Word32) < ((linked .sent (some 1)).zoneLinks.zone 15).launch.getD 0) ∧
      ((linked .sent (some 1)).zoneLinks.zone 15).launch ≠ some 4294967295) := by decide +kernel

/-- Zone 15 with its silence count and arrival mark. -/
def silent (state : ZoneState) (silence : Nat) (arrival : Bool) : State :=
  { running with monitor := { zones := [(15, { state, silence, arrival })] } }

theorem witness_ZoneReportsRecorded :
    (Operands.stateReport 15 [15, 1, 0, 0] = some .locked ∧ Operands.stateReport 15 [15, 2, 0, 0] = some .unlocked) ∧
    ((linked .idle none).monitor.zone 15).state ≠ .unconfigured ∧ (running.monitor.zone 15).state = .unconfigured ∧
    ((dueZone.monitor.zone 15).untakenDue = true ∧ (dueZone.monitor.zone 15).silentDue = true) ∧
    ((running.monitor.zone 0).untakenDue = false ∧ (running.monitor.zone 0).silentDue = false) ∧
    (∀ b ∈ [false, true], (((silent .inService 7 b).judgeOffers 0).monitor.zone 15).arrival = b ∧
      (((silent .outOfService 6 b).judgeOffers 0).monitor.zone 15).state ≠ .unconfigured) ∧
    (running.monitor.zone 15).state = .unconfigured := by decide +kernel

/-- A window report of zone 15 with an ACK of the first unit of the address range and a REGISTER of the first one beyond it. -/
def windowBody : List Byte := [15, 2, 0, 0, 0, 9, 0, 0] ++ [1, 0, 0, 16, 15, 15] ++ [2, 4, 0, 16, 255, 255]
def based (items : List ReverseItem) : State :=
  { linked .idle none with cache := { addressBase := some 16 }, zoneLinks := { reverseQueue := items } }
def anItem : ReverseItem := { kind := .ack, sub := 5, tag := 3, code := 7, zone := 15 }

theorem witness_WindowReportTaken :
    (running.monitor.zone 15).state = .unconfigured ∧
    ((dueZone.monitor.zone 15).state ≠ .unconfigured ∧ (dueZone.monitor.zone 15).silentDue = true) ∧
    ((based []).link.partState ≠ .config ∧ (silent .outOfService 0 true).monitor.zone 15 ≠ {} ∧
      ({ based [] with link := {} } : State).link.partState = .config) ∧
    (Operands.window 15 windowBody).map (fun w => (w.1, w.2.map Operands.WindowItem.address)) = some (9, [16, 16 + 262144]) ∧
    ((based []).monitor.zone 15).state ≠ .unconfigured ∧ ((based []).monitor.zone 15).silentDue = false ∧
    (based (List.replicate 63 anItem)).zoneLinks.reverseQueue.length ≤ 64 ∧
    (based (List.replicate 64 anItem)).zoneLinks.reverseQueue.length ≤ 64 := by decide +kernel

/-- The body fits its KIND (6.2 to 6.5), and a WINDOW up to its one item. -/
abbrev bodyFits (link : Nat) (kind : Byte) (body : List Byte) : Prop :=
  (body.getD 0 0).toNat = link ∧
    ((kind = 0x43 ∧ body.length = 8) ∨
      (kind = 0x44 ∧ body.length = 8 ∧ (body.getD 1 0).toNat = 1) ∨
      (kind = 0x45 ∧ body.length = 4 ∧ ((body.getD 1 0).toNat = 1 ∨ (body.getD 1 0).toNat = 2)) ∨
      (kind = 0x46 ∧ body.length = 8 + 6 * (body.getD 1 0).toNat ∧ (body.getD 1 0).toNat ≤ 32 ∧
        ∀ i, i < (body.getD 1 0).toNat → (body.getD (8 + 6 * i) 0).toNat = 2 ∨
          ((body.getD (8 + 6 * i) 0).toNat = 1 ∧ (body.getD (8 + 6 * i + 4) 0).toNat < 16 ∧ (body.getD (8 + 6 * i + 5) 0).toNat < 16)))
def oneItem : List Byte := [15, 1, 0, 0, 0, 9, 0, 0]

theorem witness_BadFramesCharged :
    508 < (509 : Word16).toNat ∧
    (frameCheck 0x46 0 [15] + 1 ≠ frameCheck 0x46 0 [15] ∧ frameCheck 0x42 0 [] + 1 ≠ frameCheck 0x42 0 []) ∧
    (∀ k ∈ [(0x42 : Byte), 0x47], k ≠ 0x43 ∧ k ≠ 0x44 ∧ k ≠ 0x45 ∧ k ≠ 0x46) ∧
    (∀ f ∈ [((0x43 : Byte), takenBody), (0x44, rejectBody), (0x45, [15, 2, 0, 0]), (0x46, windowBody),
        (0x46, oneItem ++ [2, 0, 0, 0, 16, 16])], bodyFits 15 f.1 f.2) ∧
    (∀ f ∈ [((0x43 : Byte), [15]), (0x43, [(14 : Byte)] ++ takenBody.tail), (0x44, takenBody), (0x45, [15, 3, 0, 0]), (0x45, [15, 0, 0, 0]),
        (0x46, oneItem), (0x46, oneItem ++ [3, 0, 0, 0, 0, 0]), (0x46, oneItem ++ [1, 0, 0, 0, 16, 0]),
        (0x46, oneItem ++ [1, 0, 0, 0, 0, 16]),
        (0x46, [15, 33, 0, 0, 0, 9, 0, 0] ++ (List.replicate 33 [(2 : Byte), 0, 0, 0, 0, 0]).flatten), (0x42, takenBody)],
      ¬bodyFits 15 f.1 f.2) := by
  decide +kernel

def undetected : State :=
  { linked .idle none with monitor := { zones := [(15, { state := .inService })], settings :=
    { State.reset.monitor.settings with conditions :=
      State.reset.monitor.settings.conditions.set .untaken { detect := false, notice := true, severity := .serviceLoss } } } }

theorem witness_OccurrenceRecorded :
    (running.monitor.zone 15).state = .unconfigured ∧
    ((undetected.monitor.zone 15).state ≠ .unconfigured ∧ (undetected.monitor.settings.conditions.get .untaken).detect = false) ∧
    (((linked .idle none).monitor.zone 15).state ≠ .unconfigured ∧
      ((linked .idle none).monitor.settings.conditions.get .untaken).detect = true) := by decide +kernel

theorem witness_OfferJudgedAtLaunch :
    ((linked .idle none).zoneLinks.zone 15).offer = .idle ∧
    (((linked .rejected (some 0)).zoneLinks.zone 15).offer ≠ .idle ∧ ((linked .rejected (some 0)).zoneLinks.zone 15).launch = some 0 ∧
      ((linked .rejected (some 0)).monitor.zone 15).state ≠ .unconfigured) ∧
    (({ linked .taken (some 4294967295) with monitor := {} } : State).monitor.zone 15).state = .unconfigured := by decide +kernel

/-- An entry placed for zones 14 and 15, the frame it stands in, and the states in which that frame is offered. -/
def aPlaced (mode : ReplyMode) : Placed := { entry := 16383, sub := 262143, zones := 0xC000, size := 3, tag := 5, mode }
def aFrame : Frame :=
  { launch := 2, number := 1, cycle := 0, placed := [aPlaced .twoWay], blocks := [(14, 3), (15, 3)], tally := [] }
def offering (cancel : Bool) : State :=
  { holding .offered with
    store := { storeOf .offered with entries := [(16383, some { entryOf .offered with cancelRequested := cancel })] }
    assembler := { offered := some { frame := aFrame, handed := 0xC000 } } }

/-- Nothing offered and a frame offered; an entry none of whose zones answered TAKEN, with and without a pending cancel, and one of whose
zones one did; TWO_WAY and ONE_WAY; a frame in hand and none. -/
theorem witness_OfferJudgedAtLaunch_frames :
    running.assembler.offered = none ∧ (offering true).assembler.offered.isSome ∧
    (∀ b ∈ [false, true], ((offering b).store.entry 16383).map Entry.cancelRequested = some b) ∧
    ((aPlaced .twoWay).zones &&& 0x3FFF = 0 ∧ (aPlaced .twoWay).zones &&& 0x4000 ≠ 0) ∧
    ((aPlaced .twoWay).mode = .twoWay ∧ (aPlaced .oneWay).mode = .oneWay) ∧
    ((offering false).store.body 3).isSome ∧
    running.assembler.openFrame = none ∧ ({ running with assembler := { openFrame := some aFrame } } : State).assembler.openFrame = some aFrame ∧
    (({ running with assembler := { openFrame := some aFrame } } : State).launchOffered 1 0).assembler.openFrame = some aFrame := by
  decide +kernel

/-- At a cycle turn an entry past its lifetime leaves its queue, and under a new length the rest go to the queue of their home frame, 262143
modulo 32, in key order (R65). -/
def turning : State :=
  { holding .queued with
    store := { entries := [(4, some { entryOf .queued with level := 3 }), (7, some { entryOf .queued with expiryCycle := 9 }),
      (16383, some (entryOf .queued))] }
    assembler := { queues := [(3, [4, 7]), (5, [16383])] } }

theorem test_cycle_turn_expires_and_refiles :
    ((turning.expireQueued 10).charging.settleList.map SettleElement.entry, (turning.expireQueued 10).refile.assembler.queues) =
      ([7], [(31, [16383, 4])]) := by decide +kernel

/-! ### Witnesses: acknowledgements, deadlines and retries -/

def anAwait (entry : Nat) (tag : BitVec 4) : AwaitElement := { entry, sub := 5, tag, launch := 1, deadline := 4 }
def aRetry (entry : Nat) (tag : BitVec 4) (miss : Word32) (pending : Bool) : RetryElement :=
  { entry, sub := 5, tag := some tag, retryAt := 2, missFrame := some miss, reachPending := pending }
def acked (kind : ItemKind) (awaitSet : List AwaitElement) (list : List RetryElement) : State :=
  { running with zoneLinks := { reverseQueue := [{ anItem with kind }] }, retry := { awaitSet, list } }

/-- The premises under which an item is taken: no request held, and no event that arrived before it waits. -/
abbrev itemsPass (s : State) : Prop := s.retryBlocked = false ∧ ∀ a ∈ s.retry.announced, a.behind ≠ some 0

/-- In the await set after one with another tag; in the retry list between an older one and an equal one; nowhere; a REGISTER. -/
theorem witness_ReverseItemsTaken :
    (itemsPass (acked .ack [anAwait 1 2, anAwait 2 3, anAwait 3 3] []) ∧
      ((anAwait 2 3).sub = anItem.sub ∧ (anAwait 2 3).tag = anItem.tag) ∧ (anAwait 1 2).tag ≠ anItem.tag) ∧
    (itemsPass (acked .ack [] [aRetry 1 3 7 false, aRetry 2 3 7 true, aRetry 3 3 6 false]) ∧
      (aRetry 2 3 7 true).tag = some anItem.tag ∧ (aRetry 1 3 7 false).missFrame.getD 0 ≤ (aRetry 2 3 7 true).missFrame.getD 0 ∧
      (aRetry 3 3 6 false).missFrame.getD 0 < (aRetry 2 3 7 true).missFrame.getD 0) ∧
    (itemsPass (acked .ack [anAwait 1 2] [aRetry 1 4 7 false]) ∧ (aRetry 1 4 7 false).tag ≠ some anItem.tag) ∧
    (itemsPass (acked .register [] [aRetry 1 3 7 false]) ∧ (aRetry 1 3 7 false).sub = anItem.sub) ∧
    (itemsPass { acked .register [] [] with retry := { announced := [{ event := .cycleTurn 1, behind := some 1 }] } }) ∧
    (∀ kind ∈ [ItemKind.ack, .register],
      ({ acked kind [] [] with cache := { heldRequests := [{ sub := 0, kind := .reachRead 0 0 0 }] } } : State).retryBlocked = true ∧
      ({ acked kind [] [] with retry := { announced := [{ event := .cycleTurn 1, behind := some 0 }] } } : State).retry.announced.map
        Announced.behind = [some 0]) := by decide +kernel

theorem witness_SettlingJoinsTail : (holding .awaiting).store.entry 16383 = some (entryOf .awaiting) := by decide

def announcing (announced : List Announced) (held : List Request) : State :=
  { holding .awaiting with
    cache := { heldRequests := held }
    retry := { announced, awaitSet := [{ entry := 16383, sub := 262143, tag := 3, launch := 1, deadline := 4 }] } }

theorem witness_DeadlinesPassedAndMisses :
    ((announcing [{ event := .cycleTurn 1, behind := none }] [{ sub := 0, kind := .reachRead 0 0 0 }]).retryBlocked = true ∧
      (announcing [{ event := .cycleTurn 1, behind := none }] [{ sub := 0, kind := .reachRead 0 0 0 }]).store.entry 16383 =
        some (entryOf .awaiting)) ∧
    (∀ behind ∈ [none, some 0, some 1], ∀ event ∈ [RetryEvent.frameStart 4 0, .cycleTurn 1, .reachRead 16383 262143 1 1],
      (announcing [{ event, behind }, { event := .frameStart 5 1, behind := some 0 }] []).retryBlocked = false) ∧
    ((announcing [] []).retry.announced = [] ∧ (announcing [] []).retryBlocked = false) ∧
    (∀ e ∈ [{ entryOf .offered with attempts := 2 }, { entryOf .offered with maxAttempts := 1 }],
      e.repeats ≤ e.attempts ∨ e.maxAttempts ≤ e.attempts) ∧
    ¬((entryOf .offered).repeats ≤ (entryOf .offered).attempts ∨ (entryOf .offered).maxAttempts ≤ (entryOf .offered).attempts) ∧
    ({ entryOf .awaiting with cancelRequested := true } : Entry).cancelRequested = true ∧
    ((entryOf .awaiting).cancelRequested = false ∧ (entryOf .awaiting).attempts < (entryOf .awaiting).maxAttempts) ∧
    ({ entryOf .awaiting with attempts := 4 } : Entry).maxAttempts ≤ ({ entryOf .awaiting with attempts := 4 } : Entry).attempts := by
  decide +kernel

/-- Two entries miss at frame count 4: both with places free, and the first alone where its update is held by a full queue (R30, R104). -/
def twoMissing (queue : List Request) : State :=
  { announcing [{ event := .frameStart 4 0, behind := none }] [] with
    store := { entries := [(7, some { entryOf .awaiting with sub := 5, attempts := 4 }), (16383, some { entryOf .awaiting with attempts := 4 })] }
    cache := { queue }
    retry := { announced := [{ event := .frameStart 4 0, behind := none }]
               awaitSet := [{ entry := 7, sub := 5, tag := 3, launch := 1, deadline := 4 },
                 { entry := 16383, sub := 262143, tag := 3, launch := 1, deadline := 4 }] } }

theorem test_misses_stop_at_a_held_request :
    shows (exec .deadlineMiss (twoMissing [])) (fun s => (s.retry.counts.misses, s.cache.queue.length, s.cache.heldRequests.length)) =
      some (2, 3, 0) ∧
    shows (exec .deadlineMiss (twoMissing ((List.range 128).map (fun k => { sub := 6, kind := .reachRead k 0 0 })))) (fun s =>
      (s.retry.counts.misses, s.cache.heldRequests.length, s.retry.awaitSet.map AwaitElement.missed,
        s.retry.announced.map Announced.behind)) = some (1, 1, [true, false], [some 0]) := by decide +kernel

/-- A full queue holds the update of a miss, the resolution of its entry with it; with a place free it does not, and an entry whose update is
posted already posts no second one. -/
theorem witness_DeadlinesPassedAndMisses_held :
    let full := twoMissing ((List.range 128).map (fun k => { sub := 6, kind := .reachRead k 0 0 }))
    let a : AwaitElement := { entry := 7, sub := 5, tag := 3, launch := 1, deadline := 4 };
    (full.postMiss a).retryBlocked = true ∧ ((twoMissing []).postMiss a).retryBlocked = false ∧
      (full.store.entry 7).isSome = true ∧ ((twoMissing []).postMiss { a with missed := true }).retryBlocked = false := by decide +kernel

/-- With the update in the queue at last, the first entry is resolved with no second update, under a cancel request that came meanwhile;
then the second misses (R104, R105; log 15). -/
theorem test_held_miss_resolved_afterwards :
    let base := twoMissing []
    let s : State := { base with
      store := { entries := [(7, some { entryOf .awaiting with sub := 5, cancelRequested := true }),
        (16383, some { entryOf .awaiting with attempts := 4 })] }
      retry := { base.retry with
        awaitSet := base.retry.awaitSet.map (fun b => { b with missed := decide (b.entry = 7) }), counts := { misses := 1 } } };
    shows (exec .deadlineMiss s) (fun t => (t.retry.counts.misses, t.retry.awaitSet.length, (t.store.entry 7).map Entry.outcome,
      t.cache.queue.map Request.sub)) = some (2, 0, some (some .cancelled), [262143, 5]) := by decide +kernel

/-- While the Retry Unit waits, a launched entry joins the await set or the retry list all the same, and its reach read is posted in its
turn (R3, R97, R98, R110). -/
theorem test_launched_entries_do_not_wait :
    let s := announcing [{ event := .frameStart 4 0, behind := none }] [{ sub := 0, kind := .reachRead 0 0 0 }];
    ((s.takeLaunched (aPlaced .twoWay) 7).retry.awaitSet.map AwaitElement.deadline,
      ((s.takeLaunched (aPlaced .twoWay) 7).store.entry 16383).map Entry.state) = ([4, 11], some .awaiting) ∧
    ((s.takeLaunched (aPlaced .oneWay) 7).retry.list.map RetryElement.missFrame,
      ((s.takeLaunched (aPlaced .oneWay) 7).store.entry 16383).map Entry.state,
      (s.takeLaunched (aPlaced .oneWay) 7).retry.announced.map Announced.event) =
      ([some 7], some .retryWait, [.frameStart 4 0, .reachRead 16383 262143 1 1]) := by decide +kernel

/-- An answer to the reach read of entry 16,383, and a retry list that holds the entry marked. -/
def anAnswer (unreachable : Bool) (next : Word32) (fault : Bool) : ReachAnswer :=
  { entry := 16383, admission := 1, attempts := 1, unreachable, nextProbe := next, fault }
def answered (a : ReachAnswer) (horizon : Word32) : State :=
  { holding .retryWait with retry := { answers := [a], list := [aRetry 16383 3 7 true], horizon } }

theorem witness_ReachAnswerDecides :
    ({ answered (anAnswer false 0 true) 0 with cache := { heldRequests := [{ sub := 0, kind := .reachRead 0 0 0 }] } } : State).retryBlocked =
      true ∧
    ((answered (anAnswer false 0 true) 0).retryBlocked = false ∧ (entryOf .retryWait).admission = 1 ∧ (entryOf .retryWait).attempts = 1) ∧
    ((answered (anAnswer true 1025 false) 0).retryBlocked = false ∧ (entryOf .retryWait).expiryCycle < 1025) ∧
    ((answered (anAnswer true 1 false) 2).retryBlocked = false ∧ (aRetry 16383 3 7 true).retryAt ≤ 2) ∧
    ((answered (anAnswer true 1024 false) 1023).retryBlocked = false ∧ (1023 : Word32) < 1024) ∧
    (∀ x ∈ (answered { anAnswer true 0 false with entry := 7 } 0).retry.list, x.entry ≠ 7) := by decide +kernel

/-! ### Witnesses: charging and the billing log -/

theorem witness_RecordOrdersPosted :
    (takes running .topUp [3, 255, 255, 255, 255, 255, 255] ∧
      Operands.topUp [3, 255, 255, 255, 255, 255, 255] = some (262143, 4294967295)) ∧
    (takes running .topUp [0, 0, 5, 0, 0, 0, 0] ∧ Operands.topUp [0, 0, 5, 0, 0, 0, 0] = none) ∧
    (takes .reset .adjust [0, 0, 5, 128, 0, 0, 0] ∧ Operands.adjust [0, 0, 5, 128, 0, 0, 0] = some (5, -2147483648)) ∧
    (takes running .adjust [4, 0, 0, 0, 0, 0, 1] ∧ Operands.adjust [4, 0, 0, 0, 0, 0, 1] = none) ∧
    (takes restarting .readSub [3, 255, 255] ∧ Operands.subscriber [3, 255, 255] 0 = some 262143) ∧
    (takes restarting .readSub [4, 0, 0] ∧ Operands.subscriber [4, 0, 0] 0 = none) ∧
    (takes running .writeSub [3, 255, 255, 2, 1, 63, 2, 1, 15, 0] ∧ (Operands.writeSub [3, 255, 255, 2, 1, 63, 2, 1, 15, 0]).isSome) ∧
    (takes running .writeSub [3, 255, 255, 2, 1, 64, 2, 1, 15, 0] ∧ Operands.writeSub [3, 255, 255, 2, 1, 64, 2, 1, 15, 0] = none) ∧
    (takes running .repairSub [3, 255, 255, 2, 1, 63, 2, 1, 15, 0, 255, 255, 255, 255] ∧
      (Operands.repairSub [3, 255, 255, 2, 1, 63, 2, 1, 15, 0, 255, 255, 255, 255]).isSome) ∧
    (takes running .repairSub [3, 255, 255, 2, 1, 63, 2, 1, 16, 0, 0, 0, 0, 0] ∧
      Operands.repairSub [3, 255, 255, 2, 1, 63, 2, 1, 16, 0, 0, 0, 0, 0] = none) := by decide +kernel

/-- So many reach reads of subscriber 6, whose record is not there, in the queue, requests held, and a line that holds subscriber 5. -/
def crowded (queued : Nat) (held : List Request) : State :=
  { running with cache :=
    { queue := (List.range queued).map (fun k => { sub := 6, kind := .reachRead k 0 0 }), heldRequests := held
      lines := [(10, { state := .clean }), (12, { state := .filling }), (13, { state := .filling, tag := 1 })] } }

/-- Served on arrival; held, with the 128th place taken, but for a placement update; queued at the 127th; a non-waiting read dropped, finding
a touch queued, and leaving one; a request admitted and none. -/
theorem witness_RecordOrdersPosted_requests :
    (((crowded 128 []).cache.arrivesOn 5 = some 0 ∧ (crowded 128 []).cache.onChip 5 = some 0) ∧ (crowded 128 []).cache.occupancy = 128) ∧
    ((crowded 128 []).cache.takesPlace { sub := 7, kind := .settlementRead } = true ∧ (crowded 128 []).cache.onChip 7 = none ∧
      (crowded 127 []).cache.occupancy = 127 ∧ (crowded 128 []).cache.takesPlace { sub := 5, kind := .settlementRead } = false) ∧
    (({ (crowded 1 []).cache with queue := [{ sub := 7, kind := .touch }] } : Cache).hasTouch 7 = true ∧
      (crowded 1 []).cache.hasTouch 7 = false) ∧
    ((crowded 127 [{ sub := 8, kind := .settlementRead }]).cache.heldRequests = [{ sub := 8, kind := .settlementRead }] ∧
      (crowded 128 []).cache.holdsOrder 6 = true ∧ (crowded 128 []).cache.holdsOrder 7 = false) := by decide +kernel

/-- Fewer requests held than places free: they are admitted first, and the touch of a non-waiting read has the place left, or is dropped
where none is (R30, R32). -/
theorem test_touch_follows_the_held_requests :
    (((crowded 126 [{ sub := 8, kind := .settlementRead }]).nonWaitingRead 7).2.cache.queue.drop 126).map Request.sub = [8, 7] ∧
    ((crowded 126 [{ sub := 8, kind := .settlementRead }]).nonWaitingRead 7).2.cache.counts.droppedTouches = 0 ∧
    ((crowded 127 [{ sub := 8, kind := .settlementRead }]).nonWaitingRead 7).2.cache.counts.droppedTouches = 1 ∧
    (((crowded 128 []).post 7 .settlementRead).cache.heldRequests.length, ((crowded 128 []).post 7 (.update (.placement 3 none))).cache.queue.length,
      ((crowded 128 []).post 5 (.update (.placement 3 none))).cache.queue.length) = (1, 129, 128) := by decide +kernel

/-- A subscriber's record, and a state in which a request of subscriber 5 has its turn on its CLEAN line. -/
def aSub (account : AccountKind) : Record :=
  { host := { status := .active, account, plan := 1, capability := .text, mode := .twoWay, homeZone := 2 }, lastZone := none, airTag := 9,
    misses := 0, unreachable := false, exhausted := false, live := 1, nextProbe := 0, balance := 500, reserved := 300, charges := 0,
    period := 0, messages := 0, allowanceUsed := 0 }
def serving (kind : RequestKind) (account : AccountKind) : State :=
  { running with
    store := storeOf .settling, cache := { lines := [(10, { state := .clean, record := aSub account })], queue := [{ sub := 5, kind }] } }

theorem witness_TopUpAndAdjustApplied :
    (serving .topUpRead .prepaid).heldTurn .topUpRead = some (5, 0) ∧
    ((serving .adjustRead .prepaid).heldTurn .adjustRead = some (5, 0) ∧
      ((aSub .prepaid).roll 0).host.account = .prepaid) ∧
    ((serving .adjustRead .postpaid).heldTurn .adjustRead = some (5, 0) ∧
      ((aSub .postpaid).roll 0).host.account = .postpaid) ∧
    ({ serving .topUpRead .prepaid with charging := { order := some (.topUp 0 5 1) } } : State).charging.order = some (.topUp 0 5 1) ∧
    ({ serving .adjustRead .prepaid with charging := { order := some (.adjust 0 5 (-1)) } } : State).charging.order =
      some (.adjust 0 5 (-1)) ∧
    (serving .topUpRead .prepaid).heldTurn .settlementRead = none ∧
    (let held := serving .topUpRead .prepaid
     ({ held with cache := { held.cache with holds := [5] } } : State).heldTurn .topUpRead = none) := by decide +kernel

theorem witness_ChargePriced : (entryOf .settling).originalLevel < defaultPlan.priority.length := by decide

theorem witness_EstimateCoversCharge :
    (entryOf .settling).originalLevel < planGiven.priority.length ∧ (∀ q ∈ planGiven.priority, 16 ≤ q) ∧ planGiven.expiry ≤ 16 ∧
      (entryOf .settling).attempts ≤ 1 ∧ (entryOf .settling).group = none := by decide

def settlingHead : State :=
  { serving .settlementRead .prepaid with
    store :=
      { storeOf .settling with entries := [(16383, some { entryOf .settling with outcome := some .delivered, replyCode := some 3 })] }
    charging := { settleList := [{ entry := 16383, outcomeCycle := 2 }], head := .record }
    log := { setAside := true } }

theorem witness_SettlementMovesMoney :
    settlingHead.heldTurn .settlementRead = some (5, 0) ∧ settlingHead.charging.head = .record ∧
      (settlingHead.store.entry 16383).map Entry.outcome = some (some .delivered) ∧
      ({ settlingHead with cache := { settlingHead.cache with lines := [(10, { state := .dirty, deferral := 1, record := aSub .postpaid })] } }
        : State).heldTurn .settlementRead = some (5, 0) := by decide +kernel

/-- The thresholds of the congestion level, each side of each, and the notice of a move (R5). -/
def congested (level : Nat) : State := { running with store := { congestion := level } }

theorem test_congestion_thresholds :
    [(3, 12287), (3, 12288), (2, 14335), (2, 14336), (1, 13312), (1, 13311), (2, 10240), (2, 10239)].map
      (fun p => ((congested p.1).setOccupancy p.2).store.congestion) = [3, 2, 2, 1, 1, 2, 2, 3] ∧
    ((congested 2).setOccupancy 14336).link.sending = .notice { number := 1, body := .congestion 1 14336 1 } ∧
    ((congested 2).setOccupancy 14335).link.sending = .idle := by decide +kernel

theorem witness_SettlementFinished :
    settlingHead.charging.settleList = { entry := 16383, outcomeCycle := 2 } :: [] ∧
      ((settlingHead.store.entry 16383).bind Entry.outcome).isSome ∧ (settlingHead.store.body 3).isSome ∧
      settlingHead.log.high = .armed ∧ settlingHead.log.records.length + 1 < 768 := by decide +kernel

/-- The 768th record held warns an ARMED mark and no other, and its settlement is told of once: the first notice is being sent, and the
other waits (R139, R144). -/
theorem test_high_mark_and_notice_step :
    let ended : Nat → HighMark → State := fun held high =>
      { settlingHead with log := { setAside := true, records := List.replicate held aRecord, high } }.finishSettlement
        { entry := 16383, outcomeCycle := 2 } { entryOf .settling with outcome := some .delivered, replyCode := some 3 } Money.zero none;
    [ended 766 .armed, ended 767 .armed, ended 767 .sent].map (fun s => (s.log.high, s.log.counts.highNotices, s.log.greatest,
      s.log.counts.outcomesOffered, s.link.notices.length)) =
      [(.armed, 0, 767, 1, 0), (.sent, 1, 768, 1, 1), (.sent, 0, 768, 1, 0)] := by decide +kernel

/-- One record held that the last COLLECT returned: r = 1 passes, r = 2 and n = 0 do not; a log full and waiting. -/
def logged : State := { running with log := { records := [aRecord], lastReturned := 1 } }
theorem witness_CollectReleasesAndReturns :
    (takes logged .collect [1, 16] ∧ (1 : Byte).toNat ≤ (took logged .collect).log.lastReturned) ∧
    (takes logged .collect [2, 1] ∧ ¬(2 : Byte).toNat ≤ (took logged .collect).log.lastReturned) ∧
    (takes logged .collect [0, 0] ∧ takes logged .collect [0, 17]) ∧
    (∃ l : BillingLog, l.waiting = true ∧ 0 < l.records.length - (l.records.drop 1).length) := by
  refine ⟨by decide +kernel, by decide +kernel, by decide +kernel, ⟨{ waiting := true, records := [aRecord] }, rfl, by decide⟩⟩

theorem witness_OutcomeNoticeSelected :
    (running.log.selection = .all) ∧
    (∃ s : State, s.log.selection = .failuresAndReplies ∧ aRecord.outcome = .delivered ∧ aRecord.replyCode ≠ 0) ∧
    (∃ s : State, s.log.selection = .none) :=
  ⟨rfl, ⟨{ running with log := { selection := .failuresAndReplies } }, rfl, rfl, by decide⟩, ⟨{ running with log := { selection := .none } }, rfl⟩⟩

/-! ### Witnesses: submissions and cancels -/

/-- SUBMIT of 6 content bytes at level 3, NUMERIC, for subscriber 5; and one of level 4. -/
def submitBody : List Byte := [0, 0, 5, 3, 1, 0, 0, 3, 0x31, 0x41, 0x32]
def badSubmit : List Byte := [0, 0, 5, 4, 1, 0, 0, 3, 0x31, 0x41, 0x32]
def groupBody : List Byte := [3, 255, 0, 2, 0, 0, 0, 1, 0x41]
def noRoom : State := { grouped with store := { grouped.store with freeEntries := { next := 16382, size := 16384, returned := [] } } }

theorem witness_SubmissionsBegin :
    takes .reset .submit submitBody ∧ takes .reset .submitGroup groupBody ∧
    (takes running .submitGroup [4, 0, 0, 2, 0, 0, 0, 1, 0x41] ∧ 1023 < Bytes.field [4, 0, 0, 2, 0, 0, 0, 1, 0x41] 0 2) ∧
    (takes grouped .submitGroup [3, 255, 0, 4, 0, 0, 0, 1, 0x41] ∧ Operands.submitGroupNumber [3, 255, 0, 4, 0, 0, 0, 1, 0x41] = some 1023 ∧
      Operands.submitGroupKind [3, 255, 0, 4, 0, 0, 0, 1, 0x41] = none ∧ Table.get [] grouped.store.groups 1023 ≠ []) ∧
    (takes running .submit badSubmit ∧ Operands.submit badSubmit = none) ∧
    (takes running .submit submitBody ∧ Operands.submit submitBody = some (5, 3, .numeric)) ∧
    (takes running .submitGroup groupBody ∧ Operands.submitGroupNumber groupBody = some 1023 ∧
      Table.get [] running.store.groups 1023 = []) ∧
    (takes noRoom .submitGroup groupBody ∧ noRoom.store.available < 3) ∧
    (takes grouped .submitGroup groupBody ∧ (Operands.submitGroupKind groupBody).isSome ∧
      3 ≤ grouped.store.available ∧ grouped.store.freeBodies.take.isSome) := by decide +kernel

def submitting (kind : RequestKind) (status : SubStatus) : State :=
  { running with
    cache := { lines := [(10, { state := .clean, record := { aSub .prepaid with host := { (aSub .prepaid).host with status } } })],
               queue := [{ sub := 5, kind }] }
    intake := { order := some (.submit 0 5 (clamp 3 .numeric [0x31])) } }

/-- Refused for its status; with 0 to reserve, admitted. -/
theorem witness_IntakeReadDecidesSubmit :
    (submitting .intakeRead .suspended).heldTurn .intakeRead = some (5, 0) ∧
    (submitting .intakeRead .active).heldTurn .intakeRead = some (5, 0) ∧
    (submitting .intakeRead .active).store.freeBodies.take = some (0, { next := 1, size := 4096, returned := [] }) ∧
    (submitting .intakeRead .active).store.freeEntries.take = some (0, { next := 1, size := 16384, returned := [] }) ∧
    ((submitting .intakeRead .active).charging.activePlan 1).estimate 1 3 3 false = 0 ∧ (aSub .prepaid).live < 32 := by decide +kernel

theorem witness_EntriesFiled :
    ((holding .queued).store.entry 16383 = some (entryOf .queued)) ∧ (holding .queued).link.partState ≠ .restarting ∧
    ({ aSub .prepaid with unreachable := true } : Record).unreachable = true ∧ (entryOf .queued).level ≤ (holding .queued).effectiveLevel ∧
    ({ holding .queued with intake := { hostLevel := 1 } } : State).effectiveLevel < (entryOf .queued).level ∧
    (∃ f : Frame, (entryOf .queued).expiryCycle < f.cycle) ∧ ¬(entryOf .queued).expiryCycle < 1024 ∧
    (holding .queued).store.entry (aRetry 16383 3 7 true).entry = some (entryOf .queued) :=
  ⟨by decide, by decide, rfl, by decide, by decide, ⟨{ launch := 0, number := 0, cycle := 1025, placed := [], blocks := [], tally := [] },
    by decide⟩, by decide, by decide⟩

/-- A lower retry-at stands before, and of one retry-at the lower admission sequence (R108). -/
theorem test_retry_list_order :
    let s : State := { holding .queued with
      store := { entries := [(7, some { entryOf .retryWait with admission := 2 }), (8, some { entryOf .retryWait with admission := 5 }),
        (16383, some { entryOf .queued with admission := 3 })] }
      retry := { list := [{ aRetry 7 3 7 true with retryAt := 7 }, { aRetry 8 3 7 true with retryAt := 7 }] } };
    [6, 7, 8].map (fun at_ => (s.joinRetryList { aRetry 16383 3 7 true with retryAt := at_ }).retry.list.map RetryElement.entry) =
      [[16383, 7, 8], [7, 16383, 8], [7, 8, 16383]] := by decide +kernel

def groupOf (members : List Nat) : GroupOrder :=
  { place := 0, group := 1023, body := 3, message := clamp 2 .text [0x41], members, counts := {} }
def grouping (status : SubStatus) : State :=
  { submitting .memberRead status with
    intake := { order := some (.group (groupOf [5, 6])) }
    store := { bodies := [(3, some { message := none, encoding := .text, content := [0x41], references := 0, inSubmission := true })],
               setAside := 2 } }

/-- STATUS STORE gives figures of the group submission in progress, not its members or its content (R165; log 58). -/
theorem test_status_gives_group_figures :
    shows (exec .status (hasOrder (grouping .active) .status [1, 0])) (fun t => match t.link.sending with
      | .reply _ { body := .statusStore f, .. } => f.group
      | _ => none) = some (some { group := 1023, body := 3, level := 2, encoding := .text, blocks := 1, remaining := 2, counts := {} }) := by decide +kernel

/-- A group, a total, a count, an index out of range, a piece past its total; and a piece in range while the group's submission is in progress
(R12). -/
theorem witness_groups_refused :
    [[4, 0, 0, 0, 0, 0, 0, 0], [0, 0, 8, 1, 0, 0, 0, 0], [0, 0, 8, 0, 0, 0, 161, 0], [0, 0, 0, 1, 0, 0, 1, 0, 4, 0, 0],
      [0, 0, 0, 1, 0, 1, 1, 0, 0, 0, 0]].all (refusedWith running .groupSet .groupSet .badValue) ∧
    (refusedWith (grouping .active) .groupSet .groupSet .busy wholePiece ∧ (grouping .active).intake.groupBusy 1023 = true) := by
  decide +kernel

theorem witness_GroupMemberCreatedOrRefused :
    ((grouping .closed).heldTurn .memberRead = some (5, 0) ∧
      ((grouping .closed).lineRecord 5 0).host.status = .closed) ∧
    ((grouping .active).heldTurn .memberRead = some (5, 0) ∧ ((grouping .active).lineRecord 5 0).host.status = .active ∧
      ((grouping .active).lineRecord 5 0).host.capability = .text ∧ ((grouping .active).lineRecord 5 0).live < 32 ∧
      (grouping .active).charging.activePlan 1 = defaultPlan ∧ (grouping .active).store.freeEntries.take.isSome) ∧
    ((grouping .active).store.body 3).isSome ∧ (groupOf []).members = [] := by decide +kernel

/-- CANCEL by entry 16,383, 16,384 and 0, and by message 9 and 8. -/
def cancelBody (form high low : Byte) : List Byte := [form, 0, 0, 0, 0, 0, high, low]

theorem witness_CancelSetsRequestsOnTheirWay :
    takes .reset .cancel (cancelBody 0 0 0) ∧
    (takes running .cancel (cancelBody 2 0 0) ∧ 1 < ((cancelBody 2 0 0).getD 0 0).toNat) ∧
    (takes (holding .queued) .cancel (cancelBody 0 64 0) ∧ Operands.cancel (cancelBody 0 64 0) = some (.entry 16384)) ∧
    (takes (holding .queued) .cancel (cancelBody 0 0 0) ∧ (holding .queued).store.entry 0 = none) ∧
    (takes (holding .queued) .cancel (cancelBody 0 63 255) ∧ (holding .queued).store.entry 16383 ≠ none) ∧
    (takes (holding .queued) .cancel (cancelBody 1 0 8) ∧ (holding .queued).store.findMessage 8 = none) ∧
    (takes (holding .queued) .cancel (cancelBody 1 0 9) ∧ ((holding .queued).store.entriesOf 3).map Prod.fst = [16383]) ∧
    (takes { holding .queued with store := { storeOf .queued with entries := [] } } .cancel (cancelBody 1 0 9) ∧
      ({ storeOf .queued with entries := [] } : Store).entriesOf 3 = []) := by decide +kernel

def cancelling (byMessage : Bool) (requests : List Nat) (state : EntryState) : State :=
  { holding state with intake := { order := some (.cancel { place := 0, byMessage, requests }), holdList := [16383] } }

theorem witness_CancelRequestActsByState :
    (∀ state ∈ [EntryState.held, .queued, .placed, .offered, .awaiting, .retryWait, .settling],
      (cancelling true [16383, 1] state).store.entry 16383 = some (entryOf state)) ∧
    (cancelling false [16383] .held).intake.order = some (.cancel { place := 0, byMessage := false, requests := 16383 :: [] }) ∧
    (cancelling true [16383, 1] .held).intake.order = some (.cancel { place := 0, byMessage := true, requests := 16383 :: [1] }) ∧
    ((cancelling false [5] .held).store.entry 5 = none ∧ codeSent (exec .cancelRequest { cancelling false [5] .held with
      link := { partState := .running, taken := [{ place := 0, kind := .cancel, tag := 7 }] } }) = some .alreadyDone) ∧
    (aFrame.placed = [] ++ aPlaced .twoWay :: [] ∧ (aPlaced .twoWay).entry = 16383) ∧
    ((3, [4, 7]) ∈ turning.assembler.queues ∧ 7 ∈ [4, 7] ∧ ∀ q ∈ turning.assembler.queues, 9 ∉ q.2) := by
  decide +kernel

/-- A cancelled placed entry leaves the open frame and gives back its blocks in zones 14 and 15; its tag stays in the tally (R21, R74). -/
theorem test_unplace :
    let f : Frame := { aFrame with blocks := [(13, 5), (14, 3), (15, 7)], tally := [{ sub := 262143, drawn := 1, last := 5 }] }
    let s : State := { running with assembler := { openFrame := some f } };
    ((s.unplace 16383).assembler.openFrame.map (fun f => (f.placed, [13, 14, 15].map f.block, f.tally.length)) = some ([], [5, 0, 4], 1)) ∧
    s.unplace 4 = s := by decide +kernel

/-! ### Witnesses: placement and records -/

/-- Step 0 with zone 15 in service and out of it, step 1 with a neighbour in service and with none, step 2. -/
theorem witness_ZoneMaskWidens :
    ZoneSet.has 0x8001 15 = true ∧ ZoneSet.has 0x0003 15 = false ∧
    (∃ w, w < 16 ∧ (w = 15 ∨ ZoneSet.has 0x0001 w = true) ∧ ZoneSet.has 0x0003 w = true) ∧
    (∀ w, w < 16 → ¬((w = 15 ∨ ZoneSet.has 0x0004 w = true) ∧ ZoneSet.has 0x0003 w = true)) :=
  ⟨by decide, by decide, ⟨0, by decide⟩, by decide⟩

def nearlyFull : Frame :=
  { launch := 9, number := 1, cycle := 0, placed := [], blocks := [(15, 61)], tally := [{ sub := 262143, drawn := 1, last := 15 }] }
def framed : State := { holding .queued with assembler := { openFrame := some nearlyFull } }

/-- An entry tried in a frame: of a level, its deferral count, the tags drawn, blocks of zone 15 in use, its queue. -/
def triedIn (level deferral drawn used : Nat) (displaceable : Bool) : State :=
  { running with
    store := { entries := [(16383, some { entryOf .queued with level, deferral }), (4, some { entryOf .placed with level := 3 })] }
    monitor := { zones := [(15, { state := .inService })] }
    assembler := { queues := [(3, [16383])], openFrame := some { nearlyFull with
      placed := if displaceable then [{ aPlaced .twoWay with entry := 4, zones := 0x8000, size := 3 }] else []
      blocks := [(15, used)], tally := [{ sub := 262143, drawn, last := 15 }] } } }
def recordOfFifteen : Record :=
  { aSub .postpaid with host := { (aSub .postpaid).host with homeZone := 15 } }

/-- The blocks a zone of the mask lacks room with, an entry of 3 blocks coming in. -/
def lacksRoom (s : State) (w : Nat) : Bool :=
  match s.assembler.openFrame with
  | none => false
  | some f => ZoneSet.has 0x8000 w && decide (64 < f.block w + 3)

/-- Three tags drawn and four; the record ready and not; an empty mask; room up to the last block and one short; no room with nothing to
displace and with a page that makes it; each way a deferral ends; and where a filed entry arrives at the frame in hand. -/
theorem witness_EntryPlaced :
    (framed.assembler.openFrame.isSome ∧ framed.store.entry 16383 = some (entryOf .queued)) ∧
    (∀ drawn ∈ [3, 4], ((triedIn 0 0 drawn 61 false).assembler.openFrame.map (fun f => f.drawn 262143)) = some drawn) ∧
    ((triedIn 0 0 3 61 false).nonWaitingRead 262143).1 = none ∧
    zoneMask 15 0 running.monitor.inService 2 = 0 ∧ zoneMask 15 0 (triedIn 0 0 3 61 false).monitor.inService 2 = 0x8000 ∧
    (∀ w, w < 16 → lacksRoom (triedIn 0 0 3 61 false) w = false) ∧ lacksRoom (triedIn 0 0 3 62 false) 15 = true ∧
    (∀ b ∈ [false, true], ((triedIn 0 0 3 62 b).assembler.openFrame.map (fun f =>
      decide (f.block 15 - ((f.placed.filter (fun p => ZoneSet.has p.zones 15)).map Placed.size).sum + 3 ≤ 64))) = some b) ∧
    ((triedIn 1 0 3 62 false).assembler.queues.find? (fun x => x.2.contains 16383)) = some (3, [16383]) ∧
    framed.assembler.queues.find? (fun x => x.2.contains 16383) = none ∧
    ((triedIn 2 1 3 62 false).store.entry 16383).map (fun e => (e.deferral, e.level)) = some (1, 2) ∧
    ((entryOf .queued).expiryCycle = 1024 ∧ nearlyFull.cycle ≤ (entryOf .queued).expiryCycle ∧ nearlyFull.number = 1 ∧
      (0 + 262143) % running.timer.lengthInForce = 31) ∧
    (running.assembler.openFrame = none ∧ (triedIn 0 0 3 62 true).assembler.openFrame.isSome) := by decide +kernel

/-- A READY report tries the entries the open frame skipped, and no others (R68). -/
theorem test_ready_report :
    let s : State := { triedIn 1 0 0 0 false with assembler := { (triedIn 1 0 0 0 false).assembler with
      queues := [(1, [16383])], missSkip := [{ entry := 16383, sub := 262143, launch := 9 }, { entry := 4, sub := 6, launch := 9 }] } };
    ((s.readyReport 262143 recordOfFifteen).store.entry 16383).map Entry.state = some .placed ∧
    (s.readyReport 262143 recordOfFifteen).assembler.missSkip.map MissSkip.entry = [4] ∧
    ((s.readyReport 6 recordOfFifteen).store.entry 16383).map Entry.state = some .queued := by decide +kernel

/-- The late arrival of level 0 takes the room of the page of level 3, and of nothing where nothing makes room for it. -/
theorem test_late_arrival_displaces :
    (((triedIn 0 0 3 62 true).tryEntry true (some recordOfFifteen) 16383).assembler.openFrame.map (fun f =>
      (f.placed.map Placed.entry, f.block 15))) = some ([16383], 62) ∧
    (((triedIn 0 0 3 62 true).tryEntry false (some recordOfFifteen) 16383).assembler.openFrame.map (fun f =>
      (f.placed.map Placed.entry, f.block 15))) = some ([4], 62) ∧
    (((triedIn 2 1 3 62 false).tryEntry true (some recordOfFifteen) 16383).store.entry 16383).map (fun e => (e.deferral, e.level)) =
      some (0, 1) := by decide +kernel

def fullRecord : Record :=
  { aSub .prepaid with
    host := { (aSub .prepaid).host with plan := 63, homeZone := 15 }, lastZone := some 15, misses := 255, live := 32, balance := 4294967295,
    reserved := 4294967295, charges := 4294967295, messages := 65535, allowanceUsed := 65535 }

/-- 62 bytes of a record, with 7 in offset 40 and a status, and the check word that follows them. -/
def strangeBytes (status : Byte) : List Byte := (status :: (fullRecord.fieldBytes.drop 1).take 39) ++ 7 :: List.replicate 21 0
def strangeMem (status : Byte) (error : Nat) : List Host.Cell :=
  Memory.writeBytes [] 320 (strangeBytes status ++ Bytes.ofNat 2 ((Bytes.crc16 (strangeBytes status)).toNat + error))

set_option maxRecDepth 100000 in
/-- A good check word with nonzero bytes past offset 33, a wrong check word, and a good one over a status the table does not list
(R27, R172). -/
theorem witness_RecordsReadBack_layout :
    (Memory.readRecord (strangeMem 2 0) 5).map (fun r => (r.host.status, r.host.plan, r.misses)) = some (.closed, 63, 255) ∧
    Memory.readRecord (strangeMem 2 1) 5 = none ∧ Memory.readRecord (strangeMem 3 0) 5 = none := by decide +kernel

theorem witness_RecordsReadBack : fullRecord.legal := by
  refine ⟨by decide, by decide, fun z h => ?_, by decide, by decide, by decide, by decide, by decide, by decide, by decide⟩
  cases h; decide

/-- The deadline miss that comes to U, the one before it, and one at 255 (R104). -/
theorem test_deadline_miss_update :
    [4, 5, 255].map (fun misses => ((Update.deadlineMiss 6).apply { aSub .prepaid with misses }).misses) = [5, 6, 255] ∧
    [4, 5, 255].map (fun misses => ((Update.deadlineMiss 6).apply { aSub .prepaid with misses }).unreachable) = [false, true, true] := by
  decide +kernel

theorem witness_UpdatesRollAndFollowPolicy :
    (6 ≤ (if 5 < 255 then 5 + 1 else 255) ∧ (if 4 < 255 then 4 + 1 else 255) < 6) ∧
    (∃ c : Cache, (c.line 5 0).record.period = 0 ∧ c.policy = .through) ∧
    (∃ c : Cache, (c.line 5 0).state = .dirty ∧ (c.line 5 0).deferral = 15 ∧ c.policy = .deferred) ∧
    (∃ c : Cache, (c.line 5 0).state = .dirty ∧ (c.line 5 0).deferral + 1 < c.limit ∧ c.policy = .bounded) ∧
    (∃ c : Cache, c.limit ≤ (c.line 5 0).deferral + 1 ∧ (c.line 5 0).state = .dirty ∧ c.policy = .bounded) :=
  ⟨by decide, ⟨{ policy := .through }, by decide⟩, ⟨{ policy := .deferred, lines := [(10, { state := .dirty, deferral := 15 })] }, by decide⟩,
    ⟨{ lines := [(10, { state := .dirty, deferral := 2 })] }, by decide⟩,
    ⟨{ lines := [(10, { state := .dirty, deferral := 3 })] }, by decide⟩⟩

/-- A request of subscriber 5 in its turn, its line valid, being filled, or not there. -/
def requesting (kind : RequestKind) (line : LineState) (port : List PortOp) (mem : List Host.Cell) : State :=
  { running with
    mem, cache := { lines := if line = .invalid then [] else [(10, { state := line, record := aSub .prepaid })]
                    queue := [{ sub := 5, kind }], port } }
theorem requesting_mem (kind : RequestKind) (line : LineState) (port : List PortOp) (mem : List Host.Cell) :
    (requesting kind line port mem).mem = mem := rfl
def storedMem : List Host.Cell := Memory.writeRecord [] 5 (aSub .prepaid)

/-- A port with one default record ahead of its operation comes to that operation. -/
theorem comes_behind_a_default_write {s : State} {op : PortOp} {n : Nat} {r : Record} {mem : List Host.Cell} (hn : n < 262144)
    (h : s.cache.port = [.initWrite n r false, op]) (hm : s.mem = mem) : s.PortComesTo op [] (Memory.writeRecord mem n r) :=
  ⟨[(n, r)], by simpa [Config.subscribers] using hn, h, by rw [← hm]; rfl⟩

/-- A port whose first operation is no default write comes to it with memory as it is. -/
theorem comes_at_the_head {s : State} {op : PortOp} {mem : List Host.Cell} (h : s.cache.port = [op]) (hm : s.mem = mem) :
    s.PortComesTo op [] mem := ⟨[], by simp, h, hm.symm⟩

/-- The three operations of the host record orders at the head of the port and behind a default write, with a good record in memory and
with none. -/
theorem witness_HostRecordOrdersCarriedOut_port (op : PortOp) :
    (requesting (.readSub 0 .reading) .invalid [op] []).PortComesTo op [] [] ∧
    (requesting (.readSub 0 .reading) .invalid [.initWrite 4 (aSub .prepaid) false, op] storedMem).PortComesTo op []
      (Memory.writeRecord storedMem 4 (aSub .prepaid)) :=
  ⟨comes_at_the_head rfl (requesting_mem ..), comes_behind_a_default_write (by decide) rfl (requesting_mem ..)⟩

/-- A request's next phase: its queue is split at it. -/
theorem witness_HostRecordOrdersCarriedOut_queue :
    let q : Request := { sub := 5, kind := .writeSub 0 (aSub .postpaid).host .reading }
    let c : Cache := { queue := [{ sub := 4, kind := .touch }, q, { sub := 5, kind := .touch }] };
    c.queue = [{ sub := 4, kind := .touch }] ++ q :: [{ sub := 5, kind := .touch }] ∧ q.sub = 5 ∧
      ∀ x ∈ [({ sub := 4, kind := .touch } : Request)], x.sub ≠ 5 := by decide

theorem witness_HostRecordOrdersCarriedOut :
    (requesting (.readSub 0 .reading) .invalid [] []).readSubTurn 5 = none ∧
    ((requesting (.readSub 0 .posted) .dirty [] []).readSubTurn 5 = some 0 ∧
      (requesting (.readSub 0 .posted) .dirty [] []).cache.onChip 5 = some 0) ∧
    ((requesting (.readSub 0 .posted) .filling [] []).readSubTurn 5 = some 0 ∧
      (requesting (.readSub 0 .posted) .filling [] []).cache.onChip 5 = none ∧
      (requesting (.readSub 0 .posted) .filling [] []).cache.filling 5 = true) ∧
    ((requesting (.readSub 0 .joined) .invalid [] []).readSubTurn 5 = some 0 ∧
      (requesting (.readSub 0 .joined) .invalid [] []).cache.filling 5 = false) ∧
    (((requesting (.readSub 0 .reading) .invalid [.hostRead 5] storedMem).cache.front 5).map Request.kind =
      some (.readSub 0 .reading)) ∧
    (((requesting (.writeSub 0 (aSub .postpaid).host .reading) .clean [.hostWriteRead 5] []).cache.front 5).map Request.kind =
      some (.writeSub 0 (aSub .postpaid).host .reading)) ∧
    (((requesting (.repairSub 0 (aSub .postpaid).host 7 .writing) .invalid [.hostWrite 5 (aSub .prepaid)] []).cache.front 5).map
      Request.kind = some (.repairSub 0 (aSub .postpaid).host 7 .writing)) ∧
    (∀ line ∈ [LineState.clean, .filling, .invalid], ∀ kind ∈ [RequestKind.readSub 0 .joined, .writeSub 0 (aSub .postpaid).host .waiting,
      .repairSub 0 (aSub .postpaid).host 7 .waiting], (requesting kind line [] []).cache.front 5 = some { sub := 5, kind } ∧
        5 ∉ (requesting kind line [] []).cache.holds ∧ (requesting kind line [] []).cache.waitsForSweep { sub := 5, kind } = false) ∧
    (holding .queued).store.names 262143 = true ∧ (holding .queued).store.names 5 = false := by decide +kernel

set_option maxRecDepth 100000 in
/-- A failed memory read is answered RECORD_FAULT before its notice is queued, so an idle transmitter sends the reply first (R42; log 59). -/
theorem test_failed_host_read_replies_first :
    let asked (k : OrderKind) (kind : RequestKind) (op : PortOp) : State :=
      { requesting kind .invalid [op] [] with link := { partState := .running, taken := [{ place := 0, kind := k, tag := 7 }] } };
    ([exec .hostReadDone (asked .readSub (.readSub 0 .reading) (.hostRead 5)),
      exec .writeSubReadDone (asked .writeSub (.writeSub 0 (aSub .postpaid).host .reading) (.hostWriteRead 5))].map (fun o =>
        shows o (fun t => (match t.link.sending with
          | .reply _ r => some (r.tag, r.code)
          | _ => none, t.link.notices.map Notice.body, t.cache.counts.hostReadFaults)))) =
      [some (some (7, .recordFault), [.recordFault 5 .hostRead], 1), some (some (7, .recordFault), [.recordFault 5 .hostWrite], 1)] := by
  decide +kernel

set_option maxRecDepth 100000 in
/-- A record written passes its check word; memory with nothing written fails it. -/
theorem witness_memory_reads : (Memory.readRecord storedMem 5).isSome ∧ Memory.readRecord [] 5 = none ∧
    (Memory.readRecord (Memory.writeRecord storedMem 4 (aSub .prepaid)) 5).isSome := by decide +kernel

/-- INIT_RECORDS of all records, and sweeps at their last index: ready, and with an earlier request of it or a hold on it. -/
def sweeping (sweep : Sweep) (queue : List Request) (holds : List Nat) (port : List PortOp) : State :=
  { State.reset with cache := { sweep := some sweep, queue, holds, port } }

/-- The last two records of a sweep at the port: the ordinary end of an INIT_RECORDS. -/
def sweptTwo : State :=
  sweeping (.records 0 262144 262143 2) [] []
    [.initWrite 262142 (Record.fresh HostFields.default 0 0) false, .initWrite 262143 (Record.fresh HostFields.default 0 0) true]

/-- A sweep that comes to subscriber 5, whose line is CLEAN and whose touch waits behind the sweep, as does one of subscriber 6. -/
def sweptLine : State :=
  { State.reset with cache := { sweep := some (.records 0 5 6 0), lines := [(10, { state := .clean })]
                                queue := [{ sub := 5, kind := .touch, behindSweep := true }, { sub := 6, kind := .touch, behindSweep := true }] } }

theorem witness_InitRecordsSweeps_port :
    sweptTwo.PortComesTo (.initWrite 262143 (Record.fresh HostFields.default 0 0) true) []
      (Memory.writeRecord [] 262142 (Record.fresh HostFields.default 0 0)) ∧
    (sweeping (.records 0 6 262143 1) [] [] [.initWrite 5 (aSub .prepaid) false]).cache.port =
      [(5, aSub .prepaid)].map (fun d => .initWrite d.1 d.2 false) :=
  ⟨comes_behind_a_default_write (by decide) rfl rfl, rfl⟩

/-- The step of a sweep over a line: it is the only one that carries its subscriber. -/
theorem witness_InitRecordsSweeps_requests :
    (∀ way, way < 2 → (sweptLine.cache.line 5 way).state ≠ .invalid → (sweptLine.cache.line 5 way).tag = 5 / 256 →
      sweptLine.cache.onChip 5 = some way) ∧ sweptLine.cache.sweep = some (.records 0 5 6 0) ∧ 5 ∉ sweptLine.cache.holds ∧
    ∀ q ∈ sweptLine.cache.queue ++ sweptLine.cache.heldRequests, q.sub = 5 → q.behindSweep = true := by decide

set_option maxRecDepth 100000 in
/-- The touch of the index just written is served through a fill, issued behind its default record; the other still waits (R45). -/
theorem test_sweep_lets_its_index_go :
    shows (exec .initRecordWrite sweptLine) (fun t => (t.cache.port.map PortOp.sub, t.cache.fills, t.cache.queue.map Request.behindSweep)) =
      some ([5, 5], [{ sub := 5, way := 0 }], [false, true]) := by decide +kernel

set_option maxRecDepth 100000 in
/-- The end of the sweep leaves the default record before the last in record memory too (R45, log 11). -/
theorem test_sweep_writes_every_record :
    shows (exec .initRecordsDone sweptTwo) (fun t => [262141, 262142, 262143].map (fun n => (Memory.readRecord t.mem n).isSome)) =
      some [false, true, true] := by decide +kernel

theorem witness_InitRecordsSweeps :
    (takes .reset .initRecords [0, 0, 0, 3, 255, 255] ∧ Operands.initRecords [0, 0, 0, 3, 255, 255] = some (0, 262143)) ∧
    takes (sweeping (.lines none 0 0 0) [] [] []) .initRecords [3, 255, 255, 3, 255, 255] ∧
    (∀ q ∈ [({ sub := 262143, kind := .touch, behindSweep := true } : Request), { sub := 5, kind := .touch }],
      q.sub = 262143 → q.behindSweep = true) ∧
    (262143 ∈ (sweeping (.records 0 262143 262143 0) [] [262143] []).cache.holds) ∧
    (sweeping (.records 0 262144 262143 1) [] [] [.initWrite 262143 (aSub .prepaid) true]).cache.sweep =
      some (.records 0 262144 262143 1) := by decide +kernel

theorem witness_FlushWritesDirtyLines :
    (takes running .flush [] ∧ running.cache.sweep = none) ∧ takes (sweeping (.lines none 0 0 0) [] [] []) .flush [] ∧
    (∃ s : State, s.cache.sweep = some (.lines (some 0) 511 0 0) ∧ (Table.get {} s.cache.lines 511).state = .dirty) ∧
    ((sweeping (.lines (some 0) 0 0 0) [] [] []).cache.sweep = some (.lines (some 0) 0 0 0) ∧
      (Table.get {} (sweeping (.lines (some 0) 0 0 0) [] [] []).cache.lines 0).state ≠ .dirty) ∧
    (sweeping (.lines (some 0) 512 0 0) [] [] []).cache.sweep = some (.lines (some 0) 512 0 0) ∧
    (sweeping (.lines (some 0) 512 1 1) [] [] [.writeBack 5 (aSub .prepaid) true]).cache.port =
      .writeBack 5 (aSub .prepaid) true :: [] :=
  ⟨by decide +kernel, by decide +kernel,
    ⟨{ running with cache := { sweep := some (.lines (some 0) 511 0 0), lines := [(511, { state := .dirty })] } }, by decide⟩,
    by decide, by decide, by decide⟩

/-- Completions at the head of the port: a fill of a good record and of a bad one, and a write-back whose line is CASTING, with and
without a later write-back of it. -/
def completing (port : List PortOp) (line : LineState) (mem : List Host.Cell) : State :=
  { running with mem, cache := { lines := [(10, { state := line })], fills := [{ sub := 5, way := 0 }], port } }

theorem completing_mem (port : List PortOp) (line : LineState) (mem : List Host.Cell) : (completing port line mem).mem = mem := rfl

/-- A fill of subscriber 5 in flight with no record in memory, an INIT_RECORDS sweep that comes to 5 at `next`, and behind it a TOP_UP. -/
def behindTheSweep (next : Nat) : State :=
  { completing [.fill 5 0] .filling [] with cache := { (completing [.fill 5 0] .filling []).cache with
      queue := [{ sub := 5, kind := .readSub 0 .joined }, { sub := 5, kind := .topUpRead, behindSweep := true }]
      sweep := some (.records 1 next 5 0) } }

/-- An order, and a settlement, that a failed fill answers. -/
def moneyWaits (order : ChargingOrder) : State := { running with charging := { order := some order } }

theorem witness_PortCompletionsCarriedOut_waiters :
    ((submitting .intakeRead .active).intake.order.isSome ∧ (grouping .active).intake.order = some (.group (groupOf [5, 6]))) ∧
    (settlingHead.charging.head = .record ∧ settlingHead.charging.settleList = [{ entry := 16383, outcomeCycle := 2 }] ∧
      (settlingHead.store.entry 16383).isSome) ∧
    ((moneyWaits (.topUp 63 5 1)).charging.order = some (.topUp 63 5 1) ∧
      (moneyWaits (.adjust 63 5 (-1))).charging.order = some (.adjust 63 5 (-1))) := by decide +kernel

theorem witness_PortCompletionsCarriedOut :
    (completing [.fill 5 0] .filling storedMem).cache.port = .fill 5 0 :: [] ∧
    ((behindTheSweep 5).cache.port = .fill 5 0 :: [] ∧ Memory.readRecord (behindTheSweep 5).mem 5 = none ∧
      (behindTheSweep 5).cache.queue.map Request.behindSweep = [false, true]) ∧
    (completing [.castout 5 (aSub .prepaid)] .clean []).cache.port = .castout 5 (aSub .prepaid) :: [] ∧
    (completing [.throughWrite 5 (aSub .prepaid)] .clean []).cache.port = .throughWrite 5 (aSub .prepaid) :: [] ∧
    ((completing [.writeBack 5 (aSub .prepaid) false] .casting []).cache.onChip 5 = some 0 ∧
      ((completing [.writeBack 5 (aSub .prepaid) false] .casting []).cache.line 5 0).state = .casting) ∧
    (completing [.writeBack 5 (aSub .prepaid) false, .writeBack 5 (aSub .prepaid) false] .casting []).cache.sweep = none := by
  decide +kernel

/-- Each operation of the port at its head and behind a default write. -/
theorem witness_PortCompletionsCarriedOut_port (op : PortOp) :
    (completing [op] .casting storedMem).PortComesTo op [] storedMem ∧
    (completing [.initWrite 4 (aSub .prepaid) false, op] .casting []).PortComesTo op [] (Memory.writeRecord [] 4 (aSub .prepaid)) :=
  ⟨comes_at_the_head rfl (completing_mem ..), comes_behind_a_default_write (by decide) rfl (completing_mem ..)⟩

/-- The fill fails: the READ_SUB before the sweep is answered, the TOP_UP behind it waits for its default record (R45). -/
theorem test_failed_fill_leaves_what_waits_for_the_sweep :
    (match exec .fillDone (behindTheSweep 5) with
      | .next s => s.cache.queue.map Request.kind
      | _ => []) = [.topUpRead] ∧
    (match exec .fillDone (behindTheSweep 6) with
      | .next s => s.cache.queue.map Request.kind
      | _ => []) = [] := by decide +kernel

/-! ### Witnesses: part states and the laws of the whole machine -/

theorem witness_PowerOnValues : 115200 ≤ 115200 ∧ 3000000 ≤ 3000000 ∧ 115200 ≤ 3000000 := by decide

def startable (sweep : Option Sweep) : State :=
  { State.reset with cache := { addressBase := some 0, sweep }, monitor := { zones := [(15, { state := .inService })] } }
def drainedState (sweep : Option Sweep) : State :=
  { restarting with cache := { sweep }, link := { partState := .restarting, restart := some { place := 63, settledBefore := 0 } } }

/-- A submission in progress and an entry on the hold list, as RESTART finds them. -/
def submittingHeld : State :=
  { holding .held with intake := { order := some (.submit 0 5 (clamp 0 .tone [])), holdList := [16383] } }

/-- RESTART settles what waits for an acknowledgement, and withdraws the offer with the entry it carried (R80, R89, R169; log 9). -/
theorem test_restart_cancels_and_withdraws :
    shows (exec .restart (hasOrder offeringFrame .restart [])) (fun s =>
      (s.zoneLinks.sent, s.assembler.offered.isNone, s.charging.settleList.map SettleElement.entry)) =
      some ([(15, .withdraw 9)], true, [16383]) := by decide +kernel

theorem witness_PartStatesChange :
    takes running .start [] ∧ takes .reset .start [] ∧
    (takes (startable (some (.records 0 0 0 0))) .start [] ∧ takes (startable none) .start [] ∧
      ((took (startable none) .start).monitor.zone 15).state = .inService) ∧
    takes .reset .restart [] ∧
    (takes { holding .queued with log := { records := List.replicate 1024 aRecord } } .restart [] ∧
      1024 - (List.replicate 1024 aRecord).length < (storeOf .queued).occupancy) ∧
    (takes (holding .awaiting) .restart [] ∧ (storeOf .awaiting).occupancy ≤ 1024) ∧
    (takes submittingHeld .restart [] ∧ (took submittingHeld .restart).intake.mayCreate = 1 ∧
      submittingHeld.store.occupancy + 1 ≤ 1024 - submittingHeld.log.records.length) ∧
    (restarting.link.partState = .restarting ∧ restarting.intake.mayCreate = 0) ∧
    (∃ p next last written, (startable (some (.records 0 0 0 0))).cache.sweep = some (.records p next last written)) ∧
    ((drainedState none).store.occupancy = 0 ∧ (drainedState none).cache.sweep = none) ∧
    ((drainedState (some (.lines none 512 0 0))).cache.sweep = some (.lines none 512 0 0) ∧
      (drainedState (some (.lines none 512 0 0))).link.restart = some { place := 63, settledBefore := 0 }) ∧
    (drainedState (some (.lines none 512 1 1))).cache.sweep = some (.lines none 512 1 1) := by
  refine ⟨by decide +kernel, by decide +kernel, by decide +kernel, by decide +kernel, by decide +kernel, by decide +kernel,
    by decide +kernel, by decide +kernel, ⟨0, 0, 0, 0, rfl⟩, by decide +kernel, by decide +kernel, by decide +kernel⟩

/-- RESTART_COMPLETE carries out the last write-back of the restart's sweep and reaches CONFIG (R46, R170; log 12). -/
theorem test_restart_ends_with_its_last_write_back :
    let base := drainedState (some (.lines none 512 1 1))
    let s : State := { base with cache := { base.cache with
      lines := [(10, { state := .casting, record := aSub .prepaid })], port := [.writeBack 5 (aSub .prepaid) true] } };
    shows (exec .restartComplete s) (fun t => (t.link.partState, t.cache.port.length, t.cache.sweep.isNone, (t.cache.line 5 0).state,
      decide (t.mem = storedMem))) = some (.config, 0, true, .clean, true) := by decide +kernel

/-- The end of a restart records what is due before it clears the fault state (R154, R156; log 13). -/
theorem test_restart_records_what_is_due :
    let s : State := { drainedState (some (.lines none 512 0 0)) with monitor := dueZone.monitor };
    shows (exec .restartComplete s) (fun t => (t.monitor.zone 15, t.monitor.first, t.link.nextNotice)) =
      some ({ state := .inService, occurrences := { (⟨0, 0, 0, 0, 0⟩ : PerCondition Word32) with untaken := 1, revSilent := 1 } }, none, 3) := by
  decide +kernel

/-- The hold list waits for the submission in progress to end, and is cancelled then (R169). -/
theorem test_restart_cancels_held_after_the_submission :
    (match exec .restart (hasOrder submittingHeld .restart []) with
      | .next s => (s.intake.holdList, s.charging.settleList.map SettleElement.entry)
      | _ => ([], [])) = ([16383], []) ∧
    ({ submittingHeld with link := { partState := .restarting }, intake := { holdList := [16383] } } : State).settleDown.intake.holdList =
      [] ∧
    ({ submittingHeld with link := { partState := .restarting }, intake := { holdList := [16383] } } : State
      ).settleDown.charging.settleList.map SettleElement.entry = [16383] := by decide +kernel

/-- A refused RESTART gives the log places available and the live entries, whatever refuses it (R169). -/
theorem test_restart_refusals :
    (match exec .restart (hasOrder (holding .queued) .restart []), exec .restart (hasOrder .reset .restart []) with
      | .next _, .next s => s.link.sending
      | _, _ => .idle) = .reply 0 { kind := OrderKind.restart.code, tag := 7, code := .wrongState, body := .noLogRoom 1024 0 } := by
  decide +kernel

theorem reset_queuesBounded : State.reset.queuesBounded :=
  ⟨by decide, by decide, by decide, by decide⟩

theorem reset_settingsLegal : State.reset.settingsLegal := by
  refine ⟨by decide, by decide, by decide, ?_, rfl, ?_, by decide⟩
  · rintro b ⟨⟩
  · intro r h
    change r ∈ [_, _, _, _] at h
    simp only [List.mem_cons, List.not_mem_nil, or_false] at h
    rcases h with rfl | rfl | rfl | rfl <;> exact ⟨by decide, by decide, by decide, by decide, by decide, by decide, by decide, by decide⟩

theorem reset_monitorLegal : State.reset.monitor.legal := by
  intro z h
  refine ⟨?_, fun _ => rfl, ?_⟩ <;> (change z < 16 at h; revert h; revert z; decide)

theorem reset_timerLegal : State.reset.timerLegal := by
  refine ⟨⟨by decide, by decide, by decide, by decide, by decide, by decide⟩, ?_, ⟨?_, ?_, ?_⟩, by decide, by decide, by decide,
    fun _ => ⟨rfl, rfl⟩⟩ <;> rintro _ ⟨⟩

theorem reset_logLegal : State.reset.logLegal := ⟨by decide, fun h => by cases h⟩

theorem reset_entriesLegal : State.reset.entriesLegal := by
  have slots : State.reset.store.freeEntries.slots = List.range 16384 := by
    simp [State.reset, FreeList.slots, Config.entrySlots, List.range_eq_range']
  refine ⟨?_, fun n => ?_, fun n _ => rfl, ?_, rfl⟩
  · rw [slots]; exact List.nodup_range
  · rw [slots, List.mem_range]; exact ⟨fun h => ⟨h, rfl⟩, fun h => h.1⟩
  · rw [slots, List.length_range]; rfl

def oneWaiting : State := { State.reset with pending := [.hostSync] }

theorem waiting_entriesLegal : oneWaiting.entriesLegal := by
  have h : oneWaiting.store = State.reset.store ∧ oneWaiting.log = State.reset.log := ⟨rfl, rfl⟩
  have r := reset_entriesLegal
  unfold State.entriesLegal at r ⊢
  rw [h.1, h.2]; exact r

/-- Two requests: of subscriber 5, both ways of whose set are held by pinned lines, and of subscriber 6, the LRU line of whose set is
DIRTY. Three fills are in flight. -/
def twoMisses (fills : Nat) : Cache :=
  { lines := [(10, { state := .clean, tag := 1 }), (11, { state := .casting, tag := 2 }), (12, { state := .dirty, tag := 1, deferral := 2 }),
      (13, { state := .clean, tag := 2 })]
    holds := [261]
    queue := [{ sub := 5, kind := .reachRead 0 0 0 }, { sub := 6, kind := .update (.reverseItem 3) }]
    fills := (List.range fills).map (fun k => { sub := 100 + k, way := 0 }) }

/-- The second request starts its miss, the first waits (R34 to R36); with four fills in flight neither does. -/
theorem test_miss_starts :
    ((twoMisses 3).tryMisses.port, (twoMisses 3).tryMisses.fills.map Fill.sub, ((twoMisses 3).tryMisses.line 6 0).state) =
      ([.castout 262 ({} : Line).record, .fill 6 0], [100, 101, 102, 6], .filling) ∧
    (twoMisses 4).tryMisses = twoMisses 4 := by decide +kernel

/-- A settle list whose head is an entry of an outcome, with a body in submission or not, a head state and a log. -/
def heading (outcome : EntryOutcome) (inSubmission : Bool) (head : HeadState) (records : Nat) (setAside : Bool) : State :=
  { running with
    store := { entries := [(16383, some { entryOf .settling with outcome := some outcome, replyCode := some 0 })]
               bodies := [(3, some { message := some 9, encoding := .tone, content := [], references := 1, inSubmission })] }
    charging := { settleList := [{ entry := 16383, outcomeCycle := 0 }], head }
    log := { records := List.replicate records aRecord, setAside } }

/-- Each stage at which the head can stand, and each way it goes on (R125, R131, R136). -/
theorem test_head_stages :
    [(heading .delivered true .idle 0 false).settleHeads 1, (heading .delivered false .idle 1024 false).settleHeads 1,
      (heading .delivered false .logRoom 1023 false).settleHeads 1, (heading .delivered false .logRoom 1023 true).settleHeads 1,
      (heading .faulted false .idle 1023 false).settleHeads 1].map (fun s => (s.charging.head, s.cache.queue.length, s.log.records.length)) =
    [(.bodyInSubmission, 0, 0), (.logRoom, 0, 1024), (.logRoom, 0, 1023), (.record, 1, 1023), (.idle, 0, 1024)] := by decide +kernel

/-- A full posted-request queue. -/
def fullQueue : State :=
  { running with cache := { queue := { sub := 5, kind := .touch } :: (List.range 127).map (fun k => { sub := 6, kind := .reachRead k 0 0 }) } }

theorem witness_SettlingDownFrame :
    ((requesting (.reachRead 1 1 1) .clean [] []).cache.onChip 5 = some 0 ∧ (requesting .touch .filling [] []).cache.onChip 5 = none) ∧
    (5 ∈ (sweeping (.records 0 5 5 0) [{ sub := 5, kind := .touch, behindSweep := true }] [5] []).cache.holds) ∧
    ((requesting .touch .filling [] []).serveFront 5 = none ∧
      ((requesting (.update (.reverseItem 3)) .clean [] []).serveFront 5).isSome) ∧
    ((twoMisses 4).fills.length = 4 ∧ (twoMisses 3).victim 5 = none ∧ (twoMisses 3).victim 6 = some 0 ∧ ({} : Cache).victim 6 = some 0 ∧
      ({ twoMisses 3 with lru := [(6, 1)] } : Cache).victim 6 = some 1) ∧
    ((twoMisses 3).wantsMiss { sub := 6, kind := .update (.reverseItem 3) } = true ∧ (twoMisses 3).startMiss 6 ≠ twoMisses 3 ∧
      (twoMisses 3).startMiss 5 = twoMisses 3) ∧
    (fullQueue.cache.occupancy = 128 ∧ ({} : Cache).occupancy < 128) ∧
    (∃ b, (heading .delivered true .idle 0 false).store.body 3 = some b ∧ b.inSubmission = true ∧ b.references ≤ 1) := by
  refine ⟨by decide +kernel, by decide +kernel, by decide +kernel, by decide +kernel, by decide +kernel, by decide +kernel,
    _, rfl, by decide +kernel, by decide +kernel⟩

/-- The three laws of every step: a state that meets every law, with a command waiting, from which the step answers next. -/
theorem witness_StepKeeps :
    oneWaiting.memoryLegal ∧ oneWaiting.queuesBounded ∧ oneWaiting.settingsLegal ∧ oneWaiting.monitor.legal ∧ oneWaiting.timerLegal ∧
      oneWaiting.entriesLegal ∧ oneWaiting.logLegal ∧ ∃ t, step oneWaiting = .next t ∧ t.link.receiver = .gathering :=
  ⟨rfl, reset_queuesBounded, reset_settingsLegal, reset_monitorLegal, reset_timerLegal, waiting_entriesLegal,
    reset_logLegal, _, rfl, rfl⟩

/-- Each of the four events that change the part state does so from some state. -/
theorem witness_StepKeepsAirTimeAndPartState :
    (∃ t, exec .start (hasOrder (startable none) .start []) = .next t ∧ t.link.partState = .running) ∧
    (∃ t, exec .restart (hasOrder running .restart []) = .next t ∧ t.link.partState = .restarting) ∧
    (∃ t, exec .restartComplete (drainedState (some (.lines none 512 0 0))) = .next t ∧ t.link.partState = .config) ∧
    (∃ t, exec (.powerOn 115200 115200) running = .next t ∧ t.link.partState = .config) :=
  ⟨⟨_, rfl, by decide +kernel⟩, ⟨_, rfl, by decide +kernel⟩, ⟨_, rfl, by decide +kernel⟩, ⟨_, rfl, by decide +kernel⟩⟩

/-! ### The manual's worked examples -/

/-- Plan 5 of the pricing example (7.2), and its entry: 37 characters of TEXT at level 1, third attempt, max attempts 5. -/
def planFive : Plan :=
  { base := 1200, block := 150, retry := 300, priority := [16, 23, 16, 16], group := 12, expiry := 4, cap := 50000, allowance := 100 }
def pricedEntry : Entry :=
  { sub := 1000, body := 3, group := none, originalLevel := 1, level := 1, admission := 1, admissionCycle := 0, expiryCycle := 256,
    maxAttempts := 5, repeats := 2, attempts := 3, reservation := 5081, blocks := 10, downgraded := false, state := .settling,
    outcome := some .delivered, replyCode := some 3 }

theorem test_pricing_example :
    planFive.charge .delivered pricedEntry 100 = 4481 ∧ planFive.estimate 10 1 5 false = 5081 ∧
    planFive.charge .delivered { pricedEntry with group := some 12 } 100 = 3361 ∧ planFive.estimate 10 1 5 true = 3811 ∧
    planFive.charge .delivered pricedEntry 99 = 600 ∧ planFive.charge .delivered { pricedEntry with group := some 12 } 99 = 450 := by
  decide +kernel

/-- Worked example of 1.2: subscriber 1,000 submits 37 bytes of TEXT, two of them tabs, at level 1. -/
def prepaidSub (balance reserved live : Nat) : Record :=
  { aSub .prepaid with host := { (aSub .prepaid).host with plan := 5 }, balance, reserved, live, messages := 100, allowanceUsed := 100 }
def cachedThousand (kind : RequestKind) (r : Record) : State :=
  { running with
    cache := { addressBase := some 40000, lines := [(464, { state := .clean, tag := 3, record := r })], queue := [{ sub := 1000, kind }] }
    charging := { active := [(5, planFive)] } }
def prepaidSubmit (reserved live : Nat) : State :=
  { cachedThousand .intakeRead (prepaidSub 6000 reserved live) with
    store := { nextMessage := 90211, freeEntries := { next := 117, size := 16384, returned := [] } }
    intake := { order := some (.submit 4 1000 (clamp 1 .text ([9, 9] ++ List.replicate 35 0x41))) }
    link := { partState := .running, taken := [{ place := 4, kind := .submit, tag := 41 }] } }

theorem test_submit_example :
    shows (exec .intakeReadServed (prepaidSubmit 0 0)) (fun s => s.link.sending) =
      some (.reply 4 { kind := 1, tag := 41, code := .ok, body := .submitted 90211 117 .queued 10 5081 2 false false }) ∧
    shows (exec .intakeReadServed (prepaidSubmit 0 0)) (fun s =>
      (s.assembler.queue 8, (s.cache.line 1000 0).record.reserved, (s.cache.line 1000 0).record.live, s.cache.holds)) =
      some ([117], 5081, 1, []) := by decide +kernel

theorem test_submit_no_funds_example :
    shows (exec .intakeReadServed (prepaidSubmit 5081 1)) (fun s => (s.link.sending, s.store.nextMessage)) =
      some (.reply 4 { kind := 1, tag := 41, code := .noFunds, body := .none }, 90211) := by decide +kernel

/-- Worked example of 2.4: way 0 of set 232 holds 232, DIRTY 2, way 1 holds 488, CLEAN; a settlement read for 1,000, then an update of
232, take both ways; the castout stands before both fills. -/
def setOf232 : State :=
  { running with cache := { lines := [(464, { state := .dirty, tag := 0, deferral := 2 }), (465, { state := .clean, tag := 1 })] } }

theorem test_castout_example :
    ((setOf232.post 1000 .settlementRead).settleDown.post 232 (.update (.reverseItem 1))).settleDown.cache.port.map
      (fun o => match o with
        | .castout n _ => (0, n)
        | .fill n way => (1 + way, n)
        | _ => (9, 0)) = [(0, 232), (1, 1000), (2, 232)] := by decide +kernel

/-- Worked example of 2.5: a DIRTY 1 line of the BOUNDED 4 policy through three updates, then one with the write in flight. -/
theorem test_deferral_example :
    (List.range 5).map (fun k =>
      let c := (List.range k).foldl (fun c _ => Cache.change c 1000 0 id)
        { lines := [(464, { state := .dirty, tag := 3, deferral := 1 })] }
      ((c.line 1000 0).state, (c.line 1000 0).deferral, c.port.length)) =
    [(.dirty, 1, 0), (.dirty, 2, 0), (.dirty, 3, 0), (.casting, 0, 1), (.dirty, 1, 1)] := by decide +kernel

/-- Worked example of 3.5: length 16 staged in cycle 100 of length 32, at the cycle turn and at the wrap. -/
def shortening : Timer :=
  { state := .running, frameCount := 3229, frameNumber := 29, cycle := 100, staged := { length := some 16 } }

theorem test_cycle_shortening_example :
    let turn := shortening.nextFrame
    let wrap := turn.nextFrame.nextFrame
    let next := (List.range 14).foldl (fun (t : Timer) _ => t.nextFrame) wrap
    (turn.frameNumber, turn.running.length, turn.lengthInForce, turn.coming.map Timing.length, turn.staged.length) =
      (30, 32, 16, some 16, none) ∧
    (wrap.frameCount, wrap.frameNumber, wrap.cycle, wrap.running.length, wrap.coming) = (3232, 0, 101, 16, none) ∧
    (next.frameCount, next.frameNumber, next.coming.map Timing.length) = (3246, 14, some 16) := by decide +kernel

/-- Worked example of 3.6: a strobe 4,000 ms after the last frame start, the timer in HOLD since 1,800 ms. -/
def heldTimer : State :=
  { running with timer :=
    { state := .hold, frameCount := 500, frameNumber := 10
      running := { length := 32, ackDelay := 2, source := { kind := .external, nominal := 1200 } } } }

theorem test_lost_strobe_example :
    shows (exec (.strobe 8000) heldTimer) (fun s => (s.timer.state, s.timer.frameCount, s.link.sending,
      s.assembler.openFrame.map Frame.launch)) =
      some (.running, 501, .notice { number := 1, body := .airResume 501 11 0 2200 }, some 503) := by decide +kernel

/-- Worked example of 4.3: queue 8 before the frame of launch count 2,408 opens. -/
def packedEntry (sub level attempts blocks deferral body : Nat) (admission : Word32) : Entry :=
  { sub, body, group := none, originalLevel := level, level, admission, admissionCycle := 74, expiryCycle := 1098, maxAttempts := 4,
    repeats := 2, attempts, deferral, reservation := 0, blocks, downgraded := false, state := .queued }
def packedLine (tag : Nat) (last : Option Nat) (home : Nat) (air : BitVec 4) : Line :=
  { state := .clean, tag, record :=
    { aSub .postpaid with host := { (aSub .postpaid).host with homeZone := home }, lastZone := last, airTag := air } }
def packing : State :=
  { running with
    timer := { state := .running, frameCount := 2405, frameNumber := 5, cycle := 75 }
    store := { entries := [(1, some (packedEntry 1000 1 0 50 0 1 500)), (2, some (packedEntry 1032 2 2 10 0 1 420)),
      (3, some (packedEntry 1064 2 1 5 0 1 430)), (4, some (packedEntry 1096 2 0 30 0 1 460)), (5, some (packedEntry 1128 3 0 20 0 1 300)),
      (6, some (packedEntry 1160 3 0 2 1 1 310)), (7, some (packedEntry 1192 0 0 5 0 1 600))] }
    assembler := { queues := [(8, [1, 2, 3, 4, 5, 6])] }
    cache := { addressBase := some 40000, lines := [(16, packedLine 4 none 1 3), (80, packedLine 4 (some 0) 9 0),
      (208, packedLine 4 none 2 0), (272, packedLine 4 none 1 0), (336, packedLine 4 none 2 9), (464, packedLine 3 (some 1) 9 15)] }
    monitor := { zones := [(0, { state := .inService, neighbours := 0b1010 }), (1, { state := .inService }), (2, { state := .inService })] } }
def packed : State :=
  match exec .frameStart packing with
  | .next s => s
  | _ => packing
def blocksOf (s : State) : Option (Word32 × Nat × Nat × Nat) :=
  s.assembler.openFrame.map (fun f => (f.launch, f.block 0, f.block 1, f.block 2))

theorem test_packing_example :
    blocksOf packed = some (2408, 11, 62, 32) ∧ packed.assembler.queue 8 = [6, 3, 4] ∧
    packed.assembler.missSkip.map MissSkip.entry = [4] ∧
    packed.assembler.openFrame.map (fun f => f.placed.map (fun p => (p.entry, p.tag))) = some [(1, 0), (2, 4), (5, 1)] ∧
    (packed.store.entry 3).map Entry.deferral = some 1 ∧ (packed.store.entry 6).map (fun e => (e.level, e.deferral)) = some (2, 0) := by
  decide +kernel

/-- The fill of 1,096 completes; then the emergency E7 displaces E5 and E2. -/
theorem test_displacement_example :
    let filled := packed.readyReport 1096 (packedLine 4 none 2 7).record
    let urgent := filled.file 7
    blocksOf filled = some (2408, 11, 62, 63) ∧ blocksOf urgent = some (2408, 6, 57, 37) ∧ urgent.assembler.queue 8 = [6, 2, 3, 5] ∧
    urgent.assembler.openFrame.map (fun f => f.placed.map (fun p => (p.entry, p.tag))) = some [(1, 0), (4, 8), (7, 10)] := by
  decide +kernel

/-- Worked example of 5.7: zone 2's report of window 2,410, the queue holding two items. -/
def windowed : State :=
  { running with
    cache := { addressBase := some 40000 }, monitor := { zones := [(2, { state := .inService, silence := 1 })] }
    zoneLinks := { reverseQueue := [anItem, anItem] } }

theorem test_window_example :
    shows (exec (.window 2 ([2, 3, 0, 0, 9, 106, 0, 0] ++ [1, 0, 160, 232, 10, 0] ++ [1, 0, 156, 54, 2, 0] ++ [2, 0, 162, 28, 0, 0]))
      windowed) (fun s => (s.zoneLinks.reverseQueue.map (fun i => (i.kind, i.sub, i.zone)), (s.zoneLinks.zone 2).counts.foreign,
        (s.zoneLinks.zone 2).lastWindow, (s.monitor.zone 2).silence)) =
      some ([(.ack, 5, 15), (.ack, 5, 15), (.ack, 1192, 2), (.register, 1500, 2)], 1, some 2410, 0) := by decide +kernel

/-- Worked example of 6.12: E4 misses at frame start 2,412, its launch in cycle 75; then its answers at the first and the third miss. -/
def retried (attempts : Nat) (entry : EntryState) : Entry :=
  { packedEntry 1096 2 attempts 30 0 1 460 with state := entry, airTag := some 8, admissionCycle := 74, expiryCycle := 1098 }
def missing : State :=
  { running with
    store := { entries := [(4, some (retried 1 .awaiting))] }
    retry := { awaitSet := [{ entry := 4, sub := 1096, tag := 8, launch := 2408, deadline := 2412 }],
               announced := [{ event := .frameStart 2412 75, behind := none }], horizon := 75 } }

theorem test_miss_example :
    shows (exec .deadlineMiss missing) (fun s => (s.retry.awaitSet.length, s.retry.list.map (fun x => (x.entry, x.retryAt, x.reachPending)),
      (s.store.entry 4).map Entry.state)) = some (0, [(4, 77, true)], some .retryWait) := by decide +kernel

def answering (retryAt horizon : Word32) (attempts : Nat) : State :=
  { running with
    store := { entries := [(4, some (retried attempts .retryWait))] }
    retry := { list := [{ entry := 4, sub := 1096, tag := some 8, retryAt, missFrame := some 2572, reachPending := true }],
               answers := [{ entry := 4, admission := 460, attempts, unreachable := true, nextProbe := 96 }], horizon } }

theorem test_reach_example :
    shows (exec .reachReadAnswer (answering 85 80 3)) (fun s => s.retry.list.map (fun x => (x.entry, x.retryAt, x.reachPending))) =
      some [(4, 96, false)] := by decide +kernel

/-- Worked examples of 7.3: entry 117 settles, DELIVERED on its third attempt; then as the changed plan and a second reservation have it. -/
def settlingPage (plan : Plan) (balance reserved live : Nat) : State :=
  { cachedThousand .settlementRead (prepaidSub balance reserved live) with
    store := { entries := [(117, some pricedEntry)], bodies := (storeOf .settling).bodies, occupancy := 1 }
    charging := { active := [(5, plan)], settleList := [{ entry := 117, outcomeCycle := 75 }], head := .record }
    log := { setAside := true } }
def moneyAfter (s : State) : List Nat × Bool × List (Nat × Nat × Nat) :=
  let r := (s.cache.line 1000 0).record
  ([r.balance, r.reserved, r.charges, r.messages, r.live], r.exhausted,
    s.log.records.map (fun b => (b.charge, b.deducted, b.shortfall)))

theorem test_settlement_example :
    shows (exec .settlement (settlingPage planFive 6000 5081 1)) moneyAfter =
      some ([1519, 0, 4481, 101, 0], false, [(4481, 4481, 0)]) := by decide +kernel

theorem test_settlement_shortfall_example :
    shows (exec .settlement (settlingPage { planFive with base := 2000 } 6081 6081 2)) moneyAfter =
      some ([1000, 1000, 5631, 101, 1], true, [(5631, 5081, 550)]) := by decide +kernel

/-- Worked example of 7.4: exhaustion and recovery. -/
def moneyOrder (balance reserved : Nat) (exhausted : Bool) (kind : RequestKind) (order : ChargingOrder) : State :=
  { cachedThousand kind { prepaidSub balance reserved 1 with exhausted } with charging := { order := some order } }
def balanceAfter (s : State) : Nat × Bool := ((s.cache.line 1000 0).record.balance, (s.cache.line 1000 0).record.exhausted)

theorem test_adjust_example :
    shows (exec .adjustReadServed (moneyOrder 1000 1000 true .adjustRead (.adjust 0 1000 (-500)))) balanceAfter = some (1000, true) ∧
    shows (exec .adjustReadServed (moneyOrder 500 0 false .adjustRead (.adjust 0 1000 (-2000)))) balanceAfter = some (0, false) := by
  decide +kernel

theorem test_topUp_example :
    shows (exec .topUpReadServed (moneyOrder 1000 1000 true .topUpRead (.topUp 0 1000 400))) balanceAfter = some (1400, false) := by
  decide +kernel

/-- Worked example of 8.10: after a lost reply the host repeats r = 16 and is refused; r = 0 returns the six records again. -/
def sixLeft : State :=
  { running with log := { records := (List.range 6).map (fun n => { aRecord with sequence := 5017 + BitVec.ofNat 32 n }), lastReturned := 6 } }

theorem test_collect_example :
    shows (exec .collect (hasOrder sixLeft .collect [16, 16])) (fun s => (s.log.records.length, s.log.lastReturned, s.log.counts.refused)) =
      some (6, 6, 1) ∧
    shows (exec .collect (hasOrder sixLeft .collect [6, 16])) (fun s => (s.log.records.length, s.log.lastReturned, s.log.counts.released)) =
      some (0, 0, 6) := by decide +kernel

/-- Worked example of 9.4: the third untaken offer of zone 5 in a row, at frame count 3,003. -/
def dark : State :=
  { running with
    timer := { state := .running, frameCount := 3003 }, monitor := { zones := [(5, { state := .inService, untakenRun := 2, silence := 2 })] }
    zoneLinks := { zones := [(5, { offer := .sent, launch := some 3003 })] } }

theorem test_zone_dark_example :
    shows (exec (.untaken 5) (dark.judgeOffer 3003 5)) (fun s => ((s.monitor.zone 5).state, (s.monitor.zone 5).untakenRun,
      (s.monitor.zone 5).faults, s.monitor.first)) =
      some (.outOfService, 0, Condition.untaken.bit, some { zone := 5, condition := .untaken, frameCount := 3003 }) := by decide +kernel

/-- Worked example of 11.3: E1 HELD, E2 QUEUED, E3 AWAITING and E4 in the settle list, the log with room for the four. -/
def smallRestart : State :=
  { running with
    store := { occupancy := 4, entries := [(1, some (entryOf .held)), (2, some (entryOf .queued)), (3, some (entryOf .awaiting)),
      (4, some { entryOf .settling with outcome := some .delivered })] }
    intake := { holdList := [1] }, assembler := { queues := [(8, [2])] }
    retry := { awaitSet := [anAwait 3 2] }
    charging := { settleList := [{ entry := 4, outcomeCycle := 0 }], head := .record }
    log := { records := List.replicate 1020 aRecord, setAside := true } }

theorem test_restart_example :
    shows (exec .restart (hasOrder smallRestart .restart [])) (fun s => (s.link.partState, s.charging.settleList.map SettleElement.entry)) =
      some (.restarting, [4, 3, 1, 2]) := by decide +kernel

/-- The published check value of the CRC-16 that R27 describes: of the nine characters "123456789". -/
theorem test_crc_check_value : Bytes.crc16 [0x31, 0x32, 0x33, 0x34, 0x35, 0x36, 0x37, 0x38, 0x39] = 0x29B1 := by decide +kernel

/-- Worked example of 1.3: member 303, NUMERIC, is the last of the five; the reply gives the counts. -/
def callOutPager : Record := { aSub .postpaid with host := { (aSub .postpaid).host with capability := .numeric } }
def callOutBody : Body :=
  { message := some 9, encoding := .text, content := List.replicate 18 0x41, references := 3, inSubmission := true }
def callOutOrder : GroupOrder :=
  { place := 0, group := 12, body := 3, message := clamp 0 .text (List.replicate 18 0x41), members := [303],
    counts := { queued := 3, downgraded := 1, subRefused := 1 } }
def callOut : State :=
  { running with
    cache := { queue := [{ sub := 303, kind := .memberRead }], lines := [(94, { state := .clean, tag := 1, record := callOutPager })] }
    link := { partState := .running, taken := [{ place := 0, kind := .submitGroup, tag := 40 }] }
    store := { setAside := 1, bodies := [(3, some callOutBody)] }
    intake := { order := some (.group callOutOrder) } }

def callOutCounts : MemberCounts := { queued := 3, downgraded := 1, subRefused := 1, capability := 1 }

theorem test_callOut_example :
    shows (exec .groupMemberReadServed callOut) (fun s => (s.link.sending, s.store.setAside, (s.store.body 3).map Body.inSubmission)) =
      some (.reply 0 { kind := 2, tag := 40, code := .ok, body := .groupEnded 9 callOutCounts 5 0 false }, 0, some false) := by
  decide +kernel

/-- Bodies written out from 12.2 and 12.6, every field with a value of its own, and what they say. -/
theorem test_operands_stand_where_chapter_12_puts_them :
    Operands.submit [0, 1, 2, 3, 1, 99, 0, 2, 65, 66] = some (258, 3, .numeric) ∧
    Operands.content [0, 1, 2, 3, 1, 99, 0, 2, 65, 66] = [65, 66] ∧
    (Operands.submitGroupNumber [1, 2, 3, 2, 9, 9, 0, 0] = some 258 ∧ Operands.submitGroupKind [1, 2, 3, 2, 9, 9, 0, 0] = some (3, .text)) ∧
    (Operands.cancel [0, 9, 9, 9, 0, 0, 1, 2] = some (.entry 258) ∧ Operands.cancel [1, 9, 9, 9, 0, 0, 1, 2] = some (.message 258) ∧
      Operands.cancel [2, 0, 0, 0, 0, 0, 0, 0] = none) ∧
    Operands.setTiming [7, 9, 3, 1, 1, 2] =
      some { length := some 9, ackDelay := some 3, source := some { kind := .external, nominal := 258 } } ∧
    Operands.planSet [63, 9, 1, 2, 3, 4, 5, 6, 16, 17, 18, 19, 7, 8, 1, 2, 3, 9, 2, 1] = some (63,
      { base := 258, block := 772, retry := 1286, priority := [16, 17, 18, 19], group := 7, expiry := 8, cap := 66051, allowance := 513 }) ∧
    Operands.groupSet [1, 2, 0, 9, 0, 5, 2, 9, 0, 0, 7, 0, 1, 0] =
      some { group := 258, total := 9, position := 5, members := [7, 256] } ∧
    Operands.setZone [3, 2, 1, 2] = some (3, false, 258) ∧
    (Operands.topUp [0, 1, 2, 0, 0, 3, 4] = some (258, 772) ∧ Operands.adjust [0, 1, 2, 255, 255, 255, 254] = some (258, -2)) ∧
    Operands.repairSub [0, 1, 2, 1, 1, 33, 2, 0, 5, 9, 0, 0, 3, 4] = some (258,
      { status := .suspended, account := .prepaid, plan := 33, capability := .text, mode := .twoWay, homeZone := 5 }, 772) ∧
    (Operands.taken 5 [5, 9, 9, 9, 0, 0, 1, 2] = some 258 ∧ Operands.reject 5 [5, 1, 9, 9, 0, 0, 1, 2] = some 258) ∧
    Operands.window 5 [5, 1, 0, 0, 1, 2, 9, 9, 1, 0, 3, 4, 11, 12] =
      some (258, [{ kind := .ack, address := 772, tag := 11, code := 12 }]) := by decide +kernel

/-- The last value of every field in range, and each field just out of it. -/
theorem witness_operand_bounds :
    (Operands.writeSub [3, 255, 255, 2, 1, 63, 2, 1, 15, 0]).isSome ∧
    ([[4, 0, 0, 0, 0, 0, 0, 0, 0, 0], [0, 0, 0, 3, 0, 0, 0, 0, 0, 0], [0, 0, 0, 0, 2, 0, 0, 0, 0, 0], [0, 0, 0, 0, 0, 64, 0, 0, 0, 0],
      [0, 0, 0, 0, 0, 0, 3, 0, 0, 0], [0, 0, 0, 0, 0, 0, 0, 2, 0, 0], [0, 0, 0, 0, 0, 0, 0, 0, 16, 0]].all
        (fun b => Operands.writeSub b = none ∧ Operands.repairSub (b ++ [0, 0, 0, 0]) = none)) ∧
    Operands.submit [3, 255, 255, 3, 2, 0, 0, 0] = some (262143, 3, .text) ∧
    ([[4, 0, 0, 0, 0, 0, 0, 0], [0, 0, 0, 4, 0, 0, 0, 0], [0, 0, 0, 0, 3, 0, 0, 0]].all (fun b => Operands.submit b = none)) ∧
    (Operands.submitGroupNumber [3, 255, 4, 0, 0, 0, 0, 0] = some 1023 ∧ Operands.submitGroupNumber [4, 0] = none ∧
      Operands.submitGroupKind [0, 0, 4, 0] = none ∧ Operands.submitGroupKind [0, 0, 3, 3] = none) ∧
    Operands.window 5 ([5, 32, 0, 0, 0, 0, 0, 0] ++ (List.replicate 32 [2, 0, 0, 0, 255, 255]).flatten) ≠ none := by decide +kernel

/-- A CONGESTION notice's frame: SYNC, LENGTH, KIND 0xC7, TAG 0, and the body, which begins with the notice number (R163, 12.1). -/
theorem test_notice_frame_tag :
    (aNotice.frame [2]).take 10 = [0xA5, 0, 5, 0xC7, 0, 0, 0, 0, 1, 2] ∧ (aNotice.frame [2]).length = 12 := by
  decide +kernel

/-- A frame start told of behind an item that had arrived: the item is taken first, and its ACK beats the deadline (R104). -/
def itemBeforeMiss : State :=
  { announcing [{ event := .frameStart 4 0, behind := some 1 }] [] with zoneLinks := { reverseQueue := [{ anItem with sub := 262143 }] } }

theorem test_items_keep_their_place_before_a_frame_start :
    shows (exec .deadlineMiss itemBeforeMiss) (fun s => (s.retry.awaitSet.length, s.retry.announced.map Announced.behind)) =
      some (1, [some 1]) ∧
    shows (exec .ack itemBeforeMiss) (fun s => (s.retry.awaitSet.length, s.retry.announced.map Announced.behind,
      (s.store.entry 16383).map Entry.outcome)) = some (0, [some 0], some (some .delivered)) := by decide +kernel

/-- A non-waiting read that finds the queue full counts a dropped touch, though a touch of its subscriber is queued (R30). -/
theorem test_dropped_touch_counted :
    (fullQueue.nonWaitingRead 5).2.cache.counts.droppedTouches = 1 ∧ fullQueue.cache.isFull = true := by decide +kernel

end Sys2Proof.Tests
end

section
/-! SUPPORT. The laws of the machine as one relation between states, and the shared operations that keep them (statements of the step invariants). -/

namespace Sys2Proof.Machine

/-! ### The laws of the machine, and changes that keep them -/

/-- A change that keeps every law the step invariants name: memory's form, the places of the queues, the ranges of the settings, the laws of
the zones, of the entries (R3) and of the log (R135). -/
structure Keeps (s t : State) : Prop where
  memory : s.memoryLegal → t.memoryLegal
  queues : s.queuesBounded → t.queuesBounded
  settings : s.settingsLegal → t.settingsLegal
  zones : s.monitor.legal → t.monitor.legal
  entries : s.entriesLegal → t.entriesLegal
  log : s.logLegal → t.logLegal

/-- A law is kept by a change that leaves everything it speaks of. -/
theorem Keeps.refl (s : State) : Keeps s s := ⟨id, id, id, id, id, id⟩

theorem Keeps.trans {s t u : State} (h : Keeps s t) (k : Keeps t u) : Keeps s u :=
  ⟨k.memory ∘ h.memory, k.queues ∘ h.queues, k.settings ∘ h.settings, k.zones ∘ h.zones, k.entries ∘ h.entries, k.log ∘ h.log⟩

/-- A fold of changes that keep the laws keeps them. -/
theorem Keeps.foldl {α : Type} {f : State → α → State} (h : ∀ s a, Keeps s (f s a)) (l : List α) (s : State) :
    Keeps s (l.foldl f s) := by
  induction l generalizing s with
  | nil => exact Keeps.refl s
  | cons a l ih => exact (h s a).trans (ih _)

/-- A change that keeps `Progress` keeps every law. -/
theorem Progress.keeps {s t : State} (h : Progress s t) : Keeps s t where
  memory k := by unfold State.memoryLegal; rw [h.settled.mem]; exact k
  queues := by
    rintro ⟨orders, places, notices, reverse⟩
    refine ⟨?_, h.link.places places, h.link.notices notices, by rw [h.settled.zoneLinks]; exact reverse⟩
    have e := congrArg List.length h.settled.orders
    rw [List.length_map, List.length_map] at e
    omega
  settings k := by
    unfold State.settingsLegal
    rw [h.settled.hostLevel, h.settled.limit, h.settled.addressBase, h.settled.retryPolicy, h.settled.missLimit,
      h.settled.probeInterval, h.settled.monitor]
    exact k
  zones k := by rw [h.settled.monitor]; exact k
  entries := h.entries
  log := h.log

theorem Quiet.keeps {s t : State} (h : Quiet s t) : Keeps s t := h.progress.keeps

/-! ### Replacing one unit -/

namespace Keeps

variable (s : State)

theorem withPending (v : List Instr) : Keeps s (s.withPending v) := ⟨id, id, id, id, id, id⟩

theorem withTimer (v : Timer) : Keeps s (s.withTimer v) := ⟨id, id, id, id, id, id⟩

theorem withAssembler (v : Assembler) : Keeps s (s.withAssembler v) := ⟨id, id, id, id, id, id⟩

variable {s}

theorem withMem {v : List Host.Cell} (h : Memory.wf s.mem = true → Memory.wf v = true) : Keeps s (s.withMem v) :=
  ⟨h, id, id, id, id, id⟩

theorem withLink {v : Link} (orders : s.link.orders.length ≤ Config.orderPlaces → v.orders.length ≤ Config.orderPlaces)
    (places : s.link.placesInUse.length ≤ Config.replyPlaces → v.placesInUse.length ≤ Config.replyPlaces)
    (notices : s.link.noticeCount ≤ Config.noticePlaces → v.noticeCount ≤ Config.noticePlaces) : Keeps s (s.withLink v) :=
  ⟨id, fun k => ⟨orders k.1, places k.2.1, notices k.2.2.1, k.2.2.2⟩, id, id, id, id⟩

theorem withIntake {v : Intake} (h : s.intake.hostLevel ≤ 3 → v.hostLevel ≤ 3) : Keeps s (s.withIntake v) :=
  ⟨id, id, fun k => ⟨h k.1, k.2⟩, id, id, id⟩

/-- The law of the entries does not speak of groups and of what members take. -/
theorem withStore {v : Store} (free : v.freeEntries = s.store.freeEntries) (entries : v.entries = s.store.entries)
    (occupancy : v.occupancy = s.store.occupancy) (next : v.nextAdmission = s.store.nextAdmission) : Keeps s (s.withStore v) where
  memory := id
  queues := id
  settings := id
  zones := id
  entries k := by
    unfold State.entriesLegal Store.entry
    rw [State.withStore_store, free, entries, occupancy, next]
    exact k
  log := id

theorem withCache {v : Cache} (limit : 1 ≤ s.cache.limit ∧ s.cache.limit ≤ 15 → 1 ≤ v.limit ∧ v.limit ≤ 15)
    (base : (∀ b, s.cache.addressBase = some b → b ≤ Config.maxAddressBase) →
      ∀ b, v.addressBase = some b → b ≤ Config.maxAddressBase) : Keeps s (s.withCache v) where
  memory := id
  queues := id
  settings := by
    rintro ⟨host, low, high, b, rest⟩
    exact ⟨host, (limit ⟨low, high⟩).1, (limit ⟨low, high⟩).2, base b, rest⟩
  zones := id
  entries := id
  log := id

theorem withZoneLinks {v : ZoneLinks}
    (h : s.zoneLinks.reverseQueue.length ≤ Config.reversePlaces → v.reverseQueue.length ≤ Config.reversePlaces) :
    Keeps s (s.withZoneLinks v) :=
  ⟨id, fun k => ⟨k.1, k.2.1, k.2.2.1, h k.2.2.2⟩, id, id, id, id⟩

/-- The Zone Monitor changes but for its settings. -/
theorem withMonitor {v : Monitor} (settings : v.settings = s.monitor.settings) (legal : s.monitor.legal → v.legal) :
    Keeps s (s.withMonitor v) where
  memory := id
  queues := id
  settings k := by unfold State.settingsLegal; rw [State.withMonitor_monitor, settings]; exact k
  zones := legal
  entries := id
  log := id

theorem withRetry {v : Retry} (policy : v.policy = s.retry.policy) (limit : v.missLimit = s.retry.missLimit)
    (interval : v.probeInterval = s.retry.probeInterval) : Keeps s (s.withRetry v) :=
  (Quiet.withRetry policy limit interval).keeps

theorem withCharging {v : Charging} (head : v.head = s.charging.head) : Keeps s (s.withCharging v) where
  memory := id
  queues := id
  settings := id
  zones := id
  entries := id
  log k := by unfold State.logLegal; rw [State.withCharging_charging, head]; exact k

theorem withLog {v : BillingLog} (appended : v.counts.appended = s.log.counts.appended)
    (places : s.log.records.length + (if s.log.setAside then 1 else 0) ≤ Config.logPlaces →
      v.records.length + (if v.setAside then 1 else 0) ≤ Config.logPlaces)
    (setAside : s.log.setAside = true → v.setAside = true) : Keeps s (s.withLog v) where
  memory := id
  queues := id
  settings := id
  zones := id
  entries k := by unfold State.entriesLegal; rw [State.withLog_log, appended]; exact k
  log k := ⟨places k.1, fun h => setAside (k.2 h)⟩

end Keeps

/-! ### Shared operations -/

/-- Taking an order: its place passes from the queue to the orders taken (R161, R162). -/
theorem State.takeOrder_keeps {s t : State} {kind : OrderKind} {place : Nat} {body : List Byte}
    (h : s.takeOrder kind = some (place, body, t)) : Keeps s t := by
  obtain ⟨before, o, after, he, -, -, hp, -, -, rfl⟩ := State.takeOrder_spec.1 h
  refine Keeps.withLink ?_ ?_ id
  · simp only [he, List.length_append, List.length_cons]
    omega
  · simp only [Link.placesInUse, he, List.filterMap_append, List.filterMap_cons, hp, List.length_append, List.length_cons,
      List.map_append, List.map_cons, List.length_nil, List.map_nil]
    omega

theorem State.settleDown_keeps (s : State) : Keeps s s.settleDown := (State.settleDown_progress s).keeps

theorem State.reply_keeps (place : Nat) (code : ReplyCode) (body : ReplyBody) (s : State) : Keeps s (s.reply place code body) :=
  (State.reply_quiet place code body s).keeps

theorem State.post_keeps (s : State) (n : Nat) (kind : RequestKind) : Keeps s (s.post n kind) := (State.post_quiet s n kind).keeps

theorem State.notice_keeps (b : NoticeBody) (s : State) : Keeps s (s.notice b) := (State.notice_quiet b s).keeps

/-- An order answered at once keeps the laws if its act does. -/
theorem State.answerOrder_keeps (kind : OrderKind) {act : List Byte → State → Answer} (h : ∀ body t, Keeps t (act body t).2.2)
    (s : State) : Keeps s (s.answerOrder kind act) := by
  unfold State.answerOrder
  split
  · exact Keeps.refl s
  · rename_i place body t ht
    exact ((State.takeOrder_keeps ht).trans (h body t)).trans (State.reply_keeps _ _ _ _)

theorem outsideRestart_keeps {act : List Byte → State → Answer} (h : ∀ body t, Keeps t (act body t).2.2) (body : List Byte)
    (t : State) : Keeps t (outsideRestart act body t).2.2 := by
  unfold outsideRestart
  split
  · exact Keeps.refl t
  · exact h body t

theorem inConfig_keeps {act : List Byte → State → Answer} (h : ∀ body t, Keeps t (act body t).2.2) (body : List Byte)
    (t : State) : Keeps t (inConfig act body t).2.2 := by
  unfold inConfig
  split
  · exact h body t
  · exact Keeps.refl t

/-- The act of an order whose fields are read first may rely on what reading them has checked. -/
theorem withOperand_keeps {α : Type} {read : List Byte → Option α} {act : α → State → Answer}
    (h : ∀ body v, read body = some v → ∀ t, Keeps t (act v t).2.2) (body : List Byte) (t : State) :
    Keeps t (withOperand read act body t).2.2 := by
  unfold withOperand
  split
  · exact Keeps.refl t
  · rename_i v hv; exact h body v hv t

/-! ### Record memory and its port -/

theorem Memory.wf_writeRecord (m : List Host.Cell) (n : Nat) (r : Record) (h : Memory.wf m = true) :
    Memory.wf (Memory.writeRecord m n r) = true := Memory.wf_writeBytes _ _ _ h

theorem State.writeRecord_keeps (n : Nat) (r : Record) (s : State) : Keeps s (s.writeRecord n r) :=
  Keeps.withMem (Memory.wf_writeRecord s.mem n r)

theorem Memory.wf_foldl_writeRecord (ahead : List (Nat × Record)) (m : List Host.Cell) (h : Memory.wf m = true) :
    Memory.wf (ahead.foldl (fun m d => Memory.writeRecord m d.1 d.2) m) = true := by
  induction ahead generalizing m with
  | nil => exact h
  | cons d ahead ih => exact ih _ (Memory.wf_writeRecord m d.1 d.2 h)

/-- A completion at the port writes the default records ahead of it, and no more (log 11). -/
theorem State.completion_keeps {s t : State} {op : PortOp} (h : s.completion = some (op, t)) : Keeps s t := by
  obtain ⟨-, rest, mem, ⟨ahead, -, -, hm⟩, rfl⟩ := State.completion_eq_some.1 h
  have written : Keeps s (s.withMem mem) := Keeps.withMem (fun k => by rw [hm]; exact Memory.wf_foldl_writeRecord ahead _ k)
  exact written.trans (Keeps.withCache (s := s.withMem mem) (v := { s.cache with port := rest }) id id)

end Sys2Proof.Machine
end

section
/-! SUPPORT. The laws of the zones (R147, R148, R154, R155), and what the zone links and the Zone Monitor do to them. -/

namespace Sys2Proof.Machine

/-! ### The laws of the zones -/

theorem ZoneSet.has_single (z w : Nat) (h : w < Config.zones) : ZoneSet.has (ZoneSet.single z) w = decide (z = w) := by
  have hw : w < 16 := h
  unfold ZoneSet.has ZoneSet.single
  rcases Nat.lt_trichotomy z w with e | e | e
  · have : w - z ≠ 0 := by omega
    simp [BitVec.getLsbD_shiftLeft, BitVec.getLsbD_one, this, Nat.ne_of_lt e]
  · simp [e, hw]
  · simp [BitVec.getLsbD_shiftLeft, e, Nat.ne_of_gt e]

theorem ZoneSet.has_put (set : ZoneSet) (z w : Nat) (isIn : Bool) (h : w < Config.zones) :
    ZoneSet.has (ZoneSet.put set z isIn) w = if z = w then isIn else ZoneSet.has set w := by
  have hw : w < 16 := h
  have one := ZoneSet.has_single z w h
  unfold ZoneSet.has at one ⊢
  cases isIn
  · rw [ZoneSet.put, if_neg (by simp), BitVec.getLsbD_and, BitVec.getLsbD_not, one]
    by_cases e : z = w <;> simp [e, hw]
  · rw [ZoneSet.put, if_pos rfl, BitVec.getLsbD_or, one]
    by_cases e : z = w <;> simp [e]

@[simp] theorem Monitor.zone_setZone_same (m : Monitor) (z : Nat) (v : Zone) : (m.setZone z v).zone z = v :=
  Table.get_set_same _ _ _ _

theorem Monitor.zone_setZone (m : Monitor) (z w : Nat) (v : Zone) : (m.setZone z v).zone w = if z = w then v else m.zone w :=
  Table.get_set _ _ _ _ _

/-- What the laws of the zones say of one zone, its bit of the summary and its own fields. -/
def Zone.legal (v : Zone) (z : Nat) (isFaulted : Bool) : Prop :=
  isFaulted = decide (v.faults ≠ 0) ∧ (v.state = .unconfigured → v.faults = 0) ∧ ZoneSet.has v.neighbours z = false

theorem Monitor.legal_iff (m : Monitor) :
    m.legal ↔ ∀ z, z < Config.zones → (m.zone z).legal z (ZoneSet.has m.summary z) := Iff.rfl

/-- One zone and its bit of the summary are replaced lawfully. -/
theorem Monitor.legal_replace {m n : Monitor} {z : Nat}
    (others : ∀ w, w < Config.zones → w ≠ z → n.zone w = m.zone w ∧ ZoneSet.has n.summary w = ZoneSet.has m.summary w)
    (h : z < Config.zones → (m.zone z).legal z (ZoneSet.has m.summary z) → (n.zone z).legal z (ZoneSet.has n.summary z)) :
    m.legal → n.legal := by
  intro k w hw
  by_cases e : w = z
  · subst e; exact h hw (k w hw)
  · obtain ⟨a, b⟩ := others w hw e
    have := k w hw
    rw [a, b]; exact this

/-- A zone is replaced by one with the same faults, state and neighbours. -/
theorem Monitor.legal_setZone {m : Monitor} {z : Nat} {v : Zone} (faults : v.faults = (m.zone z).faults)
    (state : v.state = .unconfigured → (m.zone z).state = .unconfigured) (neighbours : v.neighbours = (m.zone z).neighbours) :
    m.legal → (m.setZone z v).legal := by
  refine Monitor.legal_replace (fun w _ e => ⟨by rw [Monitor.zone_setZone, if_neg (Ne.symm e)], rfl⟩) ?_
  rintro - ⟨a, b, c⟩
  unfold Zone.legal
  rw [Monitor.zone_setZone_same, faults, neighbours]
  exact ⟨a, fun e => b (state e), c⟩

/-- A change of one zone that leaves its faults, its state and its neighbours. -/
theorem State.changeZone_keeps (z : Nat) {f : Zone → Zone} (faults : ∀ v, (f v).faults = v.faults)
    (state : ∀ v, (f v).state = v.state) (neighbours : ∀ v, (f v).neighbours = v.neighbours) (s : State) :
    Keeps s (s.changeZone z f) :=
  Keeps.withMonitor rfl (Monitor.legal_setZone (faults _) (fun h => (state _).symm.trans h) (neighbours _))

theorem faults_or_bit_ne_zero (set : FaultSet) (c : Condition) : set ||| c.bit ≠ 0 := by
  cases c <;> revert set <;> decide

/-- A configured zone that takes a condition up stands in the summary with it. -/
theorem Monitor.legal_recorded {m n : Monitor} {z : Nat} {c : Condition} {severity : Severity}
    (configured : (m.zone z).state ≠ .unconfigured) (zone : ∀ w, n.zone w = if z = w then (m.zone z).recorded c severity else m.zone w)
    (summary : n.summary = ZoneSet.put m.summary z true) : m.legal → n.legal := by
  refine Monitor.legal_replace (z := z) (fun w hw e => ⟨?_, ?_⟩) ?_
  · rw [zone, if_neg (Ne.symm e)]
  · rw [summary, ZoneSet.has_put _ _ _ _ hw, if_neg (Ne.symm e)]
  · rintro hz ⟨-, -, neighbours⟩
    unfold Zone.legal
    rw [zone, if_pos rfl, summary, ZoneSet.has_put _ _ _ _ hz, if_pos rfl]
    refine ⟨(decide_eq_true (faults_or_bit_ne_zero _ _)).symm, fun k => ?_, neighbours⟩
    simp only [Zone.recorded] at k
    split at k
    · cases k
    · exact absurd k configured

/-- Recording an occurrence of a configured zone puts it in the summary (R154). -/
theorem State.record_keeps (z : Nat) (c : Condition) (s : State) (h : (s.monitor.zone z).state ≠ .unconfigured) :
    Keeps s (s.record z c) := by
  have recorded : ∀ n : Monitor, n.settings = s.monitor.settings →
      n.zones = (s.monitor.setZone z ((s.monitor.zone z).recorded c (s.monitor.settings.conditions.get c).severity)).zones →
      n.summary = ZoneSet.put s.monitor.summary z true → Keeps s (s.withMonitor n) := by
    intro n settings zones summary
    refine Keeps.withMonitor settings (Monitor.legal_recorded (c := c)
      (severity := (s.monitor.settings.conditions.get c).severity) h (fun w => ?_) summary)
    exact (congrArg (fun t => Table.get ({} : Zone) t w) zones).trans (Monitor.zone_setZone _ _ _ _)
  unfold State.record
  dsimp only
  split
  · refine Keeps.trans ?_ (State.notice_keeps _ _)
    exact recorded _ rfl rfl rfl
  · exact recorded _ rfl rfl rfl

theorem State.occurrence_keeps (z : Nat) (c : Condition) (s : State) : Keeps s (s.occurrence z c) := by
  unfold State.occurrence
  split
  · exact Keeps.refl s
  · rename_i h
    have configured : (s.monitor.zone z).state ≠ .unconfigured := by simpa [Monitor.configured] using h
    have counted := State.changeZone_keeps z
      (f := fun v => { v with occurrences := v.occurrences.set c (v.occurrences.get c + 1) })
      (fun _ => rfl) (fun _ => rfl) (fun _ => rfl) s
    dsimp only
    split
    · refine counted.trans (State.record_keeps z c _ ?_)
      simpa [State.changeZone] using configured
    · exact counted

theorem State.recordUntaken_keeps (z : Nat) (s : State) : Keeps s (s.recordUntaken z) := by
  unfold State.recordUntaken
  split
  · refine Keeps.trans (State.changeZone_keeps z ?_ ?_ ?_ s) (State.occurrence_keeps _ _ _) <;> exact fun _ => rfl
  · exact Keeps.refl s

theorem State.recordSilent_keeps (z : Nat) (s : State) : Keeps s (s.recordSilent z) := by
  unfold State.recordSilent
  split
  · refine Keeps.trans (State.changeZone_keeps z ?_ ?_ ?_ s) (State.occurrence_keeps _ _ _) <;> exact fun _ => rfl
  · exact Keeps.refl s

theorem State.recordDue_keeps (z : Nat) (s : State) : Keeps s (s.recordDue z) :=
  (State.recordUntaken_keeps z s).trans (State.recordSilent_keeps z _)

theorem State.recordAllDue_keeps (s : State) : Keeps s s.recordAllDue := Keeps.foldl (fun s z => State.recordDue_keeps z s) _ s

/-- Emptying conditions keeps the summary the set of the zones still faulted (R155). -/
theorem Monitor.clear_legal (m : Monitor) (z : Nat) (conditions : FaultSet) : m.legal → (m.clear z conditions).1.legal := by
  have zone : ∀ w, (m.clear z conditions).1.zone w =
      if z = w then { m.zone z with faults := (m.zone z).faults &&& ~~~conditions } else m.zone w :=
    fun w => Monitor.zone_setZone _ _ _ _
  refine Monitor.legal_replace (z := z) (fun w hw e => ⟨?_, ?_⟩) ?_
  · rw [zone, if_neg (Ne.symm e)]
  · exact (ZoneSet.has_put _ _ _ _ hw).trans (if_neg (Ne.symm e))
  · rintro hz ⟨-, b, c⟩
    unfold Zone.legal
    rw [zone, if_pos rfl]
    refine ⟨(ZoneSet.has_put _ _ _ _ hz).trans (if_pos rfl), fun k => ?_, c⟩
    simp [b k]

theorem Monitor.clear_zone (m : Monitor) (z : Nat) (conditions : FaultSet) :
    (m.clear z conditions).1.zone z = { m.zone z with faults := (m.zone z).faults &&& ~~~conditions } :=
  Monitor.zone_setZone_same _ _ _

theorem Monitor.judged_legal (m : Monitor) (z : Nat) (taken : Bool) : m.legal → (m.judged z taken).legal := by
  unfold Monitor.judged
  dsimp only
  split <;> exact Monitor.legal_setZone rfl id rfl

theorem Monitor.judged_settings (m : Monitor) (z : Nat) (taken : Bool) : (m.judged z taken).settings = m.settings := by
  unfold Monitor.judged
  dsimp only
  split <;> rfl

theorem Monitor.countSilence_legal (m : Monitor) (z : Nat) : m.legal → (m.countSilence z).legal := by
  unfold Monitor.countSilence
  dsimp only
  split
  · exact id
  · split <;> exact Monitor.legal_setZone rfl id rfl

theorem Monitor.countSilence_settings (m : Monitor) (z : Nat) : (m.countSilence z).settings = m.settings := by
  unfold Monitor.countSilence
  dsimp only
  split
  · rfl
  · split <;> rfl

/-- A fold over zones that keeps the settings and the laws of the zones at each step. -/
theorem Keeps.withMonitor_foldl {f : Monitor → Nat → Monitor} (settings : ∀ m z, (f m z).settings = m.settings)
    (legal : ∀ m z, m.legal → (f m z).legal) (l : List Nat) (s : State) : Keeps s (s.withMonitor (l.foldl f s.monitor)) := by
  have both : ∀ m : Monitor, (l.foldl f m).settings = m.settings ∧ (m.legal → (l.foldl f m).legal) := by
    induction l with
    | nil => exact fun m => ⟨rfl, id⟩
    | cons z l ih => exact fun m => ⟨(ih _).1.trans (settings m z), (ih _).2 ∘ legal m z⟩
  exact Keeps.withMonitor (both _).1 (both _).2

/-- SET_ZONE keeps the laws of the zones, its neighbour set not naming the zone (R148). -/
theorem Monitor.configure_legal (m : Monitor) (z : Nat) (enable : Bool) (neighbours : ZoneSet)
    (h : ZoneSet.has neighbours z = false) : m.legal → (m.configure z enable neighbours).legal := by
  have named : m.legal → (m.setZone z { m.zone z with neighbours }).legal := by
    refine Monitor.legal_replace (fun w _ e => ⟨by rw [Monitor.zone_setZone, if_neg (Ne.symm e)], rfl⟩) ?_
    rintro - ⟨a, b, -⟩
    unfold Zone.legal
    rw [Monitor.zone_setZone_same]
    exact ⟨a, b, h⟩
  refine fun k => ?_
  have k := named k
  unfold Monitor.configure
  generalize m.setZone z { m.zone z with neighbours } = n at k
  dsimp only
  split
  · split
    · rename_i unconfigured
      revert k
      refine Monitor.legal_replace (fun w _ e => ⟨by rw [Monitor.zone_setZone, if_neg (Ne.symm e)], rfl⟩) ?_
      rintro - ⟨a, b, c⟩
      unfold Zone.legal
      rw [Monitor.zone_setZone_same]
      refine ⟨?_, fun _ => rfl, c⟩
      rw [b unconfigured] at a
      exact a
    · exact k
  · split
    · exact k
    · have k := Monitor.clear_legal n z allConditions k
      have none : (n.zone z).faults &&& ~~~allConditions = 0 := by
        generalize (n.zone z).faults = set
        revert set; decide
      revert k
      refine Monitor.legal_replace (fun w _ e => ⟨by rw [Monitor.zone_setZone, if_neg (Ne.symm e)], rfl⟩) ?_
      rintro - ⟨a, -, c⟩
      unfold Zone.legal
      rw [Monitor.zone_setZone_same]
      exact ⟨a, fun _ => (congrArg Zone.faults (Monitor.clear_zone n z allConditions)).trans none, c⟩

theorem Monitor.configure_settings (m : Monitor) (z : Nat) (enable : Bool) (neighbours : ZoneSet) :
    (m.configure z enable neighbours).settings = m.settings := by
  unfold Monitor.configure
  dsimp only
  split
  · split <;> rfl
  · split <;> rfl

/-- A fold that takes each zone of a list through the end of a restart. -/
theorem Monitor.foldl_afterRestart (l : List Nat) (hl : l.Nodup) (m : Monitor) :
    let n := l.foldl (fun m z => m.setZone z (m.zone z).afterRestart) m
    n.settings = m.settings ∧ ∀ z, n.zone z = if z ∈ l then (m.zone z).afterRestart else m.zone z := by
  induction l generalizing m with
  | nil => exact ⟨rfl, fun z => by simp⟩
  | cons w l ih =>
    obtain ⟨hw, hl⟩ := List.nodup_cons.1 hl
    obtain ⟨settings, zone⟩ := ih hl (m.setZone w (m.zone w).afterRestart)
    refine ⟨settings, fun z => ?_⟩
    rw [List.foldl_cons, zone z, Monitor.zone_setZone]
    by_cases e : w = z
    · subst e; simp [hw]
    · simp [e, Ne.symm e]

/-- At the end of a restart no zone is faulted (R156). -/
theorem State.afterRestart_keeps (s : State) : Keeps s (s.withMonitor s.monitor.afterRestart) := by
  have mem : ∀ z, z < Config.zones → z ∈ List.range Config.zones := fun z h => List.mem_range.2 h
  have fold := Monitor.foldl_afterRestart (List.range Config.zones) List.nodup_range s.monitor
  unfold Monitor.afterRestart
  generalize List.range Config.zones = l at mem fold
  obtain ⟨settings, zone⟩ := fold
  refine Keeps.withMonitor settings (fun k z hz => ?_)
  have e := (zone z).trans (if_pos (mem z hz))
  unfold Monitor.zone at e ⊢
  rw [e]
  exact ⟨by simp [Zone.afterRestart, ZoneSet.has], fun _ => rfl, (k z hz).2.2⟩

/-! ### The zone links -/

theorem State.changeZoneLink_keeps (z : Nat) (f : ZoneLink → ZoneLink) (s : State) : Keeps s (s.changeZoneLink z f) :=
  Keeps.withZoneLinks id

theorem State.countZone_keeps (z : Nat) (f : ZoneLinkCounts → ZoneLinkCounts) (s : State) : Keeps s (s.countZone z f) :=
  State.changeZoneLink_keeps z _ s

theorem State.badZoneFrame_keeps (z : Nat) (kind : Operands.BadFrame) (s : State) : Keeps s (s.badZoneFrame z kind) := by
  unfold State.badZoneFrame
  split
  · exact (State.countZone_keeps _ _ s).trans (State.occurrence_keeps _ _ _)
  · exact (State.countZone_keeps _ _ s).trans (State.occurrence_keeps _ _ _)
  · exact Keeps.withZoneLinks id

theorem State.takeItem_keeps (z : Nat) (i : Operands.WindowItem) (s : State) : Keeps s (s.takeItem z i) := by
  unfold State.takeItem
  split
  · exact State.countZone_keeps _ _ s
  · split
    · exact State.countZone_keeps _ _ s
    · split
      · rename_i room
        refine (State.countZone_keeps z (fun c => { c with itemsTaken := c.itemsTaken + 1 }) s).trans (Keeps.withZoneLinks fun _ => ?_)
        rw [List.length_append]
        exact room
      · exact State.countZone_keeps _ _ s

theorem State.judgeOffer_keeps (g : Word32) (z : Nat) (s : State) : Keeps s (s.judgeOffer g z) := by
  unfold State.judgeOffer
  dsimp only
  split
  · split
    · exact (State.changeZoneLink_keeps z _ s).trans
        (Keeps.withMonitor (Monitor.judged_settings _ _ _) (Monitor.judged_legal _ _ _))
    · exact State.changeZoneLink_keeps z _ s
  · exact Keeps.refl s

/-- Offers and withdrawals leave the reverse item queue. -/
theorem ZoneLinks.foldl_reverseQueue {f : ZoneLinks → Nat → ZoneLinks} (h : ∀ l z, (f l z).reverseQueue = l.reverseQueue)
    (zones : List Nat) (l : ZoneLinks) : (zones.foldl f l).reverseQueue = l.reverseQueue := by
  induction zones generalizing l with
  | nil => rfl
  | cons z zones ih => exact (ih _).trans (h l z)

theorem ZoneLinks.withdraw_reverseQueue (l : ZoneLinks) (z : Nat) : (l.withdraw z).reverseQueue = l.reverseQueue := by
  unfold ZoneLinks.withdraw
  dsimp only
  split
  · rfl
  · split <;> rfl

theorem State.withdrawAll_keeps (s : State) : Keeps s (s.withZoneLinks s.zoneLinks.withdrawAll) :=
  Keeps.withZoneLinks (fun h => (congrArg List.length (ZoneLinks.foldl_reverseQueue ZoneLinks.withdraw_reverseQueue _ _)).trans_le h)

end Sys2Proof.Machine
end

section
/-! SUPPORT. The frame start keeps the laws; and the ranges that reading an order has checked. -/

namespace Sys2Proof.Machine

/-! ### The frame start -/

theorem State.launchEntry_quiet (launch : Word32) (takenSet : ZoneSet) (s : State) (p : Placed) :
    Quiet s (s.launchEntry launch takenSet p) := by
  unfold State.launchEntry
  have written := State.changeEntry_quiet p.entry (fun e => { e with takenSet := p.zones &&& takenSet }) s
  dsimp only
  split
  · exact written.trans (State.voidAttempt_quiet _ _)
  · exact written.trans (((State.changeEntry_quiet _ _ _).trans (State.countAssembly_quiet _ _)).trans
      (State.takeLaunched_quiet _ _ _))

theorem State.launchOffered_quiet (launch : Word32) (takenSet : ZoneSet) (s : State) : Quiet s (s.launchOffered launch takenSet) := by
  unfold State.launchOffered
  split
  · exact Quiet.refl s
  · exact (Quiet.foldl (fun s p => State.launchEntry_quiet launch takenSet s p) _ s).trans (Quiet.withAssembler _)

theorem State.closeFrame_keeps (f : Frame) (s : State) : Keeps s (s.closeFrame f) := by
  have offered := (Quiet.foldl (fun s (p : Placed) =>
    State.changeEntry_quiet p.entry (fun e => { e with state := .offered }) s) f.placed s)
  have links := ZoneLinks.foldl_reverseQueue (f := fun l z => l.offer z f.launch f.number (s.pagesFor f z)) (fun _ _ => rfl)
    (ZoneSet.toList s.monitor.inService) s.zoneLinks
  unfold State.closeFrame
  refine (offered.keeps.trans (Keeps.withZoneLinks fun h => ?_)).trans (Keeps.withAssembler _ _)
  rw [links]
  rw [offered.settled.zoneLinks] at h
  exact h

theorem State.expireQueued_quiet (coming : Word32) (s : State) : Quiet s (s.expireQueued coming) := by
  unfold State.expireQueued
  refine Quiet.foldl (fun s n => ?_) _ s
  split
  · exact Quiet.refl s
  · split
    · exact (((State.leaveMissSkip_quiet s n).trans (State.leaveQueue_quiet _ n)).trans (State.settle_quiet _ n _ _)).trans
        (State.countAssembly_quiet _ _)
    · exact Quiet.refl s

theorem State.refile_quiet (s : State) : Quiet s s.refile := by
  unfold State.refile
  refine Quiet.trans (Quiet.withAssembler (s := s) _) (Quiet.foldl (fun s n => ?_) _ _)
  split
  · exact Quiet.refl s
  · exact State.joinQueue_quiet s n _

theorem State.openAndWalk_quiet (s : State) : Quiet s s.openAndWalk :=
  (State.withOpen_quiet s _).trans (Quiet.foldl (fun s n => State.tryEntry_quiet s _ _ n) _ _)

theorem State.assembleFrame_keeps (takenSet : ZoneSet) (coming : Option Word32) (relength : Bool) (s : State) :
    Keeps s (s.assembleFrame takenSet coming relength) := by
  unfold State.assembleFrame
  have closed := (State.launchOffered_quiet s.timer.frameCount takenSet s).keeps.trans
    (State.closeFrame_keeps (s.launchOffered s.timer.frameCount takenSet).frameToClose _)
  dsimp only
  refine Keeps.trans (closed.trans ?_) (State.openAndWalk_quiet _).keeps
  split
  · exact Keeps.refl _
  · split
    · exact ((State.expireQueued_quiet _ _).trans (State.refile_quiet _)).keeps
    · exact (State.expireQueued_quiet _ _).keeps

theorem State.announceTurn_quiet (coming : Word32) (s : State) : Quiet s (s.announceTurn coming) := by
  unfold State.announceTurn
  split
  · exact State.holdOver_quiet s _
  · exact State.turnRetries_quiet _ s

theorem State.announceFrame_quiet (frameCount cycle : Word32) (s : State) : Quiet s (s.announceFrame frameCount cycle) := by
  unfold State.announceFrame
  split
  · exact State.holdOver_quiet s _
  · exact State.withAnnounced_quiet s _

theorem State.announce_keeps (coming : Option Word32) (relength : Bool) (s : State) : Keeps s (s.announce coming relength) := by
  unfold State.announce
  have judged : Keeps s (s.judgeOffers s.timer.frameCount) := Keeps.foldl (fun s z => State.judgeOffer_keeps _ z s) _ s
  have counted : ∀ u : State, Keeps u (u.withMonitor u.monitor.countAllSilence) := fun u =>
    Keeps.withMonitor_foldl Monitor.countSilence_settings Monitor.countSilence_legal _ u
  have assembled := (judged.trans (counted _)).trans
    (State.assembleFrame_keeps (s.zoneLinks.takenSet s.timer.frameCount) coming relength _)
  dsimp only
  refine Keeps.trans (assembled.trans ?_) (State.announceFrame_quiet _ _ _).keeps
  split
  · exact Keeps.refl _
  · exact ((State.expireHeld_quiet _ _).trans (State.announceTurn_quiet _ _)).keeps

theorem State.finishLastFrame_keeps (s : State) : Keeps s s.finishLastFrame :=
  (State.recordAllDue_keeps s).trans (State.takeAnnounced_quiet _).keeps

theorem State.startFrame_keeps (s : State) : Keeps s s.startFrame :=
  (((State.finishLastFrame_keeps s).trans (Keeps.withTimer _ _)).trans (State.announce_keeps _ _ _)).trans (State.settleDown_keeps _)

theorem State.resume_keeps (heldMs : Nat) (s : State) : Keeps s (s.resume heldMs) :=
  ((((State.finishLastFrame_keeps s).trans (Keeps.withTimer _ _)).trans (State.notice_keeps _ _)).trans
    (State.announce_keeps _ _ _)).trans (State.settleDown_keeps _)

theorem State.withdrawOffered_keeps (s : State) : Keeps s s.withdrawOffered := by
  unfold State.withdrawOffered
  have withdrawn := State.withdrawAll_keeps s
  dsimp only
  split
  · exact withdrawn
  · exact (withdrawn.trans (Keeps.withAssembler _ _)).trans (Quiet.foldl (fun s p => State.voidAttempt_quiet s _) _ _).keeps

theorem State.cancelAssembly_keeps (s : State) : Keeps s s.cancelAssembly := by
  unfold State.cancelAssembly
  dsimp only
  exact ((Quiet.foldl (fun s n => State.settle_quiet s n _ _) _ s).keeps.trans (State.withdrawAll_keeps _)).trans
    (Keeps.withAssembler _ _)

theorem State.cancelRetries_quiet (s : State) : Quiet s s.cancelRetries := by
  unfold State.cancelRetries
  exact (Quiet.foldl (fun s n => State.settle_quiet s n _ _) _ s).trans (Quiet.withRetry rfl rfl rfl)

/-! ### The ranges that reading an order's fields has checked -/

theorem Operands.within_spec {lo hi n m : Nat} (h : Operands.within lo hi n = some m) : lo ≤ m ∧ m ≤ hi := by
  unfold Operands.within at h
  split at h
  · obtain rfl := Option.some.inj h; assumption
  · cases h

theorem Operands.below_spec {bound n m : Nat} (h : below bound n = some m) : m < bound ∧ m = n := by
  unfold below at h
  split at h
  · obtain rfl := Option.some.inj h; exact ⟨by assumption, rfl⟩
  · cases h

theorem Operands.setAdmission_range {body : List Byte} {v : Nat × Bool} (h : Operands.setAdmission body = some v) : v.1 ≤ 3 := by
  simp only [Operands.setAdmission, Option.bind_eq_bind, Option.bind_eq_some_iff, Option.pure_def, Option.some.injEq] at h
  obtain ⟨level, hl, control, -, rfl⟩ := h
  exact Nat.le_of_lt_succ (Operands.below_spec hl).1

theorem Operands.setCache_range {body : List Byte} {v : WritePolicy × Option Nat} (h : Operands.setCache body = some v) :
    ∀ l, v.2 = some l → 1 ≤ l ∧ l ≤ 15 := by
  unfold Operands.setCache at h
  split at h
  · obtain rfl := Option.some.inj h; simp
  · obtain rfl := Option.some.inj h; simp
  · obtain ⟨l, hl, rfl⟩ := Option.map_eq_some_iff.1 h
    intro m hm
    obtain rfl := Option.some.inj hm
    exact Operands.within_spec hl
  · cases h

/-- A list read element by element: as long as the list it was read from, each element read from one of it. -/
theorem Operands.mapM_spec {α β : Type} {f : α → Option β} {l : List α} {r : List β} (h : l.mapM f = some r) :
    r.length = l.length ∧ ∀ b ∈ r, ∃ a ∈ l, f a = some b := by
  induction l generalizing r with
  | nil =>
    obtain rfl : [] = r := by simpa using h
    simp
  | cons a l ih =>
    simp only [List.mapM_cons, Option.bind_eq_bind, Option.bind_eq_some_iff, Option.pure_def, Option.some.injEq] at h
    obtain ⟨b, hb, bs, hbs, rfl⟩ := h
    obtain ⟨length, source⟩ := ih hbs
    refine ⟨by simp [length], fun c hc => ?_⟩
    rcases List.mem_cons.1 hc with rfl | hc
    · exact ⟨a, by simp, hb⟩
    · obtain ⟨x, hx, hf⟩ := source c hc
      exact ⟨x, by simp [hx], hf⟩

theorem Operands.setPolicy_range {body : List Byte} {v : Nat × PolicyRow} (h : Operands.setPolicy body = some v) : v.2.legal := by
  simp only [Operands.setPolicy, Option.bind_eq_bind, Option.bind_eq_some_iff, Option.pure_def, Option.some.injEq] at h
  obtain ⟨level, -, attempts, ha, backoff, hb, lifetime, hl, repeats, hr, rfl⟩ := h
  obtain ⟨length, source⟩ := Operands.mapM_spec hb
  refine ⟨(Operands.within_spec ha).1, (Operands.within_spec ha).2, length, fun b h => ?_, (Operands.within_spec hl).1,
    (Operands.within_spec hl).2, (Operands.within_spec hr).1, (Operands.within_spec hr).2⟩
  obtain ⟨i, -, hi⟩ := source b h
  exact (Operands.within_spec hi).2

theorem Operands.setReach_range {body : List Byte} {v : Nat × Nat} (h : Operands.setReach body = some v) :
    (1 ≤ v.1 ∧ v.1 ≤ 255) ∧ 1 ≤ v.2 ∧ v.2 ≤ 255 := by
  simp only [Operands.setReach, Option.bind_eq_bind, Option.bind_eq_some_iff, Option.pure_def, Option.some.injEq] at h
  obtain ⟨u, hu, p, hp, rfl⟩ := h
  exact ⟨Operands.within_spec hu, Operands.within_spec hp⟩

theorem Operands.setFaultHandling_range {body : List Byte} {v : FaultSettings} (h : Operands.setFaultHandling body = some v) :
    (1 ≤ v.untakenLimit ∧ v.untakenLimit ≤ 15) ∧ 4 ≤ v.silenceLimit ∧ v.silenceLimit ≤ 255 := by
  simp only [Operands.setFaultHandling, Option.bind_eq_bind, Option.bind_eq_some_iff, Option.pure_def, Option.some.injEq] at h
  obtain ⟨u, hu, p, hp, rfl⟩ := h
  exact ⟨Operands.within_spec hu, Operands.within_spec hp⟩

theorem Operands.setZone_range {body : List Byte} {v : Nat × Bool × ZoneSet} (h : Operands.setZone body = some v) :
    ZoneSet.has v.2.2 v.1 = false := by
  simp only [Operands.setZone, Option.bind_eq_bind, Option.bind_eq_some_iff, Option.pure_def] at h
  obtain ⟨zone, -, enable, -, h⟩ := h
  split at h
  · cases h
  · rename_i k
    obtain rfl := Option.some.inj h
    simpa [ZoneSet.has] using k

end Sys2Proof.Machine
end

section
/-! SUPPORT. The Intake Unit and the Record Cache keep the laws. -/

namespace Sys2Proof.Machine

/-! ### Every command keeps the laws -/

/-- What a command answers keeps the laws: its next state does, where it has one. -/
def Result.Lawful (s : State) (r : Result) : Prop := ∀ t, r = .next t → Keeps s t

theorem Result.lawful_next {s t : State} (h : Keeps s t) : Result.Lawful s (.next t) := by
  rintro _ ⟨⟩
  exact h

theorem Result.lawful_fault (s : State) (f : Fault) : Result.Lawful s (.fault f) := by
  rintro _ ⟨⟩

theorem Result.lawful_refused (s : State) (r : Refusal) : Result.Lawful s (.refused r) := by
  rintro _ ⟨⟩

/-! ### Intake -/

theorem State.takeSubmit_keeps (place : Nat) (body : List Byte) (s : State) : Keeps s (s.takeSubmit place body) := by
  unfold State.takeSubmit
  split
  · exact State.reply_keeps _ _ _ s
  · exact (State.withOrder_quiet s _).keeps.trans (State.post_keeps _ _ _)

theorem State.takeSubmitGroup_keeps (place : Nat) (body : List Byte) (s : State) : Keeps s (s.takeSubmitGroup place body) := by
  unfold State.takeSubmitGroup
  split
  · exact State.reply_keeps _ _ _ s
  · dsimp only
    split
    · exact State.reply_keeps _ _ _ s
    · rename_i hb
      have q := State.takeBody_quiet hb
      refine Quiet.keeps (Quiet.trans (Quiet.withStore ?_) (State.nextMember_quiet _ _))
      exact ⟨q.1, q.2, q.3, q.4, q.5, q.6, q.7⟩

theorem State.takeCancel_keeps (place : Nat) (body : List Byte) (s : State) : Keeps s (s.takeCancel place body) := by
  unfold State.takeCancel
  split
  · exact State.reply_keeps _ _ _ s
  · exact (State.withOrder_quiet s _).keeps

theorem setAdmissionAct_keeps {v : Nat × Bool} (h : v.1 ≤ 3) (s : State) : Keeps s (setAdmissionAct v s).2.2 := by
  refine Keeps.trans (Keeps.withIntake (v := { s.intake with hostLevel := v.1, congestionControl := v.2 }) fun _ => h)
    ((State.releaseHeld_quiet _ _).keeps.trans (State.settleDown_keeps _))

theorem queryMessageAct_state (body : List Byte) (s : State) : (queryMessageAct body s).2.2 = s := by
  unfold queryMessageAct
  dsimp only
  split <;> rfl

theorem groupReadAct_state (v : Nat × Nat × Nat) (s : State) : (groupReadAct v s).2.2 = s := by
  unfold groupReadAct
  dsimp only
  split <;> rfl

theorem pieceTaken_keeps (p : Operands.GroupPiece) (members : List Nat) (t : Store) (s : State)
    (h : Keeps s (s.withStore t)) : Keeps s (pieceTaken p members t s).2.2 := by
  refine h.trans ?_
  unfold pieceTaken Store.putMembers
  dsimp only
  split
  · exact Keeps.withStore (s := s.withStore t) rfl rfl rfl rfl
  · exact Keeps.withStore (s := s.withStore t) rfl rfl rfl rfl

theorem groupSetAct_keeps (p : Operands.GroupPiece) (s : State) : Keeps s (groupSetAct p s).2.2 := by
  unfold groupSetAct
  split
  · exact Keeps.refl s
  · split
    · dsimp only
      split
      · exact Keeps.refl s
      · exact pieceTaken_keeps _ _ _ s (Keeps.withStore rfl rfl rfl rfl)
    · split
      · exact Keeps.refl s
      · split
        · exact pieceTaken_keeps _ _ _ s (Keeps.refl s)
        · exact Keeps.refl s

/-! ### Record Cache -/

theorem State.takeReadSub_keeps (place : Nat) (body : List Byte) (s : State) : Keeps s (s.takeReadSub place body) := by
  unfold State.takeReadSub
  split
  · exact State.reply_keeps _ _ _ s
  · exact State.post_keeps s _ _

theorem State.takeWriteSub_keeps (place : Nat) (body : List Byte) (s : State) : Keeps s (s.takeWriteSub place body) := by
  unfold State.takeWriteSub
  split
  · exact State.reply_keeps _ _ _ s
  · exact State.post_keeps s _ _

theorem State.takeRepairSub_keeps (place : Nat) (body : List Byte) (s : State) : Keeps s (s.takeRepairSub place body) := by
  unfold State.takeRepairSub
  split
  · exact State.reply_keeps _ _ _ s
  · exact State.post_keeps s _ _

theorem State.serveReadSub_keeps (place n : Nat) (s : State) : Keeps s (s.serveReadSub place n) := by
  unfold State.serveReadSub
  split
  · exact ((Quiet.withCache (Cache.withoutFront_quiet _ n)).trans (State.answerFromLine_quiet _ _ _ _)).keeps
  · split
    · exact (Quiet.withCache (Cache.changeFront_quiet _ n _)).keeps
    · exact (Quiet.withCache ((Cache.changeFront_quiet _ n _).trans (Cache.issue_quiet _ _))).keeps

theorem State.failHostRead_keeps (place n : Nat) (source : FaultSource) (s : State) : Keeps s (s.failHostRead place n source) :=
  (((State.reply_quiet _ _ _ s).trans (State.countCache_quiet _ _)).trans (State.noteFault_quiet _ _ _)).keeps

theorem State.endHostRead_keeps (place n : Nat) (s : State) : Keeps s (s.endHostRead place n) := by
  have served := (Quiet.withCache (s := s) (Cache.withoutFront_quiet _ n)).keeps
  unfold State.endHostRead
  dsimp only
  split
  · exact served.trans (State.reply_keeps _ _ _ _)
  · exact served.trans (State.failHostRead_keeps _ _ _ _)

theorem Cache.replaceHost_quiet (c : Cache) (n : Nat) (fields : HostFields) : CacheQuiet c (c.replaceHost n fields) := by
  unfold Cache.replaceHost
  split
  · exact CacheQuiet.refl c
  · exact Cache.setLine_quiet c n _ _

theorem State.endWriteRead_keeps (place n : Nat) (fields : HostFields) (s : State) : Keeps s (s.endWriteRead place n fields) := by
  unfold State.endWriteRead
  split
  · exact (Quiet.withCache (((Cache.replaceHost_quiet _ n fields).trans (Cache.changeFront_quiet _ n _)).trans
      (Cache.issue_quiet _ _))).keeps
  · exact (Quiet.withCache (Cache.withoutFront_quiet _ n)).keeps.trans (State.failHostRead_keeps _ _ _ _)

theorem State.endHostWrite_keeps (n : Nat) (r : Record) (s : State) : Keeps s (s.endHostWrite n r) := by
  have written := State.writeRecord_keeps n r s
  have answered : ∀ place, Keeps s (((s.writeRecord n r).withCache ((s.writeRecord n r).cache.withoutFront n)).reply place .ok .none) :=
    fun place => (written.trans (Quiet.withCache (Cache.withoutFront_quiet _ n)).keeps).trans (State.reply_keeps _ _ _ _)
  unfold State.endHostWrite
  dsimp only
  split
  · exact answered _
  · exact answered _
  · exact written

theorem State.takeInitRecords_keeps (place : Nat) (body : List Byte) (s : State) : Keeps s (s.takeInitRecords place body) := by
  unfold State.takeInitRecords
  split
  · exact State.reply_keeps _ _ _ s
  · split
    · exact State.reply_keeps _ _ _ s
    · split
      · exact State.reply_keeps _ _ _ s
      · exact Keeps.withCache id id

theorem flushTake_keeps (place : Nat) (s : State) : Keeps s (flushTake place s) := by
  unfold flushTake
  split
  · exact State.reply_keeps _ _ _ s
  · split
    · exact State.reply_keeps _ _ _ s
    · exact Keeps.withCache id id

theorem State.writeDefault_keeps (place next last written : Nat) (s : State) : Keeps s (s.writeDefault place next last written) := by
  have h : CacheQuiet s.cache (s.cache.invalidate next) := by
    unfold Cache.invalidate
    split
    · exact CacheQuiet.refl _
    · exact Cache.setLine_quiet _ _ _ _
  unfold State.writeDefault
  refine Keeps.withCache (fun k => ?_) (fun k => ?_)
  · show 1 ≤ (s.cache.invalidate next).limit ∧ (s.cache.invalidate next).limit ≤ 15
    rw [h.limit]; exact k
  · show ∀ b, (s.cache.invalidate next).addressBase = some b → b ≤ Config.maxAddressBase
    rw [h.addressBase]; exact k

theorem Cache.visit_keeps (place : Option Nat) (next written outstanding : Nat) (s : State) :
    Keeps s (s.withCache (s.cache.visit place next written outstanding)) := by
  unfold Cache.visit
  dsimp only
  split <;> exact Keeps.withCache id id

theorem Cache.endWriteBack_quiet (c : Cache) (n : Nat) : CacheQuiet c (c.endWriteBack n) := by
  unfold Cache.endWriteBack
  split
  · exact CacheQuiet.refl c
  · split
    · exact Cache.setLine_quiet c n _ _
    · exact CacheQuiet.refl c

theorem State.sweepEnd_keeps {s t : State} {place : Option Nat} {written : Nat} (h : s.sweepEnd = some (place, written, t)) :
    Keeps s t := by
  unfold State.sweepEnd at h
  split at h
  · split at h
    · cases h
    · split at h
      · obtain ⟨-, -, rfl⟩ := Prod.mk.inj (Option.some.inj h) |>.imp id Prod.mk.inj
        exact Keeps.withCache id id
      · split at h
        · rename_i n r rest hc
          split at h
          · obtain ⟨-, -, rfl⟩ := Prod.mk.inj (Option.some.inj h) |>.imp id Prod.mk.inj
            refine ((State.completion_keeps hc).trans (State.writeRecord_keeps n r rest)).trans (Keeps.withCache (fun k => ?_) (fun k => ?_))
            · rw [← (Cache.endWriteBack_quiet (rest.writeRecord n r).cache n).limit] at k; exact k
            · rw [← (Cache.endWriteBack_quiet (rest.writeRecord n r).cache n).addressBase] at k; exact k
          · cases h
        · cases h
      · cases h
  · cases h
  · cases h

theorem setCacheAct_keeps {v : WritePolicy × Option Nat} (h : ∀ l, v.2 = some l → 1 ≤ l ∧ l ≤ 15) (s : State) :
    Keeps s (setCacheAct v s).2.2 := by
  refine Keeps.withCache (fun k => ?_) id
  show 1 ≤ v.2.getD s.cache.limit ∧ v.2.getD s.cache.limit ≤ 15
  cases e : v.2 with
  | none => exact k
  | some l => exact h l e

theorem setAddressBaseAct_keeps {v : Nat} (h : v ≤ Config.maxAddressBase) (s : State) : Keeps s (setAddressBaseAct v s).2.2 := by
  refine Keeps.withCache id (fun _ b hb => ?_)
  obtain rfl := Option.some.inj hb
  exact h

theorem State.endFillRead_keeps (n way : Nat) (s : State) : Keeps s (s.endFillRead n way) := by
  have freed : Keeps s (s.withCache (s.cache.endFill n)) := Keeps.withCache id id
  unfold State.endFillRead
  dsimp only
  split
  · exact freed.trans (Keeps.withCache id id)
  · exact freed.trans (State.failFill_progress _ n way).keeps

theorem Cache.countDown_settings (c : Cache) (bySweep : Bool) :
    (c.countDown bySweep).limit = c.limit ∧ (c.countDown bySweep).addressBase = c.addressBase := by
  unfold Cache.countDown
  split
  · split <;> exact ⟨rfl, rfl⟩
  · exact ⟨rfl, rfl⟩
  · exact ⟨rfl, rfl⟩

theorem State.endWriteBack_keeps (n : Nat) (r : Record) (bySweep : Bool) (s : State) : Keeps s (s.endWriteBack n r bySweep) := by
  have h := Cache.endWriteBack_quiet (s.writeRecord n r).cache n
  obtain ⟨limit, base⟩ := Cache.countDown_settings ((s.writeRecord n r).cache.endWriteBack n) bySweep
  refine (State.writeRecord_keeps n r s).trans (Keeps.withCache ?_ ?_)
  · rw [limit, h.limit]; exact id
  · rw [base, h.addressBase]; exact id

end Sys2Proof.Machine
end

section
/-! SUPPORT. Charging, the Billing Log, the host link, the zones, the Retry Unit and the part states keep the laws. -/

namespace Sys2Proof.Machine

/-! ### Charging and the Billing Log -/

theorem planSetAct_keeps (v : Nat × Plan) (s : State) : Keeps s (planSetAct v s).2.2 := by
  unfold planSetAct
  split <;> exact Keeps.withCharging rfl

theorem Charging.closePeriod_head (c : Charging) : c.closePeriod.head = c.head := by
  have fold : ∀ (l : List Nat) (c : Charging), (l.foldl (fun c n => c.storePlan n (c.pendingPlan n).plan) c).head = c.head := by
    intro l
    induction l with
    | nil => exact fun _ => rfl
    | cons n l ih => exact fun c => ih _
  exact fold _ _

theorem closePeriodAct_keeps (body : List Byte) (s : State) : Keeps s (closePeriodAct body s).2.2 := by
  unfold closePeriodAct
  split
  · exact Keeps.refl s
  · exact Keeps.withCharging s.charging.closePeriod_head

theorem State.withMoneyOrder_keeps (v : Option ChargingOrder) (s : State) : Keeps s (s.withMoneyOrder v) := Keeps.withCharging rfl

theorem State.takeTopUp_keeps (place : Nat) (body : List Byte) (s : State) : Keeps s (s.takeTopUp place body) := by
  unfold State.takeTopUp
  split
  · exact State.reply_keeps _ _ _ s
  · exact (State.withMoneyOrder_keeps _ s).trans (State.post_keeps _ _ _)

theorem State.takeAdjust_keeps (place : Nat) (body : List Byte) (s : State) : Keeps s (s.takeAdjust place body) := by
  unfold State.takeAdjust
  split
  · exact State.reply_keeps _ _ _ s
  · exact (State.withMoneyOrder_keeps _ s).trans (State.post_keeps _ _ _)

theorem State.completeTopUp_keeps (place sub way amount : Nat) (s : State) : Keeps s (s.completeTopUp place sub way amount) :=
  ((State.closingUpdate_quiet s sub way _).keeps.trans (State.withMoneyOrder_keeps none _)).trans (State.reply_keeps _ _ _ _)

theorem State.completeAdjust_keeps (place sub way : Nat) (amount : Int) (s : State) :
    Keeps s (s.completeAdjust place sub way amount) := by
  unfold State.completeAdjust
  dsimp only
  split
  · exact ((State.release_quiet s sub).keeps.trans (State.withMoneyOrder_keeps none _)).trans (State.reply_keeps _ _ _ _)
  · exact ((State.closingUpdate_quiet s sub way _).keeps.trans (State.withMoneyOrder_keeps none _)).trans
      (State.reply_keeps _ _ _ _)

/-- A COLLECT that grants a place has freed one (R136, R140). -/
theorem BillingLog.release_places (l : BillingLog) (r : Nat) :
    (l.records.length + (if l.setAside then 1 else 0) ≤ Config.logPlaces →
      (l.release r).records.length + (if (l.release r).setAside then 1 else 0) ≤ Config.logPlaces) ∧
    (l.setAside = true → (l.release r).setAside = true) := by
  have kept : (l.release r).records.length = l.records.length - r := List.length_drop
  have granted : (l.release r).setAside = (l.setAside || (l.waiting && decide (0 < l.records.length - (l.records.drop r).length))) := rfl
  rw [List.length_drop] at granted
  refine ⟨fun h => ?_, fun h => by rw [granted, h]; rfl⟩
  rw [kept]
  by_cases freed : 0 < l.records.length - (l.records.length - r)
  · have : (if (l.release r).setAside = true then 1 else 0) ≤ 1 := by split <;> omega
    omega
  · have same : (l.release r).setAside = l.setAside := by rw [granted]; simp [freed]
    rw [same]
    omega

theorem collectAct_keeps (body : List Byte) (s : State) : Keeps s (collectAct body s).2.2 := by
  unfold collectAct
  dsimp only
  split
  · obtain ⟨places, setAside⟩ := BillingLog.release_places s.log (collectCounts body).1
    exact Keeps.withLog rfl places setAside
  · exact Keeps.withLog rfl id id

theorem setNoticesAct_keeps (v : NoticeSelection) (s : State) : Keeps s (setNoticesAct v s).2.2 := Keeps.withLog rfl id id

theorem State.warnHigh_keeps (s : State) : Keeps s s.warnHigh := by
  have told := State.notice_quiet s.log.highNotice s
  exact told.keeps.trans (Keeps.withLog (s := s.notice s.log.highNotice) rfl id id)

/-! ### The host link -/

theorem Link.startSending_keeps {s : State} {l : Link}
    (h : Keeps s (s.withLink l)) : Keeps s (s.withLink l.startSending) :=
  h.trans (Quiet.withLink (s := s.withLink l) (Link.startSending_quiet l)).keeps

theorem State.discard_keeps (f : LinkCounts → LinkCounts) (s : State) : Keeps s (s.withLink (s.link.discard f)) :=
  Keeps.withLink id id id

/-- A refusal takes a free place, so the reply path stays within its places (R160). -/
theorem State.refuse_keeps (kind tag : Byte) (code : ReplyCode) (s : State) : Keeps s (s.withLink (s.link.refuse kind tag code)) := by
  unfold Link.refuse
  split
  · exact Keeps.withLink id id id
  · rename_i place rest h
    refine Link.startSending_keeps (Keeps.withLink id (fun _ => ?_) id)
    have free : 0 < s.link.freePlaces := by
      have : s.link.freeList.length ≤ s.link.freePlaces := List.length_take_le _ _
      rw [h, List.length_cons] at this
      omega
    unfold Link.freePlaces at free
    simp only [Link.placesInUse, List.length_append, List.map_append, List.map_cons, List.length_cons, List.map_nil,
      List.length_nil] at free ⊢
    omega

theorem State.takeFrame_keeps (kind tag : Byte) (body : List Byte) (s : State) : Keeps s (s.takeFrame kind tag body) := by
  unfold State.takeFrame
  split
  · rename_i k hr hk
    refine Keeps.trans ?_ (State.setPlaces_quiet _).keeps
    refine Keeps.withLink (fun _ => ?_) (fun h => ?_) id
    · have room : ¬ Config.orderPlaces ≤ s.link.orders.length := by
        intro full
        simp only [Link.orderRefusal, hk, full, if_true] at hr
        split at hr <;> cases hr
      simp only [Link.accept, List.length_append, List.length_cons, List.length_nil]
      omega
    · simpa [Link.placesInUse, Link.accept, List.filterMap_append] using h
  · exact State.refuse_keeps _ _ _ s
  · exact Keeps.refl s

theorem State.receive_keeps (kind tag : Byte) (body : List Byte) (check : Word16) (s : State) :
    Keeps s (s.receive kind tag body check) := by
  unfold State.receive
  split
  · exact (State.discard_keeps _ s).trans (State.takeFrame_keeps _ _ _ _)
  · exact State.discard_keeps _ s

theorem Link.reset_keeps (s : State) : Keeps s (s.withLink s.link.reset) := by
  refine Keeps.withLink (fun _ => by simp [Link.reset]) (fun h => ?_) (fun _ => by simp [Link.reset, Link.noticeCount])
  simp only [Link.placesInUse, List.length_append, List.length_map, Link.reset, List.filterMap_nil, List.length_nil,
    List.map_nil] at h ⊢
  omega

theorem State.logReset_keeps (s : State) : Keeps s s.logReset := by
  have reset : Keeps s (s.withLog { s.log with lastReturned := 0 }) := Keeps.withLog rfl id id
  unfold State.logReset
  dsimp only
  split
  · exact reset.trans (State.warnHigh_keeps _)
  · exact reset

theorem Link.sent_keeps (s : State) : Keeps s (s.withLink s.link.sent) := by
  unfold Link.sent
  split
  · exact Keeps.refl s
  · rename_i h
    refine Link.startSending_keeps (Keeps.withLink id (fun k => ?_) (fun k => ?_))
    · simp only [Link.placesInUse, h, List.length_append, List.length_cons, List.length_nil] at k ⊢
      omega
    · simpa [Link.noticeCount, h] using k
  · rename_i h
    refine Link.startSending_keeps (Keeps.withLink id (fun k => ?_) (fun k => ?_))
    · simpa [Link.placesInUse, h] using k
    · simp only [Link.noticeCount, h] at k ⊢
      omega

/-! ### Zones -/

theorem State.takeReference_keeps (link : Nat) (reference : ReferenceState) (s : State) : Keeps s (s.takeReference link reference) := by
  unfold State.takeReference
  dsimp only
  split
  · exact (State.changeZoneLink_keeps _ _ s).trans (State.occurrence_keeps _ _ _)
  · exact State.changeZoneLink_keeps _ _ s

theorem State.takeReport_keeps (link : Nat) (windowCount : Word32) (items : List Operands.WindowItem) (s : State) :
    Keeps s (s.takeReport link windowCount items) := by
  unfold State.takeReport
  dsimp only
  exact (((State.recordSilent_keeps link s).trans (State.changeZone_keeps link (f := Zone.heard) (fun _ => rfl) (fun _ => rfl)
    (fun _ => rfl) _)).trans (State.changeZoneLink_keeps _ _ _)).trans (Keeps.foldl (fun s i => State.takeItem_keeps link i s) _ _)

theorem setZoneAct_keeps {v : Nat × Bool × ZoneSet} (h : ZoneSet.has v.2.2 v.1 = false) (s : State) :
    Keeps s (setZoneAct v s).2.2 := by
  have recorded : Keeps s (s.beforeSetZone v.1 v.2.1) := by
    unfold State.beforeSetZone
    split
    · exact State.recordDue_keeps _ s
    · exact Keeps.refl s
  exact recorded.trans (Keeps.withMonitor (Monitor.configure_settings _ _ _ _) (Monitor.configure_legal _ _ _ _ h))

theorem zoneRestoreAct_keeps (z : Nat) (s : State) : Keeps s (zoneRestoreAct z s).2.2 := by
  unfold zoneRestoreAct
  dsimp only
  split
  · exact Keeps.refl s
  · exact Keeps.refl s
  · split
    · exact Keeps.refl s
    · refine Keeps.withMonitor rfl (Monitor.legal_setZone rfl ?_ rfl)
      rintro ⟨⟩

theorem setFaultHandlingAct_keeps {v : FaultSettings}
    (h : (1 ≤ v.untakenLimit ∧ v.untakenLimit ≤ 15) ∧ 4 ≤ v.silenceLimit ∧ v.silenceLimit ≤ 255) (s : State) :
    Keeps s (setFaultHandlingAct v s).2.2 where
  memory := id
  queues := id
  settings := by
    rintro ⟨a, b, c, d, e, f, g, i, j, k, -⟩
    exact ⟨a, b, c, d, e, f, g, i, j, k, h.1.1, h.1.2, h.2⟩
  zones := id
  entries := id
  log := id

theorem clearFaultsAct_keeps (v : Nat × FaultSet) (s : State) : Keeps s (clearFaultsAct v s).2.2 :=
  Keeps.withMonitor rfl (Monitor.clear_legal _ _ _)

/-! ### The Retry Unit -/

theorem setPolicyAct_keeps {v : Nat × PolicyRow} (h : v.2.legal) (s : State) : Keeps s (setPolicyAct v s).2.2 where
  memory := id
  queues := id
  settings := by
    rintro ⟨a, b, c, d, length, rows, rest⟩
    refine ⟨a, b, c, d, (List.length_set ..).trans length, fun r hr => ?_, rest⟩
    rcases List.mem_or_eq_of_mem_set hr with hr | rfl
    · exact rows r hr
    · exact h
  zones := id
  entries := id
  log := id

theorem setReachAct_keeps {v : Nat × Nat} (h : (1 ≤ v.1 ∧ v.1 ≤ 255) ∧ 1 ≤ v.2 ∧ v.2 ≤ 255) (s : State) :
    Keeps s (setReachAct v s).2.2 where
  memory := id
  queues := id
  settings := by
    rintro ⟨a, b, c, d, e, f, -, -, -, -, rest⟩
    exact ⟨a, b, c, d, e, f, h.1.1, h.1.2, h.2.1, h.2.2, rest⟩
  zones := id
  entries := id
  log := id

theorem State.nextItem_keeps {kind : ItemKind} {s t : State} {i : ReverseItem} (h : s.nextItem kind = some (i, t)) : Keeps s t := by
  unfold State.nextItem at h
  split at h
  · cases h
  · rename_i i rest hq
    split at h
    · obtain ⟨rfl, rfl⟩ := Prod.mk.inj (Option.some.inj h)
      refine (Keeps.withZoneLinks fun k => ?_ : Keeps s (s.withZoneLinks { s.zoneLinks with reverseQueue := rest })).trans
        (State.withAnnounced_quiet _ _).keeps
      rw [hq, List.length_cons] at k
      exact Nat.le_of_succ_le k
    · cases h

theorem State.matchAck_quiet (i : ReverseItem) (s : State) : Quiet s (s.matchAck i) := by
  unfold State.matchAck
  split
  · exact ((State.leaveAwaitSet_quiet s _).trans (State.countRetry_quiet _ _)).trans (State.settle_quiet _ _ _ _)
  · split
    · exact ((State.leaveRetryList_quiet s _).trans (State.settle_quiet _ _ _ _)).trans (State.countRetry_quiet _ _)
    · exact State.countRetry_quiet s _

theorem State.registerItem_quiet (i : ReverseItem) (s : State) : Quiet s (s.registerItem i) := by
  unfold State.registerItem
  exact (State.countRetry_quiet s _).trans (Quiet.foldl (fun s x => ((State.leaveRetryList_quiet s _).trans
    (State.file_quiet _ _)).trans (State.countRetry_quiet _ _)) _ _)

theorem State.takeAnswer_quiet (a : ReachAnswer) (s : State) : Quiet s (s.takeAnswer a) := by
  unfold State.takeAnswer
  split
  · exact Quiet.refl s
  · rename_i x e _
    have left := State.leaveRetryList_quiet s x.entry
    dsimp only
    split
    · exact (left.trans (State.settle_quiet _ _ _ _)).trans (State.countRetry_quiet _ _)
    · split
      · exact (left.trans (State.settle_quiet _ _ _ _)).trans (State.countRetry_quiet _ _)
      · split
        · exact left.trans (State.file_quiet _ _)
        · exact left.trans (State.joinRetryList_quiet _ _)

/-! ### Part states -/

/-- The state after reset meets every law. -/
theorem State.reset_lawful : State.reset.memoryLegal ∧ State.reset.queuesBounded ∧ State.reset.settingsLegal ∧
    State.reset.monitor.legal ∧ State.reset.entriesLegal ∧ State.reset.logLegal := by
  have slots : State.reset.store.freeEntries.slots = List.range' 0 Config.entrySlots := by simp [FreeList.slots, State.reset]
  have free : ∀ n, State.reset.store.entry n = none := fun _ => rfl
  refine ⟨rfl, ⟨by decide, by decide, by decide, by decide⟩, ?_, ?_, ?_, ⟨by decide, by rintro ⟨⟩⟩⟩
  · refine ⟨by decide, by decide, by decide, ?_, by decide, ?_, by decide, by decide, by decide, by decide, by decide, by decide,
      by decide, by decide⟩
    · rintro b ⟨⟩
    · unfold PolicyRow.legal; decide
  · exact fun z _ => ⟨by simp [State.reset, Monitor.zone, Table.get, ZoneSet.has], fun _ => rfl,
      by simp [State.reset, Monitor.zone, Table.get, ZoneSet.has]⟩
  · refine ⟨?_, fun n => ?_, fun n _ => free n, ?_, by decide⟩
    · rw [slots]; exact List.nodup_range'
    · rw [slots]; simp [free]
    · rw [slots, List.length_range']; exact Nat.zero_add _

/-- The machine after power-on meets every law but that of memory, which it keeps as found (R167). -/
theorem State.powerOn_keeps (hostRate zoneRate : Nat) (s : State) : Keeps s (s.powerOn hostRate zoneRate) := by
  obtain ⟨-, queues, settings, zones, entries, log⟩ := State.reset_lawful
  exact ⟨id, fun _ => queues, fun _ => settings, fun _ => zones, fun _ => entries, fun _ => log⟩

theorem State.withPartState_keeps (v : PartState) (s : State) : Keeps s (s.withPartState v) := Keeps.withLink id id id

theorem State.begin_keeps (s : State) : Keeps s s.begin := by
  have running : Keeps s ((s.withPartState .running).withTimer s.timer.start) :=
    (State.withPartState_keeps _ s).trans (Keeps.withTimer _ _)
  unfold State.begin
  refine Keeps.trans ?_ (State.settleDown_keeps _)
  refine Keeps.trans ?_ (State.announce_keeps _ _ _)
  exact running.trans (Keeps.withRetry rfl rfl rfl)

theorem startAct_keeps (body : List Byte) (s : State) : Keeps s (startAct body s).2.2 := by
  unfold startAct
  split
  · exact Keeps.refl s
  · exact State.begin_keeps s

theorem State.takeRestart_keeps (place : Nat) (s : State) : Keeps s (s.takeRestart place) := by
  unfold State.takeRestart
  split
  · exact State.reply_keeps _ _ _ s
  · unfold State.beginRestart
    refine Keeps.trans ?_ (State.settleDown_keeps _)
    refine Keeps.trans ?_ (State.cancelAssembly_keeps _)
    refine Keeps.trans ?_ ((State.cancelRetries_quiet _).trans (State.cancelHeldWhenDue_quiet _)).keeps
    refine Keeps.trans ?_ (Keeps.withTimer _ _)
    exact Keeps.withLink id id id

theorem State.endRestart_keeps (linesWritten : Nat) (s : State) : Keeps s (s.endRestart linesWritten) := by
  have cleared := (State.recordAllDue_keeps s).trans (State.afterRestart_keeps s.recordAllDue)
  unfold State.endRestart
  dsimp only
  generalize s.recordAllDue.withMonitor s.recordAllDue.monitor.afterRestart = u at cleared
  split
  · exact cleared.trans (State.withPartState_keeps _ u)
  · refine cleared.trans (Keeps.trans ?_ (State.reply_keeps _ _ _ _))
    exact Keeps.withLink id id id

end Sys2Proof.Machine
end

section
/-! SUPPORT. Every command keeps the laws, and so does every step (O58, O60). -/

namespace Sys2Proof.Machine

/-- What follows of itself keeps the laws. -/
theorem settled_keeps {s t : State} (h : Keeps s t) : Keeps s t.settleDown := h.trans (State.settleDown_keeps t)

theorem execPowerOn_lawful (hostRate zoneRate : Nat) (s : State) : Result.Lawful s (execPowerOn hostRate zoneRate s) := by
  unfold execPowerOn
  split
  · exact Result.lawful_next (State.powerOn_keeps _ _ s)
  · exact Result.lawful_refused s _

theorem execSubmit_lawful (s : State) : Result.Lawful s (execSubmit s) := by
  unfold execSubmit
  refine Result.lawful_next ?_
  split
  · exact Keeps.refl s
  · rename_i h
    exact ((State.takeOrder_keeps h).trans (State.takeSubmit_keeps _ _ _)).trans (State.settleDown_keeps _)

theorem execIntakeReadServed_lawful (s : State) : Result.Lawful s (execIntakeReadServed s) := by
  unfold execIntakeReadServed
  refine Result.lawful_next ?_
  split
  · exact settled_keeps ((State.serveHolding_quiet s _ _).keeps.trans (State.completeSubmit_progress _ _ _ _ _).keeps)
  · exact Keeps.refl s

theorem execSubmitGroup_lawful (s : State) : Result.Lawful s (execSubmitGroup s) := by
  unfold execSubmitGroup
  refine Result.lawful_next ?_
  split
  · exact Keeps.refl s
  · rename_i h
    exact ((State.takeOrder_keeps h).trans (State.takeSubmitGroup_keeps _ _ _)).trans (State.settleDown_keeps _)

theorem execGroupMemberReadServed_lawful (s : State) : Result.Lawful s (execGroupMemberReadServed s) := by
  unfold execGroupMemberReadServed
  refine Result.lawful_next ?_
  split
  · exact settled_keeps ((State.serveHolding_quiet s _ _).keeps.trans (State.completeMember_progress _ _ _ _).keeps)
  · exact Keeps.refl s

theorem execCancel_lawful (s : State) : Result.Lawful s (execCancel s) := by
  unfold execCancel
  refine Result.lawful_next ?_
  split
  · exact Keeps.refl s
  · rename_i h
    exact (State.takeOrder_keeps h).trans (State.takeCancel_keeps _ _ _)

theorem execCancelRequest_lawful (s : State) : Result.Lawful s (execCancelRequest s) := by
  unfold execCancelRequest
  refine Result.lawful_next ?_
  split
  · split
    · exact Keeps.refl s
    · exact settled_keeps (State.takeCancelRequest_quiet s _ _ _).keeps
  all_goals exact Keeps.refl s

theorem execSetAdmission_lawful (s : State) : Result.Lawful s (execSetAdmission s) := by
  exact Result.lawful_next (State.answerOrder_keeps _ (outsideRestart_keeps (withOperand_keeps fun _ _ h =>
    setAdmissionAct_keeps (Operands.setAdmission_range h))) s)

theorem execQueryMessage_lawful (s : State) : Result.Lawful s (execQueryMessage s) := by
  exact Result.lawful_next (State.answerOrder_keeps _ (outsideRestart_keeps fun body t => by
    rw [queryMessageAct_state]; exact Keeps.refl t) s)

theorem execGroupSet_lawful (s : State) : Result.Lawful s (execGroupSet s) := by
  exact Result.lawful_next (State.answerOrder_keeps _ (outsideRestart_keeps (withOperand_keeps fun _ p _ =>
    groupSetAct_keeps p)) s)

theorem execGroupRead_lawful (s : State) : Result.Lawful s (execGroupRead s) := by
  exact Result.lawful_next (State.answerOrder_keeps _ (outsideRestart_keeps (withOperand_keeps fun _ v _ t => by
    rw [groupReadAct_state]; exact Keeps.refl t)) s)

theorem execReadSub_lawful (s : State) : Result.Lawful s (execReadSub s) := by
  unfold execReadSub
  refine Result.lawful_next ?_
  split
  · exact Keeps.refl s
  · rename_i h
    exact ((State.takeOrder_keeps h).trans (State.takeReadSub_keeps _ _ _)).trans (State.settleDown_keeps _)

theorem execReadSubServed_lawful (n : Nat) (s : State) : Result.Lawful s (execReadSubServed n s) := by
  unfold execReadSubServed
  split
  · refine Result.lawful_next ?_
    split
    · exact Keeps.refl s
    · exact settled_keeps (State.serveReadSub_keeps _ _ s)
  · exact Result.lawful_refused s _

theorem execHostReadDone_lawful (s : State) : Result.Lawful s (execHostReadDone s) := by
  unfold execHostReadDone
  split
  · rename_i n rest h
    have completed := State.completion_keeps h
    split
    · refine Result.lawful_next ?_
      split
      · exact settled_keeps (completed.trans (State.endHostRead_keeps _ _ rest))
      · exact completed
    · exact Result.lawful_fault s _
  · exact Result.lawful_next (Keeps.refl s)

theorem execWriteSub_lawful (s : State) : Result.Lawful s (execWriteSub s) := by
  unfold execWriteSub
  refine Result.lawful_next ?_
  split
  · exact Keeps.refl s
  · rename_i h
    exact ((State.takeOrder_keeps h).trans (State.takeWriteSub_keeps _ _ _)).trans (State.settleDown_keeps _)

theorem execWriteSubReadDone_lawful (s : State) : Result.Lawful s (execWriteSubReadDone s) := by
  unfold execWriteSubReadDone
  split
  · rename_i n rest h
    have completed := State.completion_keeps h
    split
    · refine Result.lawful_next ?_
      split
      · exact settled_keeps (completed.trans (State.endWriteRead_keeps _ _ _ rest))
      · exact completed
    · exact Result.lawful_fault s _
  · exact Result.lawful_next (Keeps.refl s)

theorem execRepairSub_lawful (s : State) : Result.Lawful s (execRepairSub s) := by
  unfold execRepairSub
  refine Result.lawful_next ?_
  split
  · exact Keeps.refl s
  · rename_i h
    exact ((State.takeOrder_keeps h).trans (State.takeRepairSub_keeps _ _ _)).trans (State.settleDown_keeps _)

theorem execHostWriteDone_lawful (s : State) : Result.Lawful s (execHostWriteDone s) := by
  unfold execHostWriteDone
  split
  · rename_i n r rest h
    split
    · exact Result.lawful_next (settled_keeps ((State.completion_keeps h).trans (State.endHostWrite_keeps _ _ rest)))
    · exact Result.lawful_fault s _
  · exact Result.lawful_next (Keeps.refl s)

theorem execInitRecords_lawful (s : State) : Result.Lawful s (execInitRecords s) := by
  unfold execInitRecords
  refine Result.lawful_next ?_
  split
  · exact Keeps.refl s
  · rename_i h
    exact (State.takeOrder_keeps h).trans (State.takeInitRecords_keeps _ _ _)

theorem execInitRecordWrite_lawful (s : State) : Result.Lawful s (execInitRecordWrite s) := by
  unfold execInitRecordWrite
  refine Result.lawful_next ?_
  split
  · split
    · exact settled_keeps (State.writeDefault_keeps _ _ _ _ s)
    · exact Keeps.refl s
  all_goals exact Keeps.refl s

theorem execInitRecordsDone_lawful (s : State) : Result.Lawful s (execInitRecordsDone s) := by
  unfold execInitRecordsDone
  split
  · rename_i n r rest h
    have written := (State.completion_keeps h).trans (State.writeRecord_keeps n r rest)
    split
    · refine Result.lawful_next ?_
      split
      · refine settled_keeps (written.trans (Keeps.trans ?_ (State.reply_keeps _ _ _ _)))
        exact Keeps.withCache (s := rest.writeRecord n r) id id
      · exact written
      · exact written
    · exact Result.lawful_fault s _
  · exact Result.lawful_next (Keeps.refl s)

theorem execFlush_lawful (s : State) : Result.Lawful s (execFlush s) := by
  unfold execFlush
  refine Result.lawful_next ?_
  split
  · exact Keeps.refl s
  · rename_i h
    exact (State.takeOrder_keeps h).trans (flushTake_keeps _ _)

theorem execFlushVisit_lawful (s : State) : Result.Lawful s (execFlushVisit s) := by
  unfold execFlushVisit
  refine Result.lawful_next ?_
  split
  · split
    · exact settled_keeps (Cache.visit_keeps _ _ _ _ s)
    · exact Keeps.refl s
  all_goals exact Keeps.refl s

theorem execFlushDone_lawful (s : State) : Result.Lawful s (execFlushDone s) := by
  unfold execFlushDone
  refine Result.lawful_next ?_
  split
  · rename_i h
    exact settled_keeps ((State.sweepEnd_keeps h).trans (State.reply_keeps _ _ _ _))
  all_goals exact Keeps.refl s

theorem execSetCache_lawful (s : State) : Result.Lawful s (execSetCache s) := by
  exact Result.lawful_next (State.answerOrder_keeps _ (outsideRestart_keeps (withOperand_keeps fun _ _ h =>
    setCacheAct_keeps (Operands.setCache_range h))) s)

theorem execSetAddressBase_lawful (s : State) : Result.Lawful s (execSetAddressBase s) := by
  exact Result.lawful_next (State.answerOrder_keeps _ (inConfig_keeps (withOperand_keeps fun _ _ h =>
    setAddressBaseAct_keeps (Operands.within_spec h).2)) s)

theorem execFillDone_lawful (s : State) : Result.Lawful s (execFillDone s) := by
  unfold execFillDone
  split
  · rename_i n way rest h
    split
    · exact Result.lawful_next (settled_keeps ((State.completion_keeps h).trans (State.endFillRead_keeps _ _ rest)))
    · exact Result.lawful_fault s _
  · exact Result.lawful_next (Keeps.refl s)

theorem execCastoutDone_lawful (s : State) : Result.Lawful s (execCastoutDone s) := by
  unfold execCastoutDone
  split
  · rename_i n r rest h
    split
    · exact Result.lawful_next ((State.completion_keeps h).trans (State.writeRecord_keeps _ _ rest))
    · exact Result.lawful_fault s _
  · exact Result.lawful_next (Keeps.refl s)

theorem execWriteBackDone_lawful (s : State) : Result.Lawful s (execWriteBackDone s) := by
  unfold execWriteBackDone
  split
  · rename_i n r bySweep rest h
    split
    · refine Result.lawful_next ?_
      split
      · exact Keeps.refl s
      · exact settled_keeps ((State.completion_keeps h).trans (State.endWriteBack_keeps _ _ _ rest))
    · exact Result.lawful_fault s _
  · exact Result.lawful_next (Keeps.refl s)

theorem execThroughWriteDone_lawful (s : State) : Result.Lawful s (execThroughWriteDone s) := by
  unfold execThroughWriteDone
  split
  · rename_i n r rest h
    split
    · exact Result.lawful_next ((State.completion_keeps h).trans (State.writeRecord_keeps _ _ rest))
    · exact Result.lawful_fault s _
  · exact Result.lawful_next (Keeps.refl s)

theorem execSetTiming_lawful (s : State) : Result.Lawful s (execSetTiming s) := by
  refine Result.lawful_next (State.answerOrder_keeps _ (outsideRestart_keeps (withOperand_keeps fun _ g _ t => ?_)) s)
  unfold setTimingAct
  split
  · exact Keeps.withTimer t _
  · split
    · exact Keeps.refl t
    · exact Keeps.withTimer t _

theorem execFrameStart_lawful (s : State) : Result.Lawful s (execFrameStart s) := by
  unfold execFrameStart
  refine Result.lawful_next ?_
  split
  · exact State.startFrame_keeps s
  · exact Keeps.refl s

theorem execStrobe_lawful (elapsed : Nat) (s : State) : Result.Lawful s (execStrobe elapsed s) := by
  unfold execStrobe
  refine Result.lawful_next ?_
  split
  · exact Keeps.withTimer s _
  · exact State.resume_keeps _ s
  · split
    · exact Keeps.withTimer s _
    · split
      · exact Keeps.withTimer s _
      · exact State.startFrame_keeps s

theorem execStrobeLoss_lawful (s : State) : Result.Lawful s (execStrobeLoss s) := by
  unfold execStrobeLoss
  refine Result.lawful_next ?_
  split
  · exact settled_keeps (((Keeps.withTimer s _).trans (State.notice_keeps _ _)).trans (State.withdrawOffered_keeps _))
  · exact Keeps.refl s

theorem execCycleTurn_lawful (s : State) : Result.Lawful s (execCycleTurn s) := by
  unfold execCycleTurn
  refine Result.lawful_next ?_
  split
  · exact State.startFrame_keeps s
  · exact Keeps.refl s

theorem execTaken_lawful (link : Nat) (body : List Byte) (s : State) : Result.Lawful s (execTaken link body s) := by
  unfold execTaken
  split
  · refine Result.lawful_next ?_
    split
    · exact State.badZoneFrame_keeps _ _ s
    · exact State.changeZoneLink_keeps _ _ s
  · exact Result.lawful_refused s _

theorem execReject_lawful (link : Nat) (body : List Byte) (s : State) : Result.Lawful s (execReject link body s) := by
  unfold execReject
  split
  · refine Result.lawful_next ?_
    split
    · exact State.badZoneFrame_keeps _ _ s
    · exact (State.changeZoneLink_keeps _ _ s).trans (State.occurrence_keeps _ _ _)
  · exact Result.lawful_refused s _

theorem execStateReport_lawful (link : Nat) (body : List Byte) (s : State) : Result.Lawful s (execStateReport link body s) := by
  unfold execStateReport
  split
  · refine Result.lawful_next ?_
    split
    · exact State.badZoneFrame_keeps _ _ s
    · split
      · exact State.takeReference_keeps _ _ s
      · exact State.countZone_keeps _ _ s
  · exact Result.lawful_refused s _

theorem execWindow_lawful (link : Nat) (body : List Byte) (s : State) : Result.Lawful s (execWindow link body s) := by
  unfold execWindow
  split
  · refine Result.lawful_next ?_
    split
    · exact State.badZoneFrame_keeps _ _ s
    · split
      · exact State.takeReport_keeps _ _ _ s
      · exact State.countZone_keeps _ _ s
  · exact Result.lawful_refused s _

theorem execZoneBadFrame_lawful (link : Nat) (frame : ZoneFrameIn) (s : State) : Result.Lawful s (execZoneBadFrame link frame s) := by
  unfold execZoneBadFrame
  split
  · refine Result.lawful_next ?_
    split
    · exact Keeps.refl s
    · exact State.badZoneFrame_keeps _ _ s
  · exact Result.lawful_refused s _

theorem execZoneGapTimeout_lawful (link : Nat) (kind : Option Byte) (s : State) : Result.Lawful s (execZoneGapTimeout link kind s) := by
  unfold execZoneGapTimeout
  split
  · exact Result.lawful_next (State.badZoneFrame_keeps _ _ s)
  · exact Result.lawful_refused s _

theorem execAck_lawful (s : State) : Result.Lawful s (execAck s) := by
  unfold execAck
  refine Result.lawful_next ?_
  split
  · exact Keeps.refl s
  · rename_i h
    exact settled_keeps (((State.nextItem_keeps h).trans (State.post_keeps _ _ _)).trans (State.matchAck_quiet _ _).keeps)

theorem execRegister_lawful (s : State) : Result.Lawful s (execRegister s) := by
  unfold execRegister
  refine Result.lawful_next ?_
  split
  · exact Keeps.refl s
  · rename_i h
    exact settled_keeps (((State.nextItem_keeps h).trans (State.post_keeps _ _ _)).trans (State.registerItem_quiet _ _).keeps)

theorem execDeadlineMiss_lawful (s : State) : Result.Lawful s (execDeadlineMiss s) := by
  unfold execDeadlineMiss
  refine Result.lawful_next ?_
  split
  · exact Keeps.refl s
  · exact settled_keeps (State.takeAnnounced_quiet s).keeps

theorem execReachReadAnswer_lawful (s : State) : Result.Lawful s (execReachReadAnswer s) := by
  unfold execReachReadAnswer
  refine Result.lawful_next ?_
  split
  · exact Keeps.refl s
  · split
    · exact Keeps.refl s
    · refine settled_keeps (Keeps.trans ?_ (State.takeAnswer_quiet _ _).keeps)
      exact Keeps.withRetry rfl rfl rfl

theorem execSetPolicy_lawful (s : State) : Result.Lawful s (execSetPolicy s) := by
  exact Result.lawful_next (State.answerOrder_keeps _ (outsideRestart_keeps (withOperand_keeps fun _ _ h =>
    setPolicyAct_keeps (Operands.setPolicy_range h))) s)

theorem execSetReach_lawful (s : State) : Result.Lawful s (execSetReach s) := by
  exact Result.lawful_next (State.answerOrder_keeps _ (outsideRestart_keeps (withOperand_keeps fun _ _ h =>
    setReachAct_keeps (Operands.setReach_range h))) s)

theorem execPlanSet_lawful (s : State) : Result.Lawful s (execPlanSet s) := by
  exact Result.lawful_next (State.answerOrder_keeps _ (outsideRestart_keeps (withOperand_keeps fun _ v _ =>
    planSetAct_keeps v)) s)

theorem execPlanRead_lawful (s : State) : Result.Lawful s (execPlanRead s) := by
  exact Result.lawful_next (State.answerOrder_keeps _ (outsideRestart_keeps (withOperand_keeps fun _ _ _ => Keeps.refl)) s)

theorem execClosePeriod_lawful (s : State) : Result.Lawful s (execClosePeriod s) := by
  exact Result.lawful_next (State.answerOrder_keeps _ closePeriodAct_keeps s)

theorem execTopUp_lawful (s : State) : Result.Lawful s (execTopUp s) := by
  unfold execTopUp
  refine Result.lawful_next ?_
  split
  · exact Keeps.refl s
  · rename_i h
    exact ((State.takeOrder_keeps h).trans (State.takeTopUp_keeps _ _ _)).trans (State.settleDown_keeps _)

theorem execTopUpReadServed_lawful (s : State) : Result.Lawful s (execTopUpReadServed s) := by
  unfold execTopUpReadServed
  refine Result.lawful_next ?_
  split
  · exact settled_keeps ((State.serveHolding_quiet s _ _).keeps.trans (State.completeTopUp_keeps _ _ _ _ _))
  · exact Keeps.refl s

theorem execAdjust_lawful (s : State) : Result.Lawful s (execAdjust s) := by
  unfold execAdjust
  refine Result.lawful_next ?_
  split
  · exact Keeps.refl s
  · rename_i h
    exact ((State.takeOrder_keeps h).trans (State.takeAdjust_keeps _ _ _)).trans (State.settleDown_keeps _)

theorem execAdjustReadServed_lawful (s : State) : Result.Lawful s (execAdjustReadServed s) := by
  unfold execAdjustReadServed
  refine Result.lawful_next ?_
  split
  · exact settled_keeps ((State.serveHolding_quiet s _ _).keeps.trans (State.completeAdjust_keeps _ _ _ _ _))
  · exact Keeps.refl s

theorem execSettlement_lawful (s : State) : Result.Lawful s (execSettlement s) := by
  unfold execSettlement
  refine Result.lawful_next ?_
  split
  · exact settled_keeps ((State.serveHolding_quiet s _ _).keeps.trans (State.settleServed_progress _ _ _).keeps)
  · exact Keeps.refl s

theorem execCollect_lawful (s : State) : Result.Lawful s (execCollect s) := by
  unfold execCollect
  refine Result.lawful_next ?_
  split
  · exact Keeps.refl s
  · rename_i h
    exact settled_keeps (((State.takeOrder_keeps h).trans (collectAct_keeps _ _)).trans (State.reply_keeps _ _ _ _))

theorem execSetNotices_lawful (s : State) : Result.Lawful s (execSetNotices s) := by
  exact Result.lawful_next (State.answerOrder_keeps _ (outsideRestart_keeps (withOperand_keeps fun _ v _ =>
    setNoticesAct_keeps v)) s)

theorem execSetZone_lawful (s : State) : Result.Lawful s (execSetZone s) := by
  exact Result.lawful_next (State.answerOrder_keeps _ (outsideRestart_keeps (withOperand_keeps fun _ _ h =>
    setZoneAct_keeps (Operands.setZone_range h))) s)

theorem execZoneRestore_lawful (s : State) : Result.Lawful s (execZoneRestore s) := by
  exact Result.lawful_next (State.answerOrder_keeps _ (outsideRestart_keeps (withOperand_keeps fun _ z _ =>
    zoneRestoreAct_keeps z)) s)

theorem execSetFaultHandling_lawful (s : State) : Result.Lawful s (execSetFaultHandling s) := by
  exact Result.lawful_next (State.answerOrder_keeps _ (outsideRestart_keeps (withOperand_keeps fun _ _ h =>
    setFaultHandlingAct_keeps (Operands.setFaultHandling_range h))) s)

theorem execClearFaults_lawful (s : State) : Result.Lawful s (execClearFaults s) := by
  exact Result.lawful_next (State.answerOrder_keeps _ (outsideRestart_keeps (withOperand_keeps fun _ v _ =>
    clearFaultsAct_keeps v)) s)

theorem execReadFaults_lawful (s : State) : Result.Lawful s (execReadFaults s) := by
  exact Result.lawful_next (State.answerOrder_keeps _ (fun _ t => Keeps.refl t) s)

theorem execUntaken_lawful (zone : Nat) (s : State) : Result.Lawful s (execUntaken zone s) := by
  unfold execUntaken
  split
  · exact Result.lawful_next (State.recordUntaken_keeps _ s)
  · exact Result.lawful_refused s _

theorem execRevSilent_lawful (zone : Nat) (s : State) : Result.Lawful s (execRevSilent zone s) := by
  unfold execRevSilent
  split
  · exact Result.lawful_next (State.recordSilent_keeps _ s)
  · exact Result.lawful_refused s _

theorem execStatus_lawful (s : State) : Result.Lawful s (execStatus s) := by
  exact Result.lawful_next (State.answerOrder_keeps _ (withOperand_keeps fun _ _ _ => Keeps.refl) s)

theorem execStart_lawful (s : State) : Result.Lawful s (execStart s) := by
  exact Result.lawful_next (State.answerOrder_keeps _ startAct_keeps s)

theorem execRestart_lawful (s : State) : Result.Lawful s (execRestart s) := by
  unfold execRestart
  refine Result.lawful_next ?_
  split
  · exact Keeps.refl s
  · rename_i h
    exact (State.takeOrder_keeps h).trans (State.takeRestart_keeps _ _)

theorem execRestartDrainDone_lawful (s : State) : Result.Lawful s (execRestartDrainDone s) := by
  unfold execRestartDrainDone
  refine Result.lawful_next ?_
  split
  · exact Keeps.withCache id id
  · exact Keeps.refl s

theorem execRestartComplete_lawful (s : State) : Result.Lawful s (execRestartComplete s) := by
  unfold execRestartComplete
  refine Result.lawful_next ?_
  split
  · rename_i h
    exact settled_keeps ((State.sweepEnd_keeps h).trans (State.endRestart_keeps _ _))
  · exact Keeps.refl s

theorem execHostFrame_lawful (kind tag : Byte) (body : List Byte) (check : Word16) (s : State) : Result.Lawful s (execHostFrame kind tag body check s) := by
  unfold execHostFrame
  split
  · refine Result.lawful_next ?_
    split
    · exact Keeps.refl s
    · exact State.receive_keeps _ _ _ _ s
  · exact Result.lawful_refused s _

theorem execHostGapTimeout_lawful (s : State) : Result.Lawful s (execHostGapTimeout s) := by
  unfold execHostGapTimeout
  refine Result.lawful_next ?_
  split
  · exact State.discard_keeps _ s
  · exact Keeps.refl s

theorem execLinkReset_lawful (s : State) : Result.Lawful s (execLinkReset s) := by
  unfold execLinkReset
  refine Result.lawful_next ?_
  split
  · exact Keeps.refl s
  · exact (Link.reset_keeps s).trans (State.logReset_keeps _)

theorem execBreakEnd_lawful (s : State) : Result.Lawful s (execBreakEnd s) := by
  unfold execBreakEnd
  refine Result.lawful_next ?_
  split
  · exact Link.startSending_keeps (Keeps.withLink id id id)
  · exact Keeps.refl s

theorem execFrameSent_lawful (s : State) : Result.Lawful s (execFrameSent s) := by
  unfold execFrameSent
  refine Result.lawful_next ?_
  split
  · exact (Link.sent_keeps s).trans (State.setPlaces_quiet _).keeps
  · exact Link.sent_keeps s

theorem execHostSync_lawful (s : State) : Result.Lawful s (execHostSync s) := by
  unfold execHostSync
  refine Result.lawful_next ?_
  split
  · exact Keeps.withLink id id id
  · exact Keeps.refl s

theorem execHostLineError_lawful (s : State) : Result.Lawful s (execHostLineError s) := by
  unfold execHostLineError
  refine Result.lawful_next ?_
  split
  · exact State.discard_keeps _ s
  · exact Keeps.refl s

theorem execHostLengthDiscard_lawful (length : Word16) (s : State) : Result.Lawful s (execHostLengthDiscard length s) := by
  unfold execHostLengthDiscard
  split
  · refine Result.lawful_next ?_
    split
    · exact State.discard_keeps _ s
    · exact Keeps.refl s
  · exact Result.lawful_refused s _

/-- Every command keeps every law. -/
theorem exec_lawful (c : Instr) (s : State) : Result.Lawful s (exec c s) :=
  match c with
  | .powerOn hostRate zoneRate => execPowerOn_lawful hostRate zoneRate s
  | .submit => execSubmit_lawful s
  | .intakeReadServed => execIntakeReadServed_lawful s
  | .submitGroup => execSubmitGroup_lawful s
  | .groupMemberReadServed => execGroupMemberReadServed_lawful s
  | .cancel => execCancel_lawful s
  | .cancelRequest => execCancelRequest_lawful s
  | .setAdmission => execSetAdmission_lawful s
  | .queryMessage => execQueryMessage_lawful s
  | .groupSet => execGroupSet_lawful s
  | .groupRead => execGroupRead_lawful s
  | .readSub => execReadSub_lawful s
  | .readSubServed n => execReadSubServed_lawful n s
  | .hostReadDone => execHostReadDone_lawful s
  | .writeSub => execWriteSub_lawful s
  | .writeSubReadDone => execWriteSubReadDone_lawful s
  | .repairSub => execRepairSub_lawful s
  | .hostWriteDone => execHostWriteDone_lawful s
  | .initRecords => execInitRecords_lawful s
  | .initRecordWrite => execInitRecordWrite_lawful s
  | .initRecordsDone => execInitRecordsDone_lawful s
  | .flush => execFlush_lawful s
  | .flushVisit => execFlushVisit_lawful s
  | .flushDone => execFlushDone_lawful s
  | .setCache => execSetCache_lawful s
  | .setAddressBase => execSetAddressBase_lawful s
  | .fillDone => execFillDone_lawful s
  | .castoutDone => execCastoutDone_lawful s
  | .writeBackDone => execWriteBackDone_lawful s
  | .throughWriteDone => execThroughWriteDone_lawful s
  | .setTiming => execSetTiming_lawful s
  | .frameStart => execFrameStart_lawful s
  | .strobe elapsed => execStrobe_lawful elapsed s
  | .strobeLoss => execStrobeLoss_lawful s
  | .cycleTurn => execCycleTurn_lawful s
  | .taken link body => execTaken_lawful link body s
  | .reject link body => execReject_lawful link body s
  | .stateReport link body => execStateReport_lawful link body s
  | .window link body => execWindow_lawful link body s
  | .zoneBadFrame link frame => execZoneBadFrame_lawful link frame s
  | .zoneGapTimeout link kind => execZoneGapTimeout_lawful link kind s
  | .ack => execAck_lawful s
  | .register => execRegister_lawful s
  | .deadlineMiss => execDeadlineMiss_lawful s
  | .reachReadAnswer => execReachReadAnswer_lawful s
  | .setPolicy => execSetPolicy_lawful s
  | .setReach => execSetReach_lawful s
  | .planSet => execPlanSet_lawful s
  | .planRead => execPlanRead_lawful s
  | .closePeriod => execClosePeriod_lawful s
  | .topUp => execTopUp_lawful s
  | .topUpReadServed => execTopUpReadServed_lawful s
  | .adjust => execAdjust_lawful s
  | .adjustReadServed => execAdjustReadServed_lawful s
  | .settlement => execSettlement_lawful s
  | .collect => execCollect_lawful s
  | .setNotices => execSetNotices_lawful s
  | .setZone => execSetZone_lawful s
  | .zoneRestore => execZoneRestore_lawful s
  | .setFaultHandling => execSetFaultHandling_lawful s
  | .clearFaults => execClearFaults_lawful s
  | .readFaults => execReadFaults_lawful s
  | .untaken zone => execUntaken_lawful zone s
  | .revSilent zone => execRevSilent_lawful zone s
  | .status => execStatus_lawful s
  | .start => execStart_lawful s
  | .restart => execRestart_lawful s
  | .restartDrainDone => execRestartDrainDone_lawful s
  | .restartComplete => execRestartComplete_lawful s
  | .hostFrame kind tag body check => execHostFrame_lawful kind tag body check s
  | .hostGapTimeout => execHostGapTimeout_lawful s
  | .linkReset => execLinkReset_lawful s
  | .breakEnd => execBreakEnd_lawful s
  | .frameSent => execFrameSent_lawful s
  | .hostSync => execHostSync_lawful s
  | .hostLineError => execHostLineError_lawful s
  | .hostLengthDiscard length => execHostLengthDiscard_lawful length s

/-- Every step keeps every law. -/
theorem step_keeps {s t : State} (h : step s = .next t) : Keeps s t := by
  unfold step at h
  split at h
  · obtain rfl := Host.Outcome.next.inj h
    exact Keeps.refl s
  · exact (Keeps.withPending s _).trans (exec_lawful _ _ t h)

/-- Settles O58: each law by itself is kept, so every step keeps them all. -/
theorem stepKeepsBoundsAndSettings : Obligations.StepKeepsBoundsAndSettings := fun _ _ h =>
  ⟨(step_keeps h).memory, (step_keeps h).queues, (step_keeps h).settings, (step_keeps h).zones⟩

/-- Settles O60: entries are created, and freed with a record appended, in the acts of `Progress` alone. -/
theorem stepKeepsEntriesAndLog : Obligations.StepKeepsEntriesAndLog := fun _ _ h => ⟨(step_keeps h).entries, (step_keeps h).log⟩

end Sys2Proof.Machine
end

section
/-! SUPPORT. Entries changed and settled, clamping, fields of an order, GROUP_READ (O28, O39, O9). -/

namespace Sys2Proof.Machine

/-! ### Entries changed and settled -/

theorem Store.changeEntry_of_some {t : Store} {n : Nat} {e : Entry} (h : t.entry n = some e) (f : Entry → Entry) :
    t.changeEntry n f = t.setEntry n (some (f e)) := by
  simp only [Store.changeEntry, h]

theorem Store.changeEntry_of_none {t : Store} {n : Nat} (h : t.entry n = none) (f : Entry → Entry) : t.changeEntry n f = t := by
  simp only [Store.changeEntry, h]

/-- Changing an entry changes the entries alone. -/
theorem Store.changeEntry_frame (t : Store) (n : Nat) (f : Entry → Entry) :
    t.changeEntry n f = { t with entries := (t.changeEntry n f).entries } := by
  cases h : t.entry n with
  | none => rw [Store.changeEntry_of_none h]
  | some e => rw [Store.changeEntry_of_some h]; rfl

/-- What a slot holds after an entry is changed. -/
theorem Store.entry_changeEntry (t : Store) (n m : Nat) (f : Entry → Entry) :
    (t.changeEntry n f).entry m = if n = m then (t.entry m).map f else t.entry m := by
  cases h : t.entry n with
  | none =>
    rw [Store.changeEntry_of_none h]
    split
    · rename_i e; subst e; rw [h]; rfl
    · rfl
  | some e =>
    rw [Store.changeEntry_of_some h, Store.entry_setEntry]
    split
    · rename_i e; subst e; rw [h]; rfl
    · rfl

theorem Store.entry_changeEntry_other (t : Store) {n m : Nat} (f : Entry → Entry) (h : n ≠ m) :
    (t.changeEntry n f).entry m = t.entry m := by rw [Store.entry_changeEntry, if_neg h]

/-- Settling an entry, all at once (R3, R124). -/
theorem State.settle_eq (n : Nat) (outcome : EntryOutcome) (code : Nat) (s : State) :
    s.settle n outcome code = { s with
      store := s.store.changeEntry n (fun e => { e with state := .settling, outcome := some outcome, replyCode := some code })
      charging := { s.charging with settleList := s.charging.settleList ++ [{ entry := n, outcomeCycle := s.timer.cycle }] } } := rfl

/-- Settles O28: the entry's change is the one change of the store. -/
theorem settlingJoinsTail : Obligations.SettlingJoinsTail := by
  intro s n outcome code t
  have ht : t = _ := State.settle_eq n outcome code s
  refine ⟨?_, fun e he => ?_, fun m hm => ?_⟩
  · rw [ht, Store.changeEntry_frame]
  · rw [ht]
    show (s.store.changeEntry n _).entry n = _
    rw [Store.entry_changeEntry, if_pos rfl, he]
    rfl
  · rw [ht]
    exact Store.entry_changeEntry_other _ _ (Ne.symm hm)

/-! ### Clamping (R7) -/

theorem numericByte_iff (b : Byte) :
    numericByte b = true ↔ (0x30 ≤ b ∧ b ≤ 0x39) ∨ b ∈ [(0x20 : Byte), 0x2D, 0x28, 0x29, 0x2A, 0x23] := by
  simp only [numericByte, Bool.or_eq_true, Bool.and_eq_true, decide_eq_true_eq, List.contains_iff_mem]

theorem textByte_iff (b : Byte) : textByte b = true ↔ 0x20 ≤ b ∧ b ≤ 0x7E := by
  simp only [textByte, Bool.and_eq_true, decide_eq_true_eq]

section
variable (level : Nat) (encoding : Encoding) (limit perBlock : Nat) (fits : Byte → Bool) (substitute : Byte) (given : List Byte)

theorem clampTo_content_length :
    (clampTo level encoding limit perBlock fits substitute given).content.length = min limit given.length := by
  simp [clampTo]

/-- Each byte kept stands as it is or as the substitute. -/
theorem clampTo_content_get (i : Nat) (b : Byte) (h : given[i]? = some b) (hi : i < limit) :
    (clampTo level encoding limit perBlock fits substitute given).content[i]? = some (if fits b then b else substitute) := by
  simp [clampTo, hi, h]

/-- Rounding up to whole blocks. -/
theorem clampTo_blocks (h : 0 < perBlock) :
    let m := clampTo level encoding limit perBlock fits substitute given
    perBlock * m.blocks < m.content.length + perBlock ∧ m.content.length ≤ perBlock * m.blocks := by
  intro m
  have length : m.content.length = (given.take limit).length := List.length_map _
  have blocks : m.blocks = ((given.take limit).length + perBlock - 1) / perBlock := rfl
  rw [length, blocks]
  generalize (given.take limit).length = n
  have low := Nat.mul_div_le (n + perBlock - 1) perBlock
  have high := Nat.lt_mul_div_succ (n + perBlock - 1) h
  rw [Nat.mul_add, Nat.mul_one] at high
  omega

/-- The bytes substituted are those kept that do not fit. -/
theorem clampTo_substitutions :
    ∃ bad : List Byte, (clampTo level encoding limit perBlock fits substitute given).substitutions = bad.length ∧
      bad.Sublist (given.take limit) ∧ (∀ b ∈ bad, ¬fits b = true) ∧
      ∃ good : List Byte, (∀ b ∈ good, fits b = true) ∧ (good ++ bad).Perm (given.take limit) := by
  refine ⟨(given.take limit).filter (fun b => !fits b), rfl, List.filter_sublist, fun b hb => ?_,
    (given.take limit).filter fits, fun b hb => (List.mem_filter.1 hb).2, List.filter_append_perm fits _⟩
  simpa using (List.mem_filter.1 hb).2

theorem clampTo_truncated :
    (clampTo level encoding limit perBlock fits substitute given).truncated = true ↔ limit < given.length := by
  simp [clampTo]

end

/-- Settles O39: NUMERIC and TEXT are one clamping with their limits, block sizes and byte sets. -/
theorem contentClamped : Obligations.ContentClamped := by
  intro level given isNumeric isText clamped
  have key : ∀ (encoding : Encoding) (limit perBlock : Nat) (fits : Byte → Bool) (isFit : Byte → Prop) (substitute : Byte),
      0 < perBlock → (∀ b, fits b = true ↔ isFit b) →
      clamped isFit substitute limit perBlock (clampTo level encoding limit perBlock fits substitute given) := by
    intro encoding limit perBlock fits isFit substitute positive agrees
    obtain rfl : isFit = fun b => fits b = true := funext fun b => propext (agrees b).symm
    obtain ⟨low, high⟩ := clampTo_blocks level encoding limit perBlock fits substitute given positive
    refine ⟨clampTo_content_length .., fun i b hb hi => ⟨fun fit => ?_, fun unfit => ?_⟩, clampTo_substitutions ..,
      clampTo_truncated .., low, high⟩
    · rw [clampTo_content_get level encoding limit perBlock fits substitute given i b hb hi, if_pos fit]
    · rw [clampTo_content_get level encoding limit perBlock fits substitute given i b hb hi, if_neg unfit]
  refine ⟨fun encoding => ?_, key .numeric 40 8 numericByte _ 0x20 (by omega) numericByte_iff,
    key .text 200 4 textByte _ 0x3F (by omega) textByte_iff, rfl⟩
  cases encoding <;> exact ⟨rfl, rfl⟩

/-! ### Fields of an order -/

theorem Operands.below_of_lt {bound n : Nat} (h : n < bound) : below bound n = some n := if_pos h

theorem Operands.below_of_le {bound n : Nat} (h : bound ≤ n) : below bound n = none := if_neg (Nat.not_lt.2 h)

theorem Operands.within_of {lo hi n : Nat} (h : lo ≤ n ∧ n ≤ hi) : Operands.within lo hi n = some n := if_pos h

theorem Operands.within_of_not {lo hi n : Nat} (h : ¬(lo ≤ n ∧ n ≤ hi)) : Operands.within lo hi n = none := if_neg h

/-- A field of one byte. -/
theorem Bytes.field_one (bs : List Byte) (i : Nat) : Bytes.field bs i 1 = (bs.getD i 0).toNat := by
  rw [Bytes.field, List.getD_eq_getElem?_getD]
  cases h : bs[i]? with
  | none => rw [List.drop_eq_nil_of_le (List.getElem?_eq_none_iff.1 h)]; rfl
  | some b =>
    obtain ⟨hi, rfl⟩ := List.getElem?_eq_some_iff.1 h
    rw [List.drop_eq_getElem_cons hi]
    exact Nat.zero_add _

/-! ### GROUP_READ (R13) -/

/-- GROUP_READ carried out, by the position it asks from. -/
theorem groupReadAct_eq (group position count : Nat) (s : State) :
    groupReadAct (group, position, count) s =
      if (Table.get [] s.store.groups group).length < position then (.badValue, .none, s)
      else (.ok, .groupMembers (Table.get [] s.store.groups group).length
        (((Table.get [] s.store.groups group).drop position).take count), s) := rfl

theorem Operands.groupRead_eq (bs : List Byte) :
    Operands.groupRead bs = if Bytes.field bs 0 2 < 1024 ∧ 1 ≤ Bytes.field bs 4 1 ∧ Bytes.field bs 4 1 ≤ 160
      then some (Bytes.field bs 0 2, Bytes.field bs 2 2, Bytes.field bs 4 1) else none := by
  unfold Operands.groupRead
  by_cases group : Bytes.field bs 0 2 < Config.groups
  · by_cases count : 1 ≤ Bytes.field bs 4 1 ∧ Bytes.field bs 4 1 ≤ 160
    · rw [below_of_lt group, within_of count, if_pos ⟨group, count⟩]; rfl
    · rw [below_of_lt group, within_of_not count, if_neg (fun h => count h.2)]; rfl
  · rw [below_of_le (Nat.not_lt.1 group), if_neg (fun h => group h.1)]; rfl

/-- Settles O9: the fields are judged first, then the position against the list. -/
theorem groupReadAnswers : Obligations.GroupReadAnswers := by
  intro s t place g1 g0 p1 p0 count unused taken group position list good
  have run : exec .groupRead s = .next (s.answerOrder .groupRead (outsideRestart (withOperand Operands.groupRead groupReadAct))) := rfl
  rw [State.answerOrder_taken taken] at run
  have h0 : Bytes.field [g1, g0, p1, p0, count, unused] 0 2 = group := by simp [Bytes.field, Bytes.toNat, group]
  have h2 : Bytes.field [g1, g0, p1, p0, count, unused] 2 2 = position := by simp [Bytes.field, Bytes.toNat, position]
  have h4 : Bytes.field [g1, g0, p1, p0, count, unused] 4 1 = count.toNat := by simp [Bytes.field, Bytes.toNat]
  have fields := Operands.groupRead_eq [g1, g0, p1, p0, count, unused]
  rw [h0, h2, h4] at fields
  refine ⟨fun restarting => ?_, fun served bad => ?_, fun served ⟨hg, h1, h160, hp⟩ => ?_⟩
  · rw [run, outsideRestart_refused restarting]
  · rw [run, outsideRestart_served served]
    by_cases inRange : group < 1024 ∧ 1 ≤ count.toNat ∧ count.toNat ≤ 160
    · rw [if_pos inRange] at fields
      have beyond : list.length < position := by
        by_contra inside
        exact bad ⟨Nat.le_of_lt_succ inRange.1, inRange.2.1, inRange.2.2, Nat.not_lt.1 inside⟩
      rw [withOperand_some fields, groupReadAct_eq, if_pos beyond]
    · rw [if_neg inRange] at fields
      rw [withOperand_none fields]
  · rw [if_pos ⟨Nat.lt_succ_of_le hg, h1, h160⟩] at fields
    refine ⟨(list.drop position).take count.toNat, ?_, by simp, fun i hi => ?_⟩
    · rw [run, outsideRestart_served served, withOperand_some fields, groupReadAct_eq, if_neg (Nat.not_lt.2 hp)]
    · rw [List.getElem?_take_of_lt (by simp at hi; omega), List.getElem?_drop]

end Sys2Proof.Machine
end

section
/-! SUPPORT. GROUP_SET, and how SUBMIT and SUBMIT_GROUP begin (O11, O40). -/

namespace Sys2Proof.Machine

/-! ### GROUP_SET (R12) -/

theorem Operands.memberIndices_all (bs : List Byte) :
    (Operands.memberIndices bs).all (fun i => decide (i < Config.subscribers)) = true ↔
      ∀ i, i < Bytes.field bs 6 1 → Bytes.field bs (8 + 3 * i) 3 < 262144 := by
  simp only [Operands.memberIndices, List.all_map, List.all_eq_true, List.mem_range, Function.comp_apply, decide_eq_true_eq]
  rfl

/-- The fields of a GROUP_SET piece, where they are in range. -/
theorem Operands.groupSet_of_range {bs : List Byte} (group : Bytes.field bs 0 2 < 1024) (total : Bytes.field bs 2 2 ≤ 2048)
    (count : Bytes.field bs 6 1 ≤ 160) (indices : ∀ i, i < Bytes.field bs 6 1 → Bytes.field bs (8 + 3 * i) 3 < 262144)
    (within : Bytes.field bs 4 2 + Bytes.field bs 6 1 ≤ Bytes.field bs 2 2) :
    Operands.groupSet bs = some { group := Bytes.field bs 0 2, total := Bytes.field bs 2 2, position := Bytes.field bs 4 2
                                  members := (List.range (Bytes.field bs 6 1)).map (fun i => Bytes.field bs (8 + 3 * i) 3) } := by
  have length : (Operands.memberIndices bs).length = Bytes.field bs 6 1 := by simp [Operands.memberIndices]
  refine if_pos ⟨group, total, length.trans_le count, (Operands.memberIndices_all bs).2 indices, ?_⟩
  show _ + (Operands.memberIndices bs).length ≤ _
  rw [length]; exact within

/-- A piece with a field out of range is none. -/
theorem Operands.groupSet_eq_none {bs : List Byte}
    (h : ¬(Bytes.field bs 0 2 < 1024 ∧ Bytes.field bs 2 2 ≤ 2048 ∧ Bytes.field bs 6 1 ≤ 160 ∧
      (∀ i, i < Bytes.field bs 6 1 → Bytes.field bs (8 + 3 * i) 3 < 262144) ∧
      Bytes.field bs 4 2 + Bytes.field bs 6 1 ≤ Bytes.field bs 2 2)) : Operands.groupSet bs = none := by
  have length : (Operands.memberIndices bs).length = Bytes.field bs 6 1 := by simp [Operands.memberIndices]
  exact if_neg (fun ⟨group, total, count, indices, within⟩ =>
    h ⟨group, total, length ▸ count, (Operands.memberIndices_all bs).1 indices, length ▸ within⟩)

/-- What a list put in the store comes to, complete or not (R12). -/
theorem Store.putMembers_spec (t : Store) (group total : Nat) (members : List Nat) :
    let u := t.putMembers group total members
    u = { t with groups := u.groups, unfinished := u.unfinished, poolFree := u.poolFree } ∧
    (∀ g, g ≠ group → Table.get [] u.groups g = Table.get [] t.groups g ∧ u.unfinishedList g = t.unfinishedList g) ∧
    (members.length = total → Table.get [] u.groups group = members ∧ u.unfinishedList group = none) ∧
    (members.length ≠ total → Table.get [] u.groups group = Table.get [] t.groups group ∧
      u.unfinishedList group = some { total, members }) ∧
    u.poolFree = t.poolFree + (if members.length = total then (Table.get [] t.groups group).length else 0) := by
  unfold Store.putMembers Store.unfinishedList
  by_cases complete : members.length = total
  · rw [if_pos complete, if_pos complete]
    dsimp only
    exact ⟨rfl, fun g hg => ⟨Table.get_set_other _ _ _ (Ne.symm hg), Table.get_set_other _ _ _ (Ne.symm hg)⟩,
      fun _ => ⟨Table.get_set_same _ _ _ _, Table.get_set_same _ _ _ _⟩, fun h => absurd complete h, rfl⟩
  · rw [if_neg complete, if_neg complete]
    dsimp only
    exact ⟨rfl, fun g hg => ⟨rfl, Table.get_set_other _ _ _ (Ne.symm hg)⟩, fun h => absurd h complete,
      fun _ => ⟨rfl, Table.get_set_same _ _ _ _⟩, rfl⟩

theorem Intake.groupBusy_iff (i : Intake) (group : Nat) :
    i.groupBusy group = true ↔ ∃ g, i.order = some (.group g) ∧ g.group = group := by
  unfold Intake.groupBusy
  rcases i.order with _ | (_ | g | _) <;> simp

theorem Store.unfinishedSlots_eq (t : Store) (group : Nat) :
    t.unfinishedSlots group = (match t.unfinishedList group with
      | none => 0
      | some u => u.total) := by
  unfold Store.unfinishedSlots
  cases t.unfinishedList group <;> rfl

/-- A GROUP_SET that is served, its fields good, comes to its act. -/
theorem execGroupSet_taken {s t : State} {place : Nat} {body : List Byte} (h : s.takeOrder .groupSet = some (place, body, t))
    (served : t.link.partState ≠ .restarting) {p : Operands.GroupPiece} (fields : Operands.groupSet body = some p) :
    exec .groupSet s = .next ((groupSetAct p t).2.2.reply place (groupSetAct p t).1 (groupSetAct p t).2.1) := by
  show Host.Outcome.next (s.answerOrder .groupSet (outsideRestart (withOperand Operands.groupSet groupSetAct))) = _
  rw [State.answerOrder_taken h, outsideRestart_served served, withOperand_some fields]

/-- Settles O11: the fields as 12.2 places them, then the piece by its position. -/
theorem groupSetBuildsList : Obligations.GroupSetBuildsList := by
  constructor
  · intro s t place body taken at_ wrong
    have good : ¬wrong → Operands.groupSet body = some { group := at_ 0 2, total := at_ 2 2, position := at_ 4 2
                                                         members := (List.range (at_ 6 1)).map (fun i => at_ (8 + 3 * i) 3) } := by
      intro fits
      simp only [wrong, not_or, not_exists, not_and, not_le, not_lt] at fits
      obtain ⟨group, total, count, indices, within⟩ := fits
      exact Operands.groupSet_of_range group total count indices within
    refine ⟨fun bad served => ?_, fun fits served g hg same => ?_, good⟩
    · have none : Operands.groupSet body = none := by
        refine Operands.groupSet_eq_none fun ⟨group, total, count, indices, within⟩ => ?_
        rcases bad with h | h | h | ⟨i, hi, h⟩ | h
        · exact absurd group (Nat.not_lt.2 h)
        · exact absurd total (Nat.not_le.2 h)
        · exact absurd count (Nat.not_le.2 h)
        · exact absurd (indices i hi) (Nat.not_lt.2 h)
        · exact absurd within (Nat.not_le.2 h)
      show Host.Outcome.next (s.answerOrder .groupSet _) = _
      rw [State.answerOrder_taken taken, outsideRestart_served served, withOperand_none none]
    · have busy : t.intake.groupBusy (at_ 0 2) = true := (Intake.groupBusy_iff _ _).2 ⟨g, hg, same⟩
      rw [execGroupSet_taken taken served (good fits)]
      unfold groupSetAct
      rw [if_pos busy]
      rfl
  · intro s t place body p taken served fields idle old free
    have run := execGroupSet_taken taken served fields
    have notBusy : ¬t.intake.groupBusy p.group = true := fun busy => by
      obtain ⟨g, hg, same⟩ := (Intake.groupBusy_iff _ _).1 busy
      exact idle g hg same
    have slots : t.store.poolFree + t.store.unfinishedSlots p.group = free :=
      congrArg (t.store.poolFree + ·) (Store.unfinishedSlots_eq _ _)
    unfold groupSetAct at run
    rw [if_neg notBusy, slots] at run
    refine ⟨fun first short => ?_, fun given _ piece => ?_, fun later breaks => ?_⟩
    · rw [if_pos first, if_pos short] at run
      exact run
    · rcases piece with ⟨first, room, rfl⟩ | ⟨later, u, hu, total, position, rfl⟩
      · rw [if_pos first, if_neg (Nat.not_lt.2 room)] at run
        rw [if_pos first]
        obtain ⟨frame, others, complete, unfinished, pool⟩ :=
          Store.putMembers_spec { t.store with poolFree := free - p.total } p.group p.total p.members
        exact ⟨_, run, frame, others, complete, unfinished, pool⟩
      · rw [if_neg later, hu] at run
        simp only [total, position, and_self, if_true] at run
        rw [if_neg later]
        obtain ⟨frame, others, complete, unfinished, pool⟩ :=
          Store.putMembers_spec t.store p.group p.total (u.members ++ p.members)
        exact ⟨_, run, frame, others, complete, unfinished, pool⟩
    · rw [if_neg later] at run
      cases hu : t.store.unfinishedList p.group with
      | none => rw [hu] at run; exact run
      | some u =>
        have mismatch : ¬(u.total = p.total ∧ u.members.length = p.position) := fun ⟨a, b⟩ =>
          (breaks u hu).elim (fun h => h a) (fun h => h b)
        rw [hu] at run
        simp only [if_neg mismatch] at run
        exact run

/-! ### Orders that are served in RUNNING -/

theorem State.readRunning_ok {α : Type} {s : State} {read : List Byte → Option α} {body : List Byte} {v : α}
    (running : s.link.partState = .running) (h : read body = some v) : s.readRunning read body = .ok v :=
  readOrder_ok.2 ⟨decide_eq_true running, h⟩

theorem State.readRunning_badValue {α : Type} {s : State} {read : List Byte → Option α} {body : List Byte}
    (running : s.link.partState = .running) (h : read body = none) : s.readRunning read body = .error .badValue :=
  readOrder_error.2 (.inr ⟨decide_eq_true running, h, rfl⟩)

theorem State.readRunning_wrongState {α : Type} {s : State} {read : List Byte → Option α} {body : List Byte}
    (config : s.link.partState = .config) : s.readRunning read body = .error .wrongState :=
  readOrder_error.2 (.inl ⟨decide_eq_false (by rw [config]; simp), rfl⟩)

/-! ### SUBMIT and SUBMIT_GROUP begin (R6, R14) -/

/-- Encoding numbers as 12.2 lists them. -/
theorem Encoding.ofCode_eq (n : Nat) : Encoding.ofCode n = [Encoding.tone, .numeric, .text][n]? := by
  match n with
  | 0 | 1 | 2 => rfl
  | n + 3 => rfl

theorem Encoding.ofCode_of_le {n : Nat} (h : 3 ≤ n) : Encoding.ofCode n = none := by
  rw [Encoding.ofCode_eq]; exact List.getElem?_eq_none h

/-- A free list has no head exactly when it is empty (R4). -/
theorem FreeList.take_eq_none_iff (f : FreeList) : f.take = none ↔ f.length = 0 := by
  unfold FreeList.take FreeList.length
  split
  · simp; omega
  · cases f.returned <;> simp; omega

theorem Store.takeBody_of_take {t : Store} {slot : Nat} {bodies : FreeList} (h : t.freeBodies.take = some (slot, bodies))
    (m : Submission) (message : Option Word32) (references : Nat) (inSubmission : Bool) :
    t.takeBody m message references inSubmission = some (slot, { t with
      freeBodies := bodies, bodies := Table.set none t.bodies slot (some
        { message, encoding := m.encoding, content := m.content, references, inSubmission }) }) := by
  simp only [Store.takeBody, h, Option.map_some]

theorem execSubmit_taken {s t : State} {place : Nat} {body : List Byte} (h : s.takeOrder .submit = some (place, body, t)) :
    exec .submit s = .next (t.takeSubmit place body).settleDown := by
  simp only [exec, execSubmit, h]

theorem execSubmitGroup_taken {s t : State} {place : Nat} {body : List Byte} (h : s.takeOrder .submitGroup = some (place, body, t)) :
    exec .submitGroup s = .next (t.takeSubmitGroup place body).settleDown := by
  simp only [exec, execSubmitGroup, h]

theorem State.takeSubmit_error {t : State} {body : List Byte} {code : ReplyCode}
    (h : t.readRunning Operands.submit body = .error code) (place : Nat) : t.takeSubmit place body = t.reply place code .none := by
  simp only [State.takeSubmit, h]

theorem State.takeSubmit_ok {t : State} {body : List Byte} {sub level : Nat} {encoding : Encoding}
    (h : t.readRunning Operands.submit body = .ok (sub, level, encoding)) (place : Nat) :
    t.takeSubmit place body = (t.withOrder (some (.submit place sub (clamp level encoding (Operands.content body))))).post sub
      .intakeRead := by
  simp only [State.takeSubmit, h]

theorem State.takeSubmitGroup_error {t : State} {body : List Byte} {code : ReplyCode} (h : t.groupStart body = .error code)
    (place : Nat) : t.takeSubmitGroup place body = t.reply place code .none := by
  simp only [State.takeSubmitGroup, h]

theorem State.groupStart_error {t : State} {body : List Byte} {code : ReplyCode}
    (h : t.readRunning Operands.submitGroupNumber body = .error code) : t.groupStart body = .error code := by
  simp only [State.groupStart, h]

/-- The checks of a SUBMIT_GROUP after its group number, in their order (R14). -/
theorem State.groupStart_eq {t : State} {body : List Byte} {group : Nat}
    (h : t.readRunning Operands.submitGroupNumber body = .ok group) :
    (Table.get [] t.store.groups group = [] → t.groupStart body = .error .notFound) ∧
    (∀ first others, Table.get [] t.store.groups group = first :: others →
      (Operands.submitGroupKind body = none → t.groupStart body = .error .badValue) ∧
      ∀ level encoding, Operands.submitGroupKind body = some (level, encoding) →
        t.groupStart body = if t.store.available < others.length + 1 ∨ t.store.freeBodies.length = 0 then .error .storeFull
          else .ok { group, first, others, level, encoding }) := by
  refine ⟨fun hl => ?_, fun first others hl => ⟨fun hk => ?_, fun level encoding hk => ?_⟩⟩
  · simp only [State.groupStart, h, hl]
  · simp only [State.groupStart, h, hl, hk]
  · simp only [State.groupStart, h, hl, hk]

/-- Where the fields of a SUBMIT and of a SUBMIT_GROUP stand, and their ranges (12.2). -/
theorem Operands.submit_fields (body : List Byte) :
    (262144 ≤ Bytes.field body 0 3 ∨ 4 ≤ Bytes.field body 3 1 ∨ 3 ≤ Bytes.field body 4 1 → Operands.submit body = none) ∧
    (∀ encoding, Bytes.field body 0 3 < 262144 → Bytes.field body 3 1 < 4 →
      [Encoding.tone, .numeric, .text][Bytes.field body 4 1]? = some encoding →
      Operands.submit body = some (Bytes.field body 0 3, Bytes.field body 3 1, encoding)) := by
  unfold Operands.submit Operands.subscriber
  refine ⟨fun h => ?_, fun encoding hs hl he => ?_⟩
  · by_cases hs : Bytes.field body 0 3 < Config.subscribers
    · rw [below_of_lt hs]
      by_cases hl : Bytes.field body 3 1 < 4
      · rw [below_of_lt hl, Encoding.ofCode_of_le (h.elim (fun k => absurd hs (Nat.not_lt.2 k))
          (fun k => k.elim (fun k => absurd hl (Nat.not_lt.2 k)) id))]
        rfl
      · rw [below_of_le (Nat.not_lt.1 hl)]; rfl
    · rw [below_of_le (Nat.not_lt.1 hs)]; rfl
  · rw [below_of_lt (bound := Config.subscribers) hs, below_of_lt hl, Encoding.ofCode_eq, he]; rfl

theorem Operands.submitGroup_fields (body : List Byte) :
    (4 ≤ Bytes.field body 2 1 ∨ 3 ≤ Bytes.field body 3 1 → Operands.submitGroupKind body = none) ∧
    (∀ encoding, Bytes.field body 2 1 < 4 → [Encoding.tone, .numeric, .text][Bytes.field body 3 1]? = some encoding →
      Operands.submitGroupKind body = some (Bytes.field body 2 1, encoding)) := by
  unfold Operands.submitGroupKind
  refine ⟨fun h => ?_, fun encoding hl he => ?_⟩
  · by_cases hl : Bytes.field body 2 1 < 4
    · rw [below_of_lt hl, Encoding.ofCode_of_le (h.elim (fun k => absurd hl (Nat.not_lt.2 k)) id)]; rfl
    · rw [below_of_le (Nat.not_lt.1 hl)]; rfl
  · rw [below_of_lt hl, Encoding.ofCode_eq, he]; rfl

theorem clamp_encoding (level : Nat) (encoding : Encoding) (given : List Byte) : (clamp level encoding given).encoding = encoding := by
  cases encoding <;> rfl

/-- A SUBMIT_GROUP that passes its checks, RUNNING: its body, its entries set aside and the first member's read (R14). -/
theorem State.takeSubmitGroup_begun {t : State} {body : List Byte} {group level first slot : Nat} {others : List Nat}
    {encoding : Encoding} {bodies : FreeList} (running : t.link.partState = .running)
    (h : t.groupStart body = .ok { group, first, others, level, encoding }) (free : t.store.freeBodies.take = some (slot, bodies))
    (place : Nat) :
    let m := clamp level encoding (Operands.content body)
    t.takeSubmitGroup place body = ({ t with
      store := { t.store with
        freeBodies := bodies, setAside := t.store.setAside + (others.length + 1)
        bodies := Table.set none t.store.bodies slot (some
          { message := none, encoding, content := m.content, references := 0, inSubmission := true }) }
      intake := { t.intake with
        order := some (.group { place, group, body := slot, message := m, members := first :: others, counts := {} }) } } : State).post
          first .memberRead := by
  intro m
  simp only [State.takeSubmitGroup, h, Store.takeBody_of_take free, State.nextMember, State.withStore_link, running, clamp_encoding]
  rfl

/-- Settles O40: each order's checks in their order, then what it begins with. -/
theorem submissionsBegin : Obligations.SubmissionsBegin := by
  refine ⟨fun body => ?_, fun s t place body taken => ?_, fun s t place body taken => ?_,
    fun s t place body group taken running number => ?_⟩
  · intro at_ encodings
    obtain ⟨bad, good⟩ := Operands.submit_fields body
    obtain ⟨badKind, goodKind⟩ := Operands.submitGroup_fields body
    exact ⟨rfl, bad, good, rfl, badKind, goodKind⟩
  · rw [execSubmit_taken taken]
    refine ⟨fun config => ?_, fun running bad => ?_, fun sub level encoding running good => ?_⟩
    · rw [State.takeSubmit_error (State.readRunning_wrongState config)]
    · rw [State.takeSubmit_error (State.readRunning_badValue running bad)]
    · rw [State.takeSubmit_ok (State.readRunning_ok running good)]; rfl
  · rw [execSubmitGroup_taken taken]
    refine ⟨fun config => ?_, fun running beyond => ?_⟩
    · rw [State.takeSubmitGroup_error (State.groupStart_error (State.readRunning_wrongState config))]
    · have bad : Operands.submitGroupNumber body = none := Operands.below_of_le beyond
      rw [State.takeSubmitGroup_error (State.groupStart_error (State.readRunning_badValue running bad))]
  · intro list
    rw [execSubmitGroup_taken taken]
    obtain ⟨empty, listed⟩ := State.groupStart_eq (State.readRunning_ok running number)
    refine ⟨fun none => ?_, fun some bad => ?_, fun level encoding first others kind hl => ?_⟩
    · rw [State.takeSubmitGroup_error (empty none)]
    · obtain ⟨first, others, hl⟩ := List.exists_cons_of_ne_nil some
      rw [State.takeSubmitGroup_error ((listed first others hl).1 bad)]
    · intro m
      have start := (listed first others hl).2 level encoding kind
      have length : list.length = others.length + 1 := congrArg List.length hl
      rw [length]
      refine ⟨fun full => ?_, fun slot bodies room free => ?_⟩
      · rw [if_pos (full.imp id (FreeList.take_eq_none_iff _).1)] at start
        rw [State.takeSubmitGroup_error start]
      · have open_ : ¬(t.store.available < others.length + 1 ∨ t.store.freeBodies.length = 0) := by
          rintro (short | none)
          · omega
          · rw [(FreeList.take_eq_none_iff _).2 none] at free; cases free
        rw [if_neg open_] at start
        rw [State.takeSubmitGroup_begun running start free]
        rw [show list = first :: others from hl]

end Sys2Proof.Machine
end

section
/-! SUPPORT. Messages by number, CANCEL begins, reports, power-on (O44, O10, O54). -/

namespace Sys2Proof.Machine

/-! ### Messages by number and their entries (R22, R23) -/

/-- A walk over numbered bodies ends with one of those it has met, and none in a lower slot was among them. -/
theorem lowerSlot_foldl (l : List (Nat × Body)) (best : Option (Nat × Body)) :
    (l.foldl lowerSlot best = none ↔ best = none ∧ l = []) ∧
    ∀ p, l.foldl lowerSlot best = some p → (best = some p ∨ p ∈ l) ∧ (∀ q, best = some q → p.1 ≤ q.1) ∧ ∀ q ∈ l, p.1 ≤ q.1 := by
  induction l generalizing best with
  | nil =>
    refine ⟨by simp, fun p hp => ⟨.inl hp, fun q hq => ?_, by simp⟩⟩
    obtain rfl : p = q := Option.some.inj (hp.symm.trans hq)
    exact Nat.le_refl _
  | cons x l ih =>
    obtain ⟨none, some⟩ := ih (lowerSlot best x)
    have step : ∃ y, lowerSlot best x = .some y ∧ (best = .some y ∨ y = x) ∧ (∀ q, best = .some q → y.1 ≤ q.1) ∧ y.1 ≤ x.1 := by
      cases best with
      | none => exact ⟨x, rfl, .inr rfl, by simp, Nat.le_refl _⟩
      | some q =>
        by_cases h : x.1 < q.1
        · exact ⟨x, if_pos h, .inr rfl, by rintro _ ⟨⟩; exact Nat.le_of_lt h, Nat.le_refl _⟩
        · exact ⟨q, if_neg h, .inl rfl, by rintro _ ⟨⟩; exact Nat.le_refl _, Nat.not_lt.1 h⟩
    obtain ⟨y, hy, source, low, lowX⟩ := step
    rw [List.foldl_cons]
    refine ⟨by rw [none, hy]; simp, fun p hp => ?_⟩
    obtain ⟨origin, lowY, lowL⟩ := some p hp
    have py : p.1 ≤ y.1 := lowY y hy
    refine ⟨?_, fun q hq => py.trans (low q hq), fun q hq => ?_⟩
    · rcases origin with origin | origin
      · obtain rfl : y = p := Option.some.inj (hy.symm.trans origin)
        exact source.imp id (fun e => by rw [e]; exact List.mem_cons_self)
      · exact .inr (List.mem_cons_of_mem _ origin)
    · rcases List.mem_cons.1 hq with rfl | hq
      · exact py.trans lowX
      · exact lowL q hq

/-- The bodies that carry a number, each with its slot. -/
theorem Store.mem_carriers (t : Store) (m : Word32) (n : Nat) (b : Body) :
    (n, b) ∈ (Table.filled t.bodies).filter (fun p => decide (p.2.message = some m)) ↔ t.body n = some b ∧ b.message = some m := by
  rw [List.mem_filter, Table.mem_filled, decide_eq_true_eq]
  rfl

/-- A number names the lowest body that carries it, and 0 none (R22; log 43). -/
theorem Store.findMessage_spec (t : Store) :
    t.findMessage 0 = none ∧
    (∀ m, m ≠ 0 → (t.findMessage m = none ↔ ∀ n b, t.body n = some b → b.message ≠ some m)) ∧
    (∀ m slot b, t.findMessage m = some (slot, b) → t.body slot = some b ∧ b.message = some m ∧
      ∀ n c, t.body n = some c → c.message = some m → slot ≤ n) := by
  refine ⟨if_pos rfl, fun m hm => ?_, fun m slot b h => ?_⟩
  · rw [Store.findMessage, if_neg hm, (lowerSlot_foldl _ none).1, List.eq_nil_iff_forall_not_mem]
    constructor
    · exact fun h n b hb carries => h.2 (n, b) ((t.mem_carriers m n b).2 ⟨hb, carries⟩)
    · refine fun h => ⟨rfl, fun ⟨n, b⟩ hp => ?_⟩
      obtain ⟨hb, carries⟩ := (t.mem_carriers m n b).1 hp
      exact h n b hb carries
  · by_cases hm : m = 0
    · rw [Store.findMessage, if_pos hm] at h; cases h
    · rw [Store.findMessage, if_neg hm] at h
      obtain ⟨origin, -, low⟩ := (lowerSlot_foldl _ none).2 _ h
      obtain ⟨hb, carries⟩ := (t.mem_carriers m slot b).1 (origin.resolve_left (by simp))
      exact ⟨hb, carries, fun n c hc same => low (n, c) ((t.mem_carriers m n c).2 ⟨hc, same⟩)⟩

theorem insertByAdmission_perm (p : Nat × Entry) (l : List (Nat × Entry)) : (insertByAdmission p l).Perm (p :: l) := by
  induction l with
  | nil => exact List.Perm.refl _
  | cons q l ih =>
    unfold insertByAdmission
    split
    · exact List.Perm.refl _
    · exact (ih.cons q).trans (List.Perm.swap p q l)

theorem insertByAdmission_sorted (p : Nat × Entry) (l : List (Nat × Entry))
    (h : l.Pairwise (fun x y => x.2.admission ≤ y.2.admission)) :
    (insertByAdmission p l).Pairwise (fun x y => x.2.admission ≤ y.2.admission) := by
  induction l with
  | nil => simp [insertByAdmission]
  | cons q l ih =>
    obtain ⟨head, tail⟩ := List.pairwise_cons.1 h
    unfold insertByAdmission
    split
    · rename_i lt
      have le : p.2.admission ≤ q.2.admission := BitVec.le_of_lt lt
      refine List.pairwise_cons.2 ⟨fun y hy => ?_, h⟩
      rcases List.mem_cons.1 hy with rfl | hy
      · exact le
      · exact BitVec.le_trans le (head y hy)
    · rename_i not_lt
      refine List.pairwise_cons.2 ⟨fun y hy => ?_, ih tail⟩
      rcases List.mem_cons.1 ((insertByAdmission_perm p l).mem_iff.1 hy) with rfl | hy
      · exact BitVec.not_lt.1 not_lt
      · exact head y hy

theorem foldl_insertByAdmission (l acc : List (Nat × Entry)) (h : acc.Pairwise (fun x y => x.2.admission ≤ y.2.admission)) :
    let r := l.foldl (fun l p => insertByAdmission p l) acc
    r.Perm (l ++ acc) ∧ r.Pairwise (fun x y => x.2.admission ≤ y.2.admission) := by
  induction l generalizing acc with
  | nil => exact ⟨List.Perm.refl _, h⟩
  | cons p l ih =>
    obtain ⟨perm, sorted⟩ := ih _ (insertByAdmission_sorted p acc h)
    refine ⟨perm.trans (((insertByAdmission_perm p acc).append_left l).trans ?_), sorted⟩
    exact List.perm_middle

/-- A body's live entries, each once, rising by admission sequence (R22, R23). -/
theorem Store.entriesOf_spec (t : Store) (slot : Nat) :
    ((t.entriesOf slot).map Prod.fst).Nodup ∧
    (∀ n e, (n, e) ∈ t.entriesOf slot ↔ t.entry n = some e ∧ e.body = slot) ∧
    (t.entriesOf slot).Pairwise (fun p q => p.2.admission ≤ q.2.admission) := by
  obtain ⟨perm, sorted⟩ := foldl_insertByAdmission (t.live.filter (fun p => p.2.body == slot)) [] List.Pairwise.nil
  rw [List.append_nil] at perm
  refine ⟨?_, fun n e => ?_, sorted⟩
  · exact (perm.map Prod.fst).nodup_iff.2 ((List.filter_sublist.map Prod.fst).nodup (Table.filled_nodup _))
  · refine perm.mem_iff.trans ?_
    rw [List.mem_filter, Store.live, Table.mem_filled, beq_iff_eq]
    rfl

/-! ### CANCEL begins (R21, R22) -/

theorem execCancel_taken {s t : State} {place : Nat} {body : List Byte} (h : s.takeOrder .cancel = some (place, body, t)) :
    exec .cancel s = .next (t.takeCancel place body) := by
  simp only [exec, execCancel, h]

theorem State.takeCancel_error {t : State} {body : List Byte} {code : ReplyCode} {fields : ReplyBody}
    (h : t.cancelStart body = .error (code, fields)) (place : Nat) : t.takeCancel place body = t.reply place code fields := by
  simp only [State.takeCancel, h]

theorem State.takeCancel_ok {t : State} {body : List Byte} {byMessage : Bool} {requests : List Nat}
    (h : t.cancelStart body = .ok (byMessage, requests)) (place : Nat) :
    t.takeCancel place body = t.withOrder (some (.cancel { place, byMessage, requests })) := by
  simp only [State.takeCancel, h]

theorem State.cancelStart_error {t : State} {body : List Byte} {code : ReplyCode} (h : t.readRunning Operands.cancel body = .error code) :
    t.cancelStart body = .error (code, .none) := by
  simp only [State.cancelStart, h]

/-- The form of a CANCEL stands at offset 0 (12.2). -/
theorem Operands.cancel_form (body : List Byte) :
    (Bytes.field body 0 1 = 0 → Operands.cancel body = some (.entry (Bytes.field body 4 4))) ∧
    (Bytes.field body 0 1 = 1 → Operands.cancel body = some (.message (BitVec.ofNat 32 (Bytes.field body 4 4)))) ∧
    (1 < Bytes.field body 0 1 → Operands.cancel body = none) := by
  unfold Operands.cancel
  refine ⟨fun h => by rw [h]; rfl, fun h => by rw [h]; rfl, fun h => ?_⟩
  split
  · omega
  · omega
  · rfl

/-- A CANCEL by entry (R21). -/
theorem State.cancelStart_entry {t : State} {body : List Byte} {n : Nat} (running : t.link.partState = .running)
    (form : Operands.cancel body = some (.entry n)) :
    t.cancelStart body = if 16384 ≤ n then .error (.badValue, .none) else if t.store.entry n = none then .error (.notFound, .none)
      else .ok (false, [n]) := by
  simp only [State.cancelStart, State.readRunning_ok running form]
  rfl

/-- A CANCEL by message (R22). -/
theorem State.cancelStart_message {t : State} {body : List Byte} {m : Word32} (running : t.link.partState = .running)
    (form : Operands.cancel body = some (.message m)) :
    (t.store.findMessage m = none → t.cancelStart body = .error (.notFound, .none)) ∧
    ∀ slot b, t.store.findMessage m = some (slot, b) →
      ((t.store.entriesOf slot).map Prod.fst = [] → t.cancelStart body = .error (.alreadyDone, .cancelCounts 0 0 0)) ∧
      ∀ first others, (t.store.entriesOf slot).map Prod.fst = first :: others →
        t.cancelStart body = .ok (true, first :: others) := by
  have read := State.readRunning_ok running form
  refine ⟨fun hf => ?_, fun slot b hf => ⟨fun he => ?_, fun first others he => ?_⟩⟩
  · simp only [State.cancelStart, read, hf]
  · simp only [State.cancelStart, read, hf, he]
  · simp only [State.cancelStart, read, hf, he]

/-- Settles O44: the checks by form, over what a message number and a body's entries are. -/
theorem cancelSetsRequestsOnTheirWay : Obligations.CancelSetsRequestsOnTheirWay := by
  refine ⟨fun t => ?_, Operands.cancel_form, fun s t place body taken => ?_, fun s t place body taken running => ?_⟩
  · obtain ⟨zero, unknown, known⟩ := t.findMessage_spec
    exact ⟨zero, unknown, known, t.entriesOf_spec⟩
  · rw [execCancel_taken taken]
    refine ⟨fun config => ?_, fun running form => ?_⟩
    · rw [State.takeCancel_error (State.cancelStart_error (State.readRunning_wrongState config))]
    · have bad : Operands.cancel body = none := (Operands.cancel_form body).2.2 (by rw [Bytes.field_one]; exact form)
      rw [State.takeCancel_error (State.cancelStart_error (State.readRunning_badValue running bad))]
  · rw [execCancel_taken taken]
    refine ⟨fun n form => ?_, fun m form => ?_⟩
    · have start := State.cancelStart_entry running form
      refine ⟨fun beyond => ?_, fun inside free => ?_, fun inside live => ?_⟩
      · rw [if_pos beyond] at start
        rw [State.takeCancel_error start]
      · rw [if_neg (Nat.not_le.2 inside), if_pos free] at start
        rw [State.takeCancel_error start]
      · rw [if_neg (Nat.not_le.2 inside), if_neg live] at start
        rw [State.takeCancel_ok start]
        rfl
    · obtain ⟨unknown, known⟩ := State.cancelStart_message running form
      refine ⟨fun none => ?_, fun slot b first others some listed => ?_, fun slot b some empty => ?_⟩
      · rw [State.takeCancel_error (unknown none)]
      · rw [State.takeCancel_ok ((known slot b some).2 first others listed)]
        rfl
      · rw [State.takeCancel_error ((known slot b some).1 (by rw [empty]; rfl))]

/-! ### Reports -/

/-- The in-service set holds exactly the zones in service (R147). -/
theorem Monitor.has_inService (m : Monitor) (z : Nat) (hz : z < 16) :
    ZoneSet.has m.inService z = decide ((m.zone z).state = .inService) := by
  have fold : ∀ (l : List Nat) (set : ZoneSet),
      ZoneSet.has (l.foldl (fun set w => if (m.zone w).state = .inService then set ||| ZoneSet.single w else set) set) z =
        (ZoneSet.has set z || (l.contains z && decide ((m.zone z).state = .inService))) := by
    intro l
    induction l with
    | nil => simp
    | cons w l ih =>
      intro set
      rw [List.foldl_cons, ih]
      have put : ZoneSet.has (set ||| ZoneSet.single w) z = (ZoneSet.has set z || decide (w = z)) := by
        rw [← ZoneSet.has_single w z hz]; exact BitVec.getLsbD_or
      by_cases e : w = z
      · subst e
        by_cases h : (m.zone w).state = .inService <;> simp [h, put]
      · by_cases h : (m.zone w).state = .inService <;> simp [h, put, e, Ne.symm e]
  have none : ZoneSet.has (0 : ZoneSet) z = false := BitVec.getLsbD_zero
  have mem : (List.range Config.zones).contains z = true := by simpa [Config.zones] using hz
  rw [Monitor.inService, fold, none, mem, Bool.false_or, Bool.true_and]

theorem execStatus_taken {s t : State} {place : Nat} {body : List Byte} (h : s.takeOrder .status = some (place, body, t)) :
    (∀ v, Operands.status body = some v → exec .status s = .next (t.reply place .ok (t.sectionBody v))) ∧
    (Operands.status body = none → exec .status s = .next (t.reply place .badValue .none)) := by
  have run : exec .status s = .next (s.answerOrder .status (withOperand Operands.status statusAct)) := rfl
  rw [State.answerOrder_taken h] at run
  refine ⟨fun v hv => ?_, fun hv => ?_⟩
  · rw [run, withOperand_some hv]; rfl
  · rw [run, withOperand_none hv]

/-- The section number stands at offset 0, the zone at 1 (12.2). -/
theorem Operands.status_eq (body : List Byte) : Operands.status body = (match (body.getD 0 0).toNat with
    | 0 => some .summary
    | 1 => some .store
    | 2 => some .cache
    | 3 => some .air
    | 4 => some .assembly
    | 5 => (below 16 (body.getD 1 0).toNat).map .zone
    | 6 => some .retry
    | 7 => some .charging
    | 8 => some .log
    | 9 => some .host
    | _ => none) := by
  unfold Operands.status
  rw [Bytes.field_one, Bytes.field_one] <;> rfl

theorem State.effectiveLevel_eq (s : State) :
    s.effectiveLevel = if s.intake.congestionControl then min s.intake.hostLevel s.store.congestion else s.intake.hostLevel := rfl

theorem Intake.groupInProgress_eq (i : Intake) : i.groupInProgress = (match i.order with
    | some (.group g) => some
        { group := g.group, body := g.body, level := g.message.level, encoding := g.message.encoding
          blocks := g.message.blocks, remaining := g.members.length, counts := g.counts }
    | _ => none) := by
  unfold Intake.groupInProgress
  rcases i.order with _ | (_ | _ | _) <;> rfl

theorem Link.repliesHeld_eq (l : Link) : l.repliesHeld = l.ready.length + (match l.sending with
    | .reply _ _ => (1, 0)
    | .notice _ => (0, 1)
    | .idle => (0, 0) : Nat × Nat).1 := by
  unfold Link.repliesHeld
  cases l.sending <;> rfl

theorem Link.noticeCount_eq (l : Link) : l.noticeCount = l.notices.length + (match l.sending with
    | .reply _ _ => (1, 0)
    | .notice _ => (0, 1)
    | .idle => (0, 0) : Nat × Nat).2 := by
  unfold Link.noticeCount
  cases l.sending <;> rfl

theorem firstSequence_eq (rs : List BillingRecord) : firstSequence rs = (rs.head?.map BillingRecord.sequence).getD 0 := by
  cases rs <;> rfl

theorem lastSequence_eq (rs : List BillingRecord) : lastSequence rs = (rs.getLast?.map BillingRecord.sequence).getD 0 := by
  unfold lastSequence
  cases rs.getLast? <;> rfl

/-- Settles O10: each report's figures are those the model's sections read, and its state is the one taken. -/
theorem reportsChangeNothing : Obligations.ReportsChangeNothing := by
  refine ⟨fun t => ?_, fun _ => rfl, fun _ _ => rfl, fun _ _ => rfl, fun s t place body taken served => ?_,
    fun s t place body taken => ?_, fun s t place body taken => ?_⟩
  · obtain ⟨zero, unknown, known⟩ := t.findMessage_spec
    exact ⟨zero, unknown, known, t.entriesOf_spec⟩
  · intro number
    have run : exec .queryMessage s = .next (s.answerOrder .queryMessage (outsideRestart queryMessageAct)) := rfl
    rw [State.answerOrder_taken taken, outsideRestart_served served] at run
    refine ⟨fun slot b found => ?_, fun none => ?_⟩
    · simp only [queryMessageAct] at run
      rw [show t.store.findMessage (BitVec.ofNat 32 (Bytes.field body 0 4)) = _ from found] at run
      exact run
    · simp only [queryMessageAct] at run
      rw [show t.store.findMessage (BitVec.ofNat 32 (Bytes.field body 0 4)) = _ from none] at run
      exact run
  · obtain ⟨known, unknown⟩ := execStatus_taken taken
    have section_ := Operands.status_eq body
    intro code z effective free total queued lines frame sending answers
    have answered : ∀ v figures, Operands.status body = some v → t.sectionBody v = figures → answers figures := by
      rintro v _ hv rfl
      exact known v hv
    refine ⟨fun h => ?_, fun h => ?_, fun h => ?_, fun h => ?_, fun h => ?_, fun h hz => ?_, fun h => ?_, fun h => ?_, fun h => ?_,
      fun h => ?_, fun h => ?_⟩
    · exact answered .summary _ (by rw [section_, show (body.getD 0 0).toNat = 0 from h]; rfl) rfl
    · refine answered .store _ (by rw [section_, show (body.getD 0 0).toNat = 1 from h]; rfl) ?_
      simp only [State.sectionBody, State.storeFigures, Intake.groupInProgress_eq]
      rfl
    · exact answered .cache _ (by rw [section_, show (body.getD 0 0).toNat = 2 from h]; rfl) rfl
    · exact answered .air _ (by rw [section_, show (body.getD 0 0).toNat = 3 from h]; rfl) rfl
    · exact answered .assembly _ (by rw [section_, show (body.getD 0 0).toNat = 4 from h]; rfl) rfl
    · refine answered (.zone z) _ ?_ ?_
      · rw [section_, show (body.getD 0 0).toNat = 5 from h, Operands.below_of_lt hz]; rfl
      · simp only [State.sectionBody, State.zoneFigures, Monitor.has_inService _ _ hz]
    · exact answered .retry _ (by rw [section_, show (body.getD 0 0).toNat = 6 from h]; rfl) rfl
    · exact answered .charging _ (by rw [section_, show (body.getD 0 0).toNat = 7 from h]; rfl) rfl
    · refine answered .log _ (by rw [section_, show (body.getD 0 0).toNat = 8 from h]; rfl) ?_
      simp only [State.sectionBody, State.logFigures, firstSequence_eq, lastSequence_eq]
      rfl
    · refine answered .host _ (by rw [section_, show (body.getD 0 0).toNat = 9 from h]; rfl) ?_
      simp only [State.sectionBody, State.hostFigures, Link.repliesHeld_eq, Link.noticeCount_eq]
      rfl
    · refine unknown ?_
      rw [section_]
      rcases h with h | ⟨h, hz⟩
      · split
        case h_11 => rfl
        all_goals exact absurd h (by omega)
      · rw [show (body.getD 0 0).toNat = 5 from h, Operands.below_of_le hz]; rfl
  · show Host.Outcome.next (s.answerOrder .readFaults readFaultsAct) = _
    rw [State.answerOrder_taken taken]
    rfl

/-! ### Power-on -/

theorem FreeList.take_eq_none_iff_slots (f : FreeList) : f.take = none ↔ f.slots = [] := by
  rw [FreeList.take_eq_none_iff, ← List.length_eq_zero_iff]
  simp [FreeList.slots, FreeList.length]

theorem State.reset_timerLegal : State.reset.timerLegal := by
  refine ⟨by unfold Timing.legal; decide, ?_, ⟨?_, ?_, ?_⟩, by decide, by decide, by decide, fun _ => ⟨rfl, rfl⟩⟩
  all_goals rintro _ ⟨⟩

/-- Settles O54: power-on is the state after reset with the rates sampled, and that state is read off field by field. -/
theorem powerOnValues : Obligations.PowerOnValues := by
  unfold Obligations.PowerOnValues
  intro slots plan
  have ascending : ∀ n, List.range' 0 (n - 0) ++ [] = List.range n := fun n => by simp [List.range_eq_range']
  refine ⟨fun f => ⟨FreeList.take_eq_none_iff_slots f, fun n g h => FreeList.slots_take h, FreeList.slots_give f⟩,
    fun s host zone h1 h2 h3 h4 => ?_, ?_, ?_⟩
  · have fits : (Instr.powerOn host zone).wellFormed = true := by
      simp [Instr.wellFormed, Instr.rateFits, Config.minRate, Config.maxRate, h1, h2, h3, h4]
    exact if_pos fits
  · refine ⟨rfl, rfl, rfl, rfl, rfl, rfl, rfl, rfl, rfl, rfl, rfl, rfl, fun _ => ⟨rfl, rfl, rfl⟩, rfl, rfl, rfl, fun _ => rfl,
      fun _ _ => ⟨rfl, rfl⟩, rfl, rfl, rfl, rfl, rfl, fun _ => rfl, rfl, rfl, fun _ => ⟨rfl, rfl, rfl, rfl, rfl, rfl⟩,
      fun _ => ⟨rfl, rfl, rfl, rfl, rfl, rfl, rfl, rfl, rfl⟩, rfl, rfl, rfl, rfl, rfl, rfl, rfl, rfl, rfl, rfl, ascending 4096,
      ascending 16384, rfl, fun _ => rfl, rfl, rfl, rfl, rfl, rfl, rfl, rfl, rfl, rfl, rfl, rfl, rfl, rfl, rfl, rfl, rfl, rfl, rfl,
      rfl, rfl, rfl, rfl, rfl, rfl, rfl, rfl, rfl, rfl, rfl, fun _ => rfl, rfl, rfl, rfl, rfl, rfl, rfl, rfl, rfl, rfl, rfl, rfl,
      rfl, rfl, rfl, rfl, rfl, fun _ => rfl, rfl, rfl, rfl, rfl⟩
  · obtain ⟨memory, queues, settings, zones, entries, log⟩ := State.reset_lawful
    exact ⟨memory, State.reset_timerLegal, queues, settings, zones, log, entries⟩

end Sys2Proof.Machine
end

section
/-! SUPPORT. What the filing of an entry leaves alone, the release of held entries, SET_ADMISSION (O6). -/

namespace Sys2Proof.Machine

/-! ### What the filing of an entry leaves alone (R64, R72 to R74) -/

/-- What the filing of an entry can change: entries, of which it may lower the entry's own level, the Record Cache, the Frame Assembler, and
the tail of the settle list. -/
structure Filing (n : Nat) (s t : State) : Prop where
  frame : ∃ (entries : Table (Option Entry)) (c : Cache) (a : Assembler) (new : List SettleElement), t = { s with
    store := { s.store with entries }, cache := c, assembler := a
    charging := { s.charging with settleList := s.charging.settleList ++ new } }
  others : ∀ m, m ≠ n → (t.store.entry m).map Entry.level = (s.store.entry m).map Entry.level
  free : s.store.entry n = none → t.store.entry n = none
  own : ∀ e, s.store.entry n = some e → ∃ d, t.store.entry n = some d ∧ d.level ≤ e.level

namespace Filing

variable {n : Nat} {s t u : State}

theorem refl (s : State) : Filing n s s :=
  ⟨⟨_, _, _, [], by rw [List.append_nil]⟩, fun _ _ => rfl, id, fun e h => ⟨e, h, Nat.le_refl _⟩⟩

theorem trans (h : Filing n s t) (k : Filing n t u) : Filing n s u where
  frame := by
    obtain ⟨_, _, _, new, rfl⟩ := h.frame
    obtain ⟨_, _, _, more, rfl⟩ := k.frame
    exact ⟨_, _, _, new ++ more, by rw [← List.append_assoc]⟩
  others m hm := (k.others m hm).trans (h.others m hm)
  free := k.free ∘ h.free
  own e he := by
    obtain ⟨d, hd, low⟩ := h.own e he
    obtain ⟨c, hc, lower⟩ := k.own d hd
    exact ⟨c, hc, Nat.le_trans lower low⟩

theorem foldl {α : Type} {f : State → α → State} (h : ∀ s a, Filing n s (f s a)) (l : List α) (s : State) :
    Filing n s (l.foldl f s) := by
  induction l generalizing s with
  | nil => exact refl s
  | cons a l ih => exact (h s a).trans (ih _)

/-- A change outside the store. -/
theorem outside (c : Cache) (a : Assembler) (new : List SettleElement) : Filing n s { s with
    cache := c, assembler := a, charging := { s.charging with settleList := s.charging.settleList ++ new } } :=
  ⟨⟨_, c, a, new, rfl⟩, fun _ _ => rfl, id, fun e h => ⟨e, h, Nat.le_refl _⟩⟩

theorem withCache (c : Cache) : Filing n s (s.withCache c) := by
  have h := outside (n := n) (s := s) c s.assembler []
  rw [List.append_nil] at h
  exact h

theorem withAssembler (a : Assembler) : Filing n s (s.withAssembler a) := by
  have h := outside (n := n) (s := s) s.cache a []
  rw [List.append_nil] at h
  exact h

/-- An entry changes, its level staying. -/
theorem changeEntry (m : Nat) {f : Entry → Entry} (level : ∀ e, (f e).level = e.level) : Filing n s (s.changeEntry m f) := by
  have same : ∀ k, ((s.store.changeEntry m f).entry k).map Entry.level = (s.store.entry k).map Entry.level := by
    intro k
    rw [Store.entry_changeEntry]
    split
    · rw [Option.map_map]
      exact congrArg (fun g => (s.store.entry k).map g) (funext level)
    · rfl
  refine ⟨⟨(s.store.changeEntry m f).entries, s.cache, s.assembler, [], ?_⟩, fun k _ => same k, fun h => ?_, fun e h => ?_⟩
  · rw [List.append_nil, ← Store.changeEntry_frame]; rfl
  · exact Option.map_eq_none_iff.1 ((same n).trans (by rw [h]; rfl))
  · obtain ⟨d, hd, hl⟩ := Option.map_eq_some_iff.1 ((same n).trans (by rw [h]; rfl))
    exact ⟨d, hd, Nat.le_of_eq hl⟩

/-- The entry itself changes, its level not rising. -/
theorem changeOwn {f : Entry → Entry} (level : ∀ e, (f e).level ≤ e.level) : Filing n s (s.changeEntry n f) := by
  refine ⟨⟨(s.store.changeEntry n f).entries, s.cache, s.assembler, [], ?_⟩, fun k hk => ?_, fun h => ?_, fun e h => ⟨f e, ?_, level e⟩⟩
  · rw [List.append_nil, ← Store.changeEntry_frame]; rfl
  · exact congrArg _ (Store.entry_changeEntry_other _ _ (Ne.symm hk))
  · exact (Store.entry_changeEntry s.store n n f).trans (by rw [if_pos rfl, h]; rfl)
  · exact (Store.entry_changeEntry s.store n n f).trans (by rw [if_pos rfl, h]; rfl)

theorem settle (m : Nat) (outcome : EntryOutcome) (code : Nat) : Filing n s (s.settle m outcome code) :=
  (changeEntry m (f := fun e => { e with state := .settling, outcome := some outcome, replyCode := some code }) (fun _ => rfl)).trans
    (outside _ _ [{ entry := m, outcomeCycle := s.timer.cycle }])

end Filing

namespace State

variable {n : Nat} (s : State)

/-- An update posted changes the Record Cache alone. -/
theorem post_update_eq (sub : Nat) (u : Update) : ∃ c, s.post sub (.update u) = s.withCache c := by
  unfold post
  dsimp only
  split
  · exact ⟨_, rfl⟩
  · split
    · exact ⟨_, rfl⟩
    · exact ⟨_, rfl⟩

/-- A non-waiting read changes the Record Cache alone. -/
theorem nonWaitingRead_eq (sub : Nat) : ∃ c, (s.nonWaitingRead sub).2 = s.withCache c := by
  unfold nonWaitingRead
  dsimp only
  split
  · exact ⟨_, rfl⟩
  · exact ⟨_, rfl⟩

theorem leaveQueue_filing (m : Nat) : Filing n s (s.leaveQueue m) := by
  unfold leaveQueue
  split
  · exact Filing.refl s
  · exact Filing.withAssembler _

theorem fileQuietly_filing (m : Nat) : Filing n s (s.fileQuietly m) := by
  unfold fileQuietly
  split
  · exact Filing.settle m _ _
  · split
    · exact Filing.refl s
    · exact (Filing.changeEntry m (f := fun e => { e with state := .queued, retryAt := none }) (fun _ => rfl)).trans
        (Filing.withAssembler _)

theorem place_filing (m : Nat) (e : Entry) (r : Record) (mask : ZoneSet) : Filing n s (s.place m e r mask) := by
  unfold place
  split
  · exact Filing.refl s
  · rename_i f _
    dsimp only
    obtain ⟨c, hc⟩ := post_update_eq ((((s.leaveQueue m).changeEntry m
      (fun d => { d with state := .placed, airTag := some (f.nextTag e.sub r.airTag) })).withOpen (some _))) e.sub (.placement _ _)
    rw [hc]
    refine Filing.trans (leaveQueue_filing s m) ?_
    refine Filing.trans (Filing.changeEntry m (f := fun d => { d with state := .placed, airTag := some (f.nextTag e.sub r.airTag) })
      (fun _ => rfl)) ?_
    exact (Filing.withAssembler _).trans (Filing.withCache _)

theorem defer_filing : Filing n s (s.defer n) := by
  unfold defer
  refine (Filing.withAssembler { s.assembler with
    counts := { s.assembler.counts with deferrals := s.assembler.counts.deferrals + 1 } }).trans ?_
  dsimp only
  split
  · exact Filing.refl _
  · split
    · exact Filing.changeEntry n (fun _ => rfl)
    · split
      · exact Filing.changeEntry n (fun _ => rfl)
      · split
        · exact Filing.changeOwn (fun d => Nat.sub_le _ _)
        · refine Filing.trans (leaveQueue_filing _ n) ?_
          exact (Filing.changeOwn (f := fun d => { d with deferral := 0, level := d.level - 1 }) (fun d => Nat.sub_le _ _)).trans
            ((Filing.withAssembler _).trans (Filing.withAssembler _))

theorem displace_filing (p : Placed) : Filing n s (s.displace p) := by
  unfold displace
  split
  · exact Filing.refl s
  · exact ((Filing.withAssembler _).trans (fileQuietly_filing _ _)).trans (Filing.withAssembler _)

theorem evictFor_filing (mask : ZoneSet) (size : Nat) (p : Placed) : Filing n s (s.evictFor mask size p) := by
  unfold evictFor
  split
  · exact Filing.refl s
  · split
    · exact Filing.refl s
    · exact displace_filing s p

theorem tryWithRecord_filing (late : Bool) (e : Entry) (f : Frame) (r : Record) : Filing n s (s.tryWithRecord late n e f r) := by
  unfold tryWithRecord
  dsimp only
  split
  · exact Filing.withAssembler _
  · split
    · exact place_filing s n e r _
    · split
      · exact (Filing.foldl (fun s p => evictFor_filing s _ _ p) _ s).trans (place_filing _ n e r _)
      · exact defer_filing s

theorem tryEntry_filing (late : Bool) (report : Option Record) : Filing n s (s.tryEntry late report n) := by
  unfold tryEntry
  split
  · rename_i e f _ _
    split
    · exact Filing.withAssembler _
    · split
      · exact (Filing.withAssembler _).trans (tryWithRecord_filing _ _ _ _ _)
      · obtain ⟨c, hc⟩ := nonWaitingRead_eq s e.sub
        split
        · rename_i heq
          rw [heq] at hc
          obtain rfl : _ = s.withCache c := hc
          exact ((Filing.withCache c).trans (Filing.withAssembler _)).trans (tryWithRecord_filing _ _ _ _ _)
        · rename_i heq
          rw [heq] at hc
          obtain rfl : _ = s.withCache c := hc
          exact ((Filing.withCache c).trans (Filing.withAssembler _)).trans ((Filing.withAssembler _).trans (Filing.withAssembler _))
  · exact Filing.refl s

/-- Filing an entry changes no more than `Filing` says. -/
theorem file_filing : Filing n s (s.file n) := by
  unfold file
  dsimp only
  refine (fileQuietly_filing s n).trans ?_
  split
  · split
    · exact tryEntry_filing _ _ _
    · exact Filing.refl _
  · exact Filing.refl _

end State

/-! ### The walk of the hold list (R19, R20) -/

/-- Taking the elements that pass a test out of a list, one after another, leaves those that do not. -/
theorem List.foldl_erase_filter (p : Nat → Bool) (l before : List Nat) (h : ∀ x ∈ before, p x = false) :
    (l.filter p).foldl (fun l n => l.erase n) (before ++ l) = before ++ l.filter (fun n => !p n) := by
  induction l generalizing before with
  | nil => rfl
  | cons a l ih =>
    cases hp : p a with
    | true =>
      have out : a ∉ before := fun m => by rw [h a m] at hp; exact absurd hp (by decide)
      rw [List.filter_cons_of_pos hp, List.foldl_cons, List.erase_append_right _ out, List.erase_cons_head, ih before h,
        List.filter_cons_of_neg (by rw [hp]; decide)]
    | false =>
      have next := ih (before ++ [a]) (fun x hx => by
        rcases List.mem_append.1 hx with hx | hx
        · exact h x hx
        · rw [List.mem_singleton.1 hx]; exact hp)
      rw [List.filter_cons_of_neg (by rw [hp]; decide), List.filter_cons_of_pos (by rw [hp]; rfl)]
      rw [List.append_assoc, List.append_assoc] at next
      exact next

/-- The test R19 puts to a held entry. -/
def Store.admits (t : Store) (level n : Nat) : Bool :=
  match t.entry n with
  | none => false
  | some e => decide (e.level ≤ level)

theorem Store.admits_eq (t : Store) (level n : Nat) :
    t.admits level n = ((t.entry n).map Entry.level).any (fun l => decide (l ≤ level)) := by
  unfold Store.admits
  cases t.entry n <;> rfl

/-- What passes the test of R19 passes it after a filing too, and what fails it fails it: the filing lowers no level but the entry's own. -/
theorem Filing.admits {n : Nat} {s t : State} (h : Filing n s t) {level : Nat} (own : s.store.admits level n = true) (m : Nat) :
    t.store.admits level m = s.store.admits level m := by
  by_cases hm : m = n
  · subst hm
    rw [own]
    cases he : s.store.entry m with
    | none => simp only [Store.admits, he] at own; exact absurd own (by decide)
    | some e =>
      obtain ⟨d, hd, low⟩ := h.own e he
      simp only [Store.admits, he, decide_eq_true_eq] at own
      simp only [Store.admits, hd, decide_eq_true_eq]
      exact Nat.le_trans low own
  · rw [Store.admits_eq, Store.admits_eq, h.others m hm]

theorem State.releaseOne_eq (level : Nat) (s : State) (n : Nat) :
    s.releaseOne level n = if s.store.admits level n then (s.leaveHoldList n).file n else s := by
  unfold State.releaseOne Store.admits
  cases s.store.entry n with
  | none => rfl
  | some e => by_cases h : e.level ≤ level <;> simp [h]

section
variable {walk act : State → Nat → State} {test : State → Nat → Bool} (step : ∀ s n, walk s n = if test s n then act s n else s)
  (stable : ∀ s n, test s n = true → test (act s n) = test s)
  (leaves : ∀ s n, (act s n).intake.holdList = s.intake.holdList.erase n)
include step stable

/-- A walk whose acts do not change its own test acts on the elements that pass it at the start. -/
theorem State.foldl_filter_of_stable (l : List Nat) (s : State) : l.foldl walk s = (l.filter (test s)).foldl act s := by
  induction l generalizing s with
  | nil => rfl
  | cons n l ih =>
    rw [List.foldl_cons, step]
    cases hp : test s n with
    | false =>
      rw [List.filter_cons_of_neg (by rw [hp]; decide)]
      exact ih s
    | true =>
      rw [List.filter_cons_of_pos hp, List.foldl_cons, ← stable s n hp]
      exact ih (act s n)

include leaves

/-- A walk of the hold list that takes off what it acts on (R19, R20). -/
theorem State.walk_holdList (s : State) :
    s.intake.holdList.foldl walk s = (s.intake.holdList.filter (test s)).foldl act s ∧
    (s.intake.holdList.foldl walk s).intake.holdList = s.intake.holdList.filter (fun n => !test s n) := by
  have taken : ∀ (l : List Nat) (u : State), (l.foldl act u).intake.holdList = l.foldl (fun l n => l.erase n) u.intake.holdList := by
    intro l
    induction l with
    | nil => exact fun _ => rfl
    | cons n l ih => exact fun u => (ih (act u n)).trans (by rw [leaves, List.foldl_cons])
  have walked := State.foldl_filter_of_stable step stable s.intake.holdList s
  refine ⟨walked, ?_⟩
  rw [walked, taken]
  exact List.foldl_erase_filter (test s) s.intake.holdList [] (fun _ h => absurd h List.not_mem_nil)

end

/-- The release of R19: where the level has risen, the entries that pass the test leave the hold list and are filed. -/
theorem State.releaseHeld_walk (level : Nat) (s : State) :
    s.intake.holdList.foldl (State.releaseOne level) s =
      (s.intake.holdList.filter (s.store.admits level)).foldl (fun u n => (u.leaveHoldList n).file n) s ∧
    (s.intake.holdList.foldl (State.releaseOne level) s).intake.holdList =
      s.intake.holdList.filter (fun n => !s.store.admits level n) := by
  refine State.walk_holdList (test := fun s n => s.store.admits level n) (State.releaseOne_eq level) (fun s n own => funext fun m => ?_)
    (fun s n => ?_) s
  · have filed : Filing n (s.leaveHoldList n) ((s.leaveHoldList n).file n) := State.file_filing _
    exact filed.admits own m
  · obtain ⟨_, _, _, _, h⟩ := (State.file_filing (n := n) (s.leaveHoldList n)).frame
    rw [h]
    rfl

/-- The fields of a SET_ADMISSION stand at offsets 0 and 1 (12.2). -/
theorem Operands.setAdmission_eq (level control : Byte) :
    Operands.setAdmission [level, control] = (below 4 level.toNat).bind (fun l => (flagOf control.toNat).map (fun c => (l, c))) := by
  have h0 : Bytes.field [level, control] 0 1 = level.toNat := Bytes.field_one _ _
  have h1 : Bytes.field [level, control] 1 1 = control.toNat := Bytes.field_one _ _
  unfold Operands.setAdmission
  rw [h0, h1]
  cases below 4 level.toNat <;> cases flagOf control.toNat <;> rfl

theorem flagOf_bit {n : Nat} (h : n ≤ 1) : flagOf n = some (decide (n = 1)) := by
  obtain rfl | rfl : n = 0 ∨ n = 1 := by omega
  · rfl
  · rfl

theorem flagOf_none {n : Nat} (h : 1 < n) : flagOf n = none := by
  unfold flagOf
  split
  · omega
  · omega
  · rfl

theorem execSetAdmission_outside {s t : State} {place : Nat} {body : List Byte} (taken : s.takeOrder .setAdmission = some (place, body, t))
    (outside : t.link.partState ≠ .restarting) : exec .setAdmission s =
      .next (let a := withOperand Operands.setAdmission setAdmissionAct body t; a.2.2.reply place a.1 a.2.1) := by
  show Host.Outcome.next (s.answerOrder .setAdmission _) = _
  rw [State.answerOrder_taken taken, outsideRestart_served outside]

/-- Settles O6: the release of R19 by the walk of the hold list, the order by its outcomes. -/
theorem setAdmissionReplacesBoth : Obligations.SetAdmissionReplacesBoth := by
  refine ⟨fun s before => ?_, fun s t place level control taken outside fits bit => ?_,
    fun s t place level control taken outside bad => ?_⟩
  · refine ⟨fun low => if_neg (Nat.not_lt.2 low), fun rise => ?_⟩
    have risen : s.releaseHeld before = s.intake.holdList.foldl (State.releaseOne s.effectiveLevel) s := if_pos rise
    have walk := State.releaseHeld_walk s.effectiveLevel s
    rw [risen]
    exact walk
  · have named : (control.toNat = 1) = (control = 1) := propext ⟨fun h => BitVec.eq_of_toNat_eq h, fun h => by rw [h]; rfl⟩
    have fields : Operands.setAdmission [level, control] = some (level.toNat, decide (control = 1)) := by
      rw [Operands.setAdmission_eq, Operands.below_of_lt (Nat.lt_succ_of_le fits), flagOf_bit bit, Option.bind_some, Option.map_some]
      simp only [named]
    rw [execSetAdmission_outside taken outside, withOperand_some fields]
    have effective : (t.withIntake { t.intake with hostLevel := level.toNat, congestionControl := decide (control = 1) }).effectiveLevel =
        if control = 1 then min level.toNat t.store.congestion else level.toNat := by
      rw [State.effectiveLevel_eq]
      exact if_congr decide_eq_true_iff rfl rfl
    dsimp only [setAdmissionAct]
    rw [effective]
    rfl
  · have fields : Operands.setAdmission [level, control] = none := by
      rw [Operands.setAdmission_eq]
      rcases bad with high | high
      · rw [Operands.below_of_le (n := level.toNat) high]; rfl
      · rw [flagOf_none high]; cases below 4 level.toNat <;> rfl
    rw [execSetAdmission_outside taken outside, withOperand_none fields]

end Sys2Proof.Machine
end

section
/-! SUPPORT. The end of an entry and of a settlement (O36). -/

namespace Sys2Proof.Machine

/-! ### The end of an entry (R4, R5, R19, R130) -/

/-- A slot written and then cleared holds nothing, as if it had only been cleared. -/
theorem Table.filter_insert {α : Type} (t : Table α) (n : Nat) (v : α) :
    (Table.insert t n v).filter (fun e => decide (e.1 ≠ n)) = t.filter (fun e => decide (e.1 ≠ n)) := by
  induction t with
  | nil => simp [Table.insert]
  | cons e t ih =>
    obtain ⟨k, w⟩ := e
    simp only [Table.insert]
    split
    · simp
    · split
      · rename_i h; subst h; simp
      · rename_i h
        rw [List.filter_cons_of_pos (by simpa using h), List.filter_cons_of_pos (by simpa using h), ih]

theorem Table.set_default_set {α : Type} [DecidableEq α] (d : α) (t : Table α) (n : Nat) (v : α) :
    Table.set d (Table.set d t n v) n d = Table.set d t n d := by
  unfold Table.set
  rw [if_pos rfl, if_pos rfl]
  split
  · rw [List.filter_filter]; simp
  · exact Table.filter_insert t n v

theorem Store.body_setBody (t : Store) (n m : Nat) (v : Option Body) :
    (t.setBody n v).body m = if n = m then v else t.body m := Table.get_set none t.bodies n m v

/-- A body loses a reference; with none left and no submission in progress it is freed (R1, R130). -/
theorem Store.lowerReferences_eq {t : Store} {n : Nat} {b : Body} (h : t.body n = some b) :
    t.lowerReferences n =
      if b.references ≤ 1 ∧ b.inSubmission = false then
        { t.setBody n none with freeBodies := { t.freeBodies with returned := t.freeBodies.returned ++ [n] } }
      else t.setBody n (some { b with references := b.references - 1 }) := by
  have found : (t.setBody n (some { b with references := b.references - 1 })).body n =
      some { b with references := b.references - 1 } := by
    rw [Store.body_setBody, if_pos rfl]
  simp only [Store.lowerReferences, h, Store.releaseIfUnused, found]
  refine if_congr (and_congr_left fun _ => Nat.sub_eq_zero_iff_le) ?_ rfl
  simp only [Store.setBody, Table.set_default_set, FreeList.give]

/-- What the release of held entries can change: what their filing can, and the hold list. -/
structure Releasing (s t : State) : Prop where
  frame : ∃ (entries : Table (Option Entry)) (c : Cache) (a : Assembler) (holdList : List Nat) (new : List SettleElement), t = { s with
    store := { s.store with entries }, cache := c, assembler := a, intake := { s.intake with holdList }
    charging := { s.charging with settleList := s.charging.settleList ++ new } }
  free : ∀ n, s.store.entry n = none → t.store.entry n = none

theorem Releasing.refl (s : State) : Releasing s s := ⟨⟨_, _, _, _, [], by rw [List.append_nil]⟩, fun _ => id⟩

theorem Releasing.trans {s t u : State} (h : Releasing s t) (k : Releasing t u) : Releasing s u where
  frame := by
    obtain ⟨_, _, _, _, new, rfl⟩ := h.frame
    obtain ⟨_, _, _, _, more, rfl⟩ := k.frame
    exact ⟨_, _, _, _, new ++ more, by rw [← List.append_assoc]⟩
  free n := k.free n ∘ h.free n

theorem Filing.releasing {n : Nat} {s t : State} (h : Filing n s t) : Releasing s t where
  frame := by
    obtain ⟨entries, c, a, new, rfl⟩ := h.frame
    exact ⟨entries, c, a, s.intake.holdList, new, rfl⟩
  free m hm := by
    by_cases e : m = n
    · subst e; exact h.free hm
    · exact Option.map_eq_none_iff.1 ((h.others m e).trans (by rw [hm]; rfl))

theorem State.releaseHeld_releasing (before : Nat) (s : State) : Releasing s (s.releaseHeld before) := by
  unfold State.releaseHeld
  split
  · rename_i rise
    clear rise
    generalize s.effectiveLevel = level
    generalize s.intake.holdList = l
    induction l generalizing s with
    | nil => exact Releasing.refl s
    | cons n l ih =>
      refine Releasing.trans ?_ (ih (s.releaseOne level n))
      rw [State.releaseOne_eq]
      split
      · have left : Releasing s (s.leaveHoldList n) :=
          ⟨⟨_, _, _, s.intake.holdList.erase n, [], by rw [List.append_nil]; rfl⟩, fun _ => id⟩
        exact left.trans (State.file_filing (n := n) _).releasing
      · exact Releasing.refl s
  · exact Releasing.refl s

/-- A change of the occupancy moves the occupancy and the congestion level, and offers at most a notice. -/
theorem State.setOccupancy_eq (n : Nat) (s : State) : s.setOccupancy n = { s with
    link := if congestionAfter s.store.congestion n = s.store.congestion then s.link
      else s.link.offerNotice (.congestion (congestionAfter s.store.congestion n) n
        (Machine.effectiveLevel s.intake.hostLevel (congestionAfter s.store.congestion n) s.intake.congestionControl))
    store := { s.store with occupancy := n, congestion := congestionAfter s.store.congestion n } } := by
  unfold State.setOccupancy
  dsimp only
  split
  · rfl
  · rfl

theorem State.freeEntry_eq {s : State} {n : Nat} {e : Entry} (h : s.store.entry n = some e) :
    s.freeEntry n = (s.withStore { s.store.setEntry n none with freeEntries := s.store.freeEntries.give n }).setOccupancy
      (s.store.occupancy - 1) := by
  simp only [State.freeEntry, h]

/-- The end of an entry, as the settlement's third step needs it. -/
theorem State.endEntry_frame {s : State} {n : Nat} {e : Entry} (h : s.store.entry n = some e) :
    let t := s.endEntry n
    t.log = s.log ∧ t.store.bodies = s.store.bodies ∧ t.store.occupancy = s.store.occupancy - 1 ∧ t.store.entry n = none ∧
      t.charging.counts = s.charging.counts ∧ ∃ released, t.charging.settleList = s.charging.settleList ++ released := by
  intro t
  have freed : (s.freeEntry n).store.entry n = none := by
    rw [State.freeEntry_eq h, State.setOccupancy_eq]
    show (s.store.setEntry n none).entry n = none
    rw [Store.entry_setEntry, if_pos rfl]
  have released := State.releaseHeld_releasing s.effectiveLevel (s.freeEntry n)
  obtain ⟨_, _, _, _, new, frame⟩ := released.frame
  have ht : t = _ := frame
  refine ⟨?_, ?_, ?_, released.free n freed, ?_, ⟨new, ?_⟩⟩
  all_goals rw [ht, State.freeEntry_eq h, State.setOccupancy_eq] <;> rfl

/-! ### The end of a settlement (R130, R137, R139) -/

theorem firstSequence_append (rs : List BillingRecord) (r : BillingRecord) :
    firstSequence (rs ++ [r]) = (rs.head?.map BillingRecord.sequence).getD r.sequence := by
  cases rs <;> rfl

theorem lastSequence_append (rs : List BillingRecord) (r : BillingRecord) : lastSequence (rs ++ [r]) = r.sequence := by
  rw [lastSequence_eq, List.getLast?_append]
  rfl

/-- The log once a record fills the set-aside place, before the LOG_HIGH test (R137). -/
def BillingLog.append (l : BillingLog) (r : BillingRecord) : BillingLog :=
  { l with
    records := l.records ++ [r], setAside := false, nextSequence := nextNumber l.nextSequence
    greatest := max l.greatest (l.records.length + 1), counts := { l.counts with appended := l.counts.appended + 1 } }

/-- A record is appended: with the mark ARMED and 768 or more held, a LOG_HIGH notice is offered with them (R137, R139). -/
theorem State.appendRecord_eq (r : BillingRecord) (s : State) : s.appendRecord r =
    if s.log.high = .armed ∧ 768 ≤ s.log.records.length + 1 then { s with
      link := s.link.offerNotice (.logHigh (s.log.records.length + 1)
        ((s.log.records.head?.map BillingRecord.sequence).getD r.sequence) r.sequence false)
      log := { s.log.append r with
        high := .sent, counts := { (s.log.append r).counts with highNotices := (s.log.append r).counts.highNotices + 1 } } }
    else { s with log := s.log.append r } := by
  unfold State.appendRecord
  dsimp only
  refine if_congr Iff.rfl ?_ rfl
  simp only [State.warnHigh, BillingLog.highNotice, State.withLog_log, firstSequence_append, lastSequence_append, List.length_append,
    List.length_singleton]
  rfl

/-- What an append changes beside the records: the link's notices, the mark and its count (R137, R139). -/
theorem State.appendRecord_log (r : BillingRecord) (s : State) :
    (∃ link log, s.appendRecord r = { s with link, log }) ∧
    (s.appendRecord r).log = { s.log.append r with
      high := if s.log.high = .armed ∧ 768 ≤ s.log.records.length + 1 then .sent else s.log.high
      counts := { (s.log.append r).counts with highNotices :=
        if s.log.high = .armed ∧ 768 ≤ s.log.records.length + 1 then s.log.counts.highNotices + 1 else s.log.counts.highNotices } } := by
  rw [State.appendRecord_eq]
  split
  · exact ⟨⟨_, _, rfl⟩, rfl⟩
  · exact ⟨⟨_, _, rfl⟩, rfl⟩

/-- The notice step is counted once and leaves the rest of the state but for the notice (R144). -/
theorem State.outcomeNotice_frame (n : Nat) (r : BillingRecord) (s : State) :
    let t := s.outcomeNotice n r
    (∃ link log, t = { s with link, log }) ∧ ∃ offered passed, t.log = { s.log with counts := { s.log.counts with
      outcomesOffered := offered, outcomesPassed := passed } } ∧
      offered + passed = s.log.counts.outcomesOffered + s.log.counts.outcomesPassed + 1 := by
  intro t
  by_cases h : s.log.selection.wants r.outcome r.replyCode = true
  · have ht : t = _ := if_pos h
    rw [ht]
    exact ⟨⟨_, _, rfl⟩, _, _, rfl, add_right_comm _ _ _⟩
  · have ht : t = _ := if_neg h
    rw [ht]
    exact ⟨⟨_, _, rfl⟩, _, _, rfl, (add_assoc _ _ _).symm⟩

/-- Settles O36: each step of the end by its own equation. -/
theorem settlementFinished : Obligations.SettlementFinished := by
  refine ⟨fun s n => ?_, fun s n e live => ?_, fun s el rest e o b m plan head live outcome body => ?_⟩
  · rw [State.setOccupancy_eq]
    show (congestionAfter s.store.congestion n = s.store.congestion → _ = ({ s with
        store := { s.store with occupancy := n, congestion := congestionAfter s.store.congestion n } } : State)) ∧
      (congestionAfter s.store.congestion n ≠ s.store.congestion → _ = ({ s with
        store := { s.store with occupancy := n, congestion := congestionAfter s.store.congestion n }
        link := s.link.offerNotice (.congestion (congestionAfter s.store.congestion n) n
          (Machine.effectiveLevel s.intake.hostLevel (congestionAfter s.store.congestion n) s.intake.congestionControl)) } : State))
    exact ⟨fun stays => by rw [if_pos stays], fun moves => by rw [if_neg moves]⟩
  · show (s.freeEntry n).releaseHeld s.effectiveLevel = _
    rw [State.freeEntry_eq live]
    rfl
  · intro t record n counts held sequence log warned logged lowered ended
    have isRecord : s.billingRecord e el m plan = record := by
      simp only [State.billingRecord, body, outcome, Option.getD_some, record]
    have isLogged : s.appendRecord record = logged := State.appendRecord_eq record s
    obtain ⟨⟨link, _, appended⟩, appendedLog⟩ := State.appendRecord_log record s
    rw [isLogged] at appended appendedLog
    have store : logged.store = s.store := by rw [appended]
    have charging : logged.charging = s.charging := by rw [appended]
    have isLowered : logged.lowerReferences e.body = { logged with store := lowered } := by
      have h : s.store.lowerReferences e.body = lowered := Store.lowerReferences_eq body
      show logged.withStore (logged.store.lowerReferences e.body) = _
      rw [store, h]
      rfl
    have others : lowered.entries = s.store.entries ∧ lowered.occupancy = s.store.occupancy ∧
        lowered.body e.body =
          if b.references ≤ 1 ∧ b.inSubmission = false then none else some { b with references := b.references - 1 } := by
      show Store.entries (if _ then _ else _) = _ ∧ Store.occupancy (if _ then _ else _) = _ ∧ Store.body (if _ then _ else _) _ = _
      split
      · exact ⟨rfl, rfl, (Store.body_setBody s.store e.body e.body none).trans (if_pos rfl)⟩
      · exact ⟨rfl, rfl, (Store.body_setBody s.store e.body e.body _).trans (if_pos rfl)⟩
    obtain ⟨entries, occupancy, lowerBody⟩ := others
    have alive : ({ logged with store := lowered } : State).store.entry el.entry = some e := by
      show Table.get none lowered.entries el.entry = _
      rw [entries]
      exact live
    obtain ⟨endLog, endBodies, endOccupancy, endEntry, endCounts, released, endList⟩ := State.endEntry_frame alive
    obtain ⟨⟨link', log', noticed⟩, offered, passed, noticedLog, once⟩ :=
      State.outcomeNotice_frame el.entry record (({ logged with store := lowered } : State).endEntry el.entry)
    have endedStore : ended.store = (({ logged with store := lowered } : State).endEntry el.entry).store := by
      show State.store (State.outcomeNotice _ _ _) = _
      rw [noticed]
    have endedCharging : ended.charging = (({ logged with store := lowered } : State).endEntry el.entry).charging := by
      show State.charging (State.outcomeNotice _ _ _) = _
      rw [noticed]
    have endedCounts : ended.charging.counts.afterSettlement m plan.isNone = counts := by
      rw [endedCharging, endCounts, charging]
      cases plan <;> rfl
    have endedList : ended.charging.settleList = el :: (rest ++ released) := by
      rw [endedCharging, endList]
      show logged.charging.settleList ++ _ = _
      rw [charging, head]
      rfl
    have endedLog : ended.log = _ := noticedLog.trans (congrArg (fun l : BillingLog =>
      { l with counts := { l.counts with outcomesOffered := offered, outcomesPassed := passed } }) (endLog.trans appendedLog))
    rw [endLog, appendedLog] at once
    have isEnded : t = { ended with charging := { ended.charging with
        settleList := ended.charging.settleList.tail, head := .idle, counts } } := by
      rw [← endedCounts]
      show s.finishSettlement el e m plan = _
      unfold State.finishSettlement
      dsimp only
      rw [isRecord, isLogged, isLowered]
      rfl
    refine ⟨isEnded, ?_⟩
    rw [isEnded]
    dsimp only
    rw [endedLog, endedStore, endedList]
    refine ⟨rfl, rfl, rfl, rfl, fun armed high => ?_, fun low => ?_, once, rfl, rfl, ?_, endEntry, ?_, rfl, ⟨released, rfl⟩, rfl⟩
    · exact ⟨if_pos ⟨armed, high⟩, if_pos ⟨armed, high⟩⟩
    · have not : ¬(s.log.high = .armed ∧ 768 ≤ s.log.records.length + 1) := by
        rintro ⟨armed, high⟩
        rcases low with sent | low
        · rw [sent] at armed; exact absurd armed (by decide)
        · exact absurd high (Nat.not_le.2 low)
      exact ⟨if_neg not, if_neg not⟩
    · exact (congrArg (fun t => Table.get none t e.body) endBodies).trans lowerBody
    · exact endOccupancy.trans (congrArg (· - 1) occupancy)

end Sys2Proof.Machine
end

section
/-! SUPPORT. Where an entry is filed, the retry list's order, the expiry of held entries (O42). -/

namespace Sys2Proof.Machine

/-! ### Where an entry is filed (R11, R64, R108) -/

theorem State.fileQuietly_settles {s : State} {n : Nat} {outcome : EntryOutcome} (h : s.filingOutcome n = some outcome) :
    s.fileQuietly n = s.settle n outcome 0 := by
  simp only [State.fileQuietly, h]

theorem State.fileQuietly_queues {s : State} {n : Nat} {e : Entry} (h : s.filingOutcome n = none) (live : s.store.entry n = some e) :
    s.fileQuietly n = (s.changeEntry n (fun e => { e with state := .queued, retryAt := none })).joinQueue n (s.homeFrame e.sub) := by
  simp only [State.fileQuietly, h, live]

theorem State.filingOutcome_restarting {s : State} (h : s.link.partState = .restarting) (n : Nat) :
    s.filingOutcome n = some .cancelled := if_pos h

/-- Outside RESTARTING the lifetime alone decides a filing (R64). -/
theorem State.filingOutcome_served {s : State} {n : Nat} {e : Entry} (h : s.link.partState ≠ .restarting)
    (live : s.store.entry n = some e) :
    ((∃ f, s.assembler.openFrame = some f ∧ e.expiryCycle < f.cycle) → s.filingOutcome n = some .expiredLifetime) ∧
    (¬(∃ f, s.assembler.openFrame = some f ∧ e.expiryCycle < f.cycle) → s.filingOutcome n = none) := by
  unfold State.filingOutcome
  rw [if_neg h, live]
  cases s.assembler.openFrame with
  | none => exact ⟨fun ⟨f, hf, _⟩ => absurd hf (by simp), fun _ => rfl⟩
  | some f =>
    refine ⟨fun ⟨g, hg, late⟩ => ?_, fun early => ?_⟩
    · obtain rfl := Option.some.inj hg
      exact if_pos late
    · exact if_neg (fun late => early ⟨f, rfl, late⟩)

/-- In RESTARTING a filing settles the entry, and that is all (R64). -/
theorem State.file_restarting {s : State} (h : s.link.partState = .restarting) (n : Nat) : s.file n = s.settle n .cancelled 0 := by
  have outcome := State.filingOutcome_restarting h n
  simp only [State.file, outcome, State.fileQuietly_settles outcome]

/-- An entry joins a queue behind those it does not precede and before the first it precedes. -/
theorem insertQueued_split (t : Store) (n : Nat) (l : List Nat) : ∃ before after, l = before ++ after ∧
    insertQueued t n l = before ++ n :: after ∧ (∀ m ∈ before, queueBefore t n m = false) ∧
    ∀ m ∈ after.head?, queueBefore t n m = true := by
  induction l with
  | nil => exact ⟨[], [], rfl, rfl, by simp, by simp⟩
  | cons m l ih =>
    cases hm : queueBefore t n m with
    | true => exact ⟨[], m :: l, rfl, by simp [insertQueued, hm], by simp, by simpa using hm⟩
    | false =>
      obtain ⟨before, after, rfl, joined, behind, ahead⟩ := ih
      refine ⟨m :: before, after, rfl, by simp [insertQueued, hm, joined], fun k hk => ?_, ahead⟩
      rcases List.mem_cons.1 hk with rfl | hk
      · exact hm
      · exact behind k hk

/-- An element joins the retry list behind those it does not precede and before the first it precedes. -/
theorem insertRetry_split (t : Store) (x : RetryElement) (l : List RetryElement) : ∃ before after, l = before ++ after ∧
    insertRetry t x l = before ++ x :: after ∧ (∀ y ∈ before, retryBefore t x y = false) ∧
    ∀ y ∈ after.head?, retryBefore t x y = true := by
  induction l with
  | nil => exact ⟨[], [], rfl, rfl, by simp, by simp⟩
  | cons y l ih =>
    cases hy : retryBefore t x y with
    | true => exact ⟨[], y :: l, rfl, by simp [insertRetry, hy], by simp, by simpa using hy⟩
    | false =>
      obtain ⟨before, after, rfl, joined, behind, ahead⟩ := ih
      refine ⟨y :: before, after, rfl, by simp [insertRetry, hy, joined], fun k hk => ?_, ahead⟩
      rcases List.mem_cons.1 hk with rfl | hk
      · exact hy
      · exact behind k hk

theorem queueBefore_iff {t : Store} {n m : Nat} {e d : Entry} (hn : t.entry n = some e) (hm : t.entry m = some d) :
    queueBefore t n m = true ↔ e.level < d.level ∨ (e.level = d.level ∧ e.admission < d.admission) := by
  simp only [queueBefore, hn, hm, Bool.or_eq_true, Bool.and_eq_true, decide_eq_true_eq]

theorem retryBefore_iff (t : Store) (x y : RetryElement) : retryBefore t x y = true ↔
    x.retryAt < y.retryAt ∨ (x.retryAt = y.retryAt ∧ t.admissionOf x.entry < t.admissionOf y.entry) := by
  simp only [retryBefore, Bool.or_eq_true, Bool.and_eq_true, decide_eq_true_eq]

theorem Store.admissionOf_eq (t : Store) (n : Nat) : t.admissionOf n = ((t.entry n).map Entry.admission).getD 0 := by
  unfold Store.admissionOf
  cases t.entry n <;> rfl

/-- A change that keeps an entry's admission sequence keeps every one. -/
theorem Store.admissionOf_changeEntry (t : Store) (n m : Nat) {f : Entry → Entry} (h : ∀ e, (f e).admission = e.admission) :
    (t.changeEntry n f).admissionOf m = t.admissionOf m := by
  rw [Store.admissionOf_eq, Store.admissionOf_eq, Store.entry_changeEntry]
  split
  · rw [Option.map_map, show Entry.admission ∘ f = Entry.admission from funext h]
  · rfl

/-- A held entry past its lifetime at a cycle turn (R20). -/
def Store.expired (t : Store) (coming : Word32) (n : Nat) : Bool :=
  match t.entry n with
  | none => false
  | some e => decide (e.expiryCycle < coming)

theorem Store.expired_eq (t : Store) (coming : Word32) (n : Nat) :
    t.expired coming n = ((t.entry n).map Entry.expiryCycle).any (fun c => decide (c < coming)) := by
  unfold Store.expired
  cases t.entry n <;> rfl

/-- Settling an entry moves no expiry cycle. -/
theorem State.expired_settle (s : State) (coming : Word32) (n m : Nat) (outcome : EntryOutcome) (code : Nat) :
    (s.settle n outcome code).store.expired coming m = s.store.expired coming m := by
  rw [Store.expired_eq, Store.expired_eq, State.settle_eq]
  dsimp only
  rw [Store.entry_changeEntry]
  split
  · rw [Option.map_map]; rfl
  · rfl

/-- The expiry of held entries: those past their lifetime leave the hold list and settle (R20). -/
theorem State.expireHeld_walk (coming : Word32) (s : State) :
    s.expireHeld coming = (s.intake.holdList.filter (s.store.expired coming)).foldl
      (fun u n => (u.leaveHoldList n).settle n .expiredLifetime 0) s ∧
    (s.expireHeld coming).intake.holdList = s.intake.holdList.filter (fun n => !s.store.expired coming n) := by
  refine State.walk_holdList (test := fun s n => s.store.expired coming n) (fun s n => ?_) (fun s n _ => funext fun m => ?_) (fun s n => rfl) s
  · unfold Store.expired
    cases s.store.entry n with
    | none => rfl
    | some e => by_cases h : e.expiryCycle < coming <;> simp [h]
  · exact State.expired_settle (s.leaveHoldList n) coming n m _ _

/-- Settles O42: a new entry by the branches of `fileNew`, the queue and the retry list by the place their order gives. -/
theorem entriesFiled : Obligations.EntriesFiled := by
  refine ⟨fun s n e r live => ⟨fun restarting => ?_, fun served lost => ?_, fun served reached low => ?_, fun served reached high => ?_⟩,
    fun s n e live => ?_, fun s coming => State.expireHeld_walk coming s, fun s x e live => ?_⟩
  · simp only [State.fileNew, live, if_pos restarting, State.file_restarting restarting]
    split
    · rfl
    · split <;> rfl
  · simp only [State.fileNew, live, lost, if_true, if_neg served]
  · simp only [State.fileNew, live, reached, Bool.false_eq_true, if_false, if_pos low]
  · simp only [State.fileNew, live, reached, Bool.false_eq_true, if_false, if_neg (Nat.not_le.2 high), if_neg served]
    simp only [State.changeEntry, Store.changeEntry_of_some live]
    rfl
  · intro late home
    refine ⟨fun restarting => State.fileQuietly_settles (State.filingOutcome_restarting restarting n), fun served expired => ?_,
      fun served early => ?_⟩
    · exact State.fileQuietly_settles ((State.filingOutcome_served served live).1 expired)
    · have queued := State.fileQuietly_queues ((State.filingOutcome_served served live).2 early) live
      let store := s.store.setEntry n (some { e with state := .queued, retryAt := none })
      obtain ⟨before, after, split, joined, behind, ahead⟩ := insertQueued_split store n (s.assembler.queue home)
      have own : store.entry n = some { e with state := .queued, retryAt := none } := (Store.entry_setEntry _ _ _ _).trans (if_pos rfl)
      have other : ∀ m d, m ≠ n → s.store.entry m = some d → store.entry m = some d := fun m d hm h =>
        ((Store.entry_setEntry _ _ _ _).trans (if_neg (Ne.symm hm))).trans h
      refine ⟨Table.set [] s.assembler.queues home (insertQueued store n (s.assembler.queue home)), before, after, ?_, split, ?_,
        fun k hk => ?_, fun m hm d ne hd => ?_, fun m hm d ne hd => ?_⟩
      · rw [queued, State.changeEntry, Store.changeEntry_of_some live]
        rfl
      · rw [Table.get_set, if_pos rfl, joined]
      · rw [Table.get_set, if_neg (Ne.symm hk)]
      · have not := mt (queueBefore_iff own (other m d ne hd)).2 (by rw [behind m hm]; decide)
        rcases Nat.lt_trichotomy d.level e.level with low | same | high
        · exact .inl low
        · exact .inr ⟨same, BitVec.not_lt.1 (fun later => not (.inr ⟨same.symm, later⟩))⟩
        · exact absurd (.inl high) not
      · exact (queueBefore_iff own (other m d ne hd)).1 (ahead m hm)
  · intro t sequence first
    let store := s.store.setEntry x.entry (some { e with state := .retryWait, retryAt := some x.retryAt })
    have changed : s.store.changeEntry x.entry (fun e => { e with state := .retryWait, retryAt := some x.retryAt }) = store :=
      Store.changeEntry_of_some live _
    have same : ∀ y : RetryElement, store.admissionOf y.entry = sequence y := fun y =>
      changed ▸ Store.admissionOf_changeEntry s.store x.entry y.entry (fun _ => rfl)
    have precedes : ∀ y, retryBefore store x y = true ↔ first x y := fun y => by rw [retryBefore_iff, same, same]
    have ht : t = { s with store := store, retry := { s.retry with list := insertRetry store x s.retry.list } } := by
      show s.joinRetryList x = _
      rw [← changed]
      rfl
    obtain ⟨before, after, split, joined, behind, ahead⟩ := insertRetry_split store x s.retry.list
    refine ⟨by rw [ht], before, after, split, by rw [ht]; exact joined, fun y hy => ?_, fun y hy => (precedes y).1 (ahead y hy)⟩
    exact mt (precedes y).2 (by rw [behind y hy]; decide)

end Sys2Proof.Machine
end

section
/-! SUPPORT. A holding read served, the checks on its record, and the end of a SUBMIT (O41). -/

namespace Sys2Proof.Machine

/-! ### A holding read whose turn has come (R31) -/

/-- The way a line holds its subscriber in carries valid contents (R29). -/
theorem Cache.onChip_valid {c : Cache} {n way : Nat} (h : c.onChip n = some way) : (c.line n way).state.valid = true := by
  unfold Cache.onChip at h
  split at h
  · exact absurd h (by simp)
  · split at h
    · rename_i valid
      obtain rfl := Option.some.inj h
      exact valid
    · exact absurd h (by simp)

theorem State.heldTurn_valid {s : State} {kind : RequestKind} {sub way : Nat} (h : s.heldTurn kind = some (sub, way)) :
    (s.cache.line sub way).state.valid = true := by
  unfold State.heldTurn at h
  split at h
  · exact absurd h (by simp)
  · split at h
    · obtain ⟨w, onChip, pair⟩ := Option.map_eq_some_iff.1 h
      obtain ⟨rfl, rfl⟩ := Prod.mk.inj pair
      exact Cache.onChip_valid onChip
    · exact absurd h (by simp)

/-- The record a holding read gives is the line's, rolled (R28, R31). -/
theorem State.serveHolding_record {s : State} {sub way : Nat} (valid : (s.cache.line sub way).state.valid = true) :
    (s.serveHolding sub way).lineRecord sub way = (s.cache.line sub way).record.roll s.charging.period :=
  (State.closingUpdate_held s sub way valid id).choose_spec.2.2

/-- A holding read served and released with no update: the line holds the record as rolled (R8, R31). -/
theorem State.serveHolding_release {s : State} {sub way : Nat} (valid : (s.cache.line sub way).state.valid = true) :
    ∃ c, HeldUpdate s.cache c sub way ((s.cache.line sub way).record.roll s.charging.period) ∧
      (s.serveHolding sub way).release sub = { s with cache := c } := by
  obtain ⟨record, tag, stays, lines, frame⟩ := Cache.access_spec (s.cache.withoutFront sub) s.charging.period sub way valid
  refine ⟨((s.serveHolding sub way).release sub).cache, ?_, rfl⟩
  have same : ((s.serveHolding sub way).release sub).cache = { (s.cache.withoutFront sub).access s.charging.period sub way with
      holds := s.cache.holds.filter (fun m => decide (m ≠ sub)) } := by
    show ({ (s.cache.withoutFront sub).access s.charging.period sub way with holds := List.filter _ (sub :: _) } : Cache) = _
    rw [List.filter_cons_of_neg (by simp), frame]
    rfl
  rw [same]
  exact { record, tag, valid := stays, lines, queue := by rw [frame]; rfl, holds := rfl, heldRequests := by rw [frame]; rfl,
          fills := by rw [frame]; rfl, sweep := by rw [frame]; rfl, policy := by rw [frame]; rfl, limit := by rw [frame]; rfl,
          addressBase := by rw [frame]; rfl }

/-! ### The checks on the record and the reservation (R8, R9, R123) -/

theorem State.reservationFor_eq (s : State) (m : Submission) (r : Record) (member : Bool) : s.reservationFor m r member =
    if r.host.account = .prepaid then
      (s.charging.activePlan r.host.plan).estimate (blocksFor m r) m.level (s.retry.row m.level).maxAttempts member
    else 0 := by
  unfold State.reservationFor
  cases h : r.host.account <;> rfl

theorem Store.hasRoom_iff (t : Store) : t.hasRoom = false ↔ t.freeBodies.length = 0 ∨ t.available = 0 := by
  unfold Store.hasRoom
  rw [Bool.and_eq_false_iff, decide_eq_false_iff_not, decide_eq_false_iff_not, Nat.not_lt, Nat.not_lt, Nat.le_zero, Nat.le_zero]

/-- The checks on the record, in their order (R8). -/
theorem admissionRefusal_eq (m : Submission) (r : Record) (room : Bool) (reservation : Nat) :
    admissionRefusal m r room reservation =
      if r.host.status ≠ .active then some (.subRefused, .statusFound r.host.status)
      else if m.encoding = .text ∧ r.host.capability = .numeric then some (.capability, .none)
      else if 32 ≤ r.live then some (.subLimit, .none)
      else if room = false then some (.storeFull, .none)
      else if r.host.account = .prepaid ∧ (r.exhausted = true ∨ r.balance < r.reserved + reservation) then some (.noFunds, .none)
      else none := rfl

/-! ### A SUBMIT read served (R8, R10) -/

theorem execIntakeReadServed_held {s : State} {sub way place n : Nat} {m : Submission} (turn : s.heldTurn .intakeRead = some (sub, way))
    (order : s.intake.order = some (.submit place n m)) :
    exec .intakeReadServed s = .next ((s.serveHolding sub way).completeSubmit place sub way m).settleDown := by
  show execIntakeReadServed s = _
  simp only [execIntakeReadServed, turn, order]

/-- An entry is admitted where a slot is free (R10, R11). -/
theorem State.admitEntry_of_take {s : State} {k : Nat} {entries : FreeList} (free : s.store.freeEntries.take = some (k, entries))
    (sub way body : Nat) (group : Option Nat) (m : Submission) (r : Record) (reservation : Nat) :
    s.admitEntry sub way body group m r reservation = some (k, (((((s.withStore { s.store with
      freeEntries := entries, entries := Table.set none s.store.entries k (some (newEntry s sub body group m.level (blocksFor m r) reservation
        (downgrades m.encoding r.host.capability))), nextAdmission := s.store.nextAdmission + 1 }).setOccupancy
          (s.store.occupancy + 1)).closingUpdate sub way (intakeUpdate reservation)).serveSub sub).fileNew k r)) := by
  simp only [State.admitEntry, State.createEntry, free, Option.map_some]

/-- Settles O41: the read gives the record as rolled; the checks refuse it, or the message is created. -/
theorem intakeReadDecidesSubmit : Obligations.IntakeReadDecidesSubmit := by
  intro s sub way place n m turn order r downgraded blocks row reservation refusal
  have valid := State.heldTurn_valid turn
  have record : (s.serveHolding sub way).lineRecord sub way = r := State.serveHolding_record valid
  have reserved : (s.serveHolding sub way).reservationFor m r false = reservation := State.reservationFor_eq _ m r false
  have checks : admissionRefusal m r (s.serveHolding sub way).store.hasRoom reservation = refusal := by
    rw [admissionRefusal_eq]
    show _ = if _ then _ else if _ then _ else if _ then _ else if _ then _ else if _ then _ else _
    simp only [Store.hasRoom_iff]
    rfl
  rw [execIntakeReadServed_held turn order]
  refine ⟨fun code body refused => ?_, fun slot bodies k entries passed freeBody freeEntry => ?_⟩
  · obtain ⟨c, held, released⟩ := State.serveHolding_release valid
    refine ⟨c, held, ?_⟩
    simp only [State.completeSubmit, record, reserved, checks, refused, State.refuseSubmit, released]
    rfl
  · intro entry created released filed
    have create : (s.serveHolding sub way).createMessage place sub way m r reservation = some
        (({ filed with intake := { filed.intake with order := none } } : State).reply place .ok
          (.submitted s.store.nextMessage k (filed.filedState k) blocks reservation m.substitutions m.truncated downgraded)) := by
      have body := Store.takeBody_of_take (t := (s.serveHolding sub way).store) freeBody m (some s.store.nextMessage) 1 false
      let drawn : State := (s.serveHolding sub way).withStore { s.store with
        freeBodies := bodies, nextMessage := nextNumber s.store.nextMessage
        bodies := Table.set none s.store.bodies slot (some
          { message := some s.store.nextMessage, encoding := m.encoding, content := m.content, references := 1,
            inSubmission := false }) }
      have entryMade := State.admitEntry_of_take (s := drawn) freeEntry sub way slot none m r reservation
      have same : drawn.admitEntry sub way slot none m r reservation = some (k, filed) := entryMade
      refine Option.bind_eq_some_iff.2 ⟨_, body, ?_⟩
      refine Option.bind_eq_some_iff.2 ⟨_, same, ?_⟩
      rfl
    simp only [State.completeSubmit, record, reserved, checks, passed, create]

end Sys2Proof.Machine
end

section
/-! SUPPORT. The members of a group submission (O43). -/

namespace Sys2Proof.Machine

/-! ### The members of a group submission (R15 to R17) -/

/-- The body of a group submission gains an entry; its first entry draws the message number (R15). -/
theorem Store.addReference_eq {t : Store} {n : Nat} {b : Body} (h : t.body n = some b) :
    t.addReference n = { t with
      bodies := Table.set none t.bodies n (some { b with references := b.references + 1, message := some (b.message.getD t.nextMessage) })
      nextMessage := if b.message ≠ none then t.nextMessage else nextNumber t.nextMessage } := by
  simp only [Store.addReference, h]
  cases hm : b.message with
  | none => rfl
  | some number =>
    simp only [Store.setBody, Option.getD_some, ne_eq, reduceCtorEq, not_false_eq_true, if_true]

theorem State.endGroup_eq {s : State} {g : GroupOrder} {b : Body} (h : s.store.body g.body = some b) :
    s.endGroup g = ({ s with
      store := (s.store.setBody g.body (some { b with inSubmission := false })).releaseIfUnused g.body
      intake := { s.intake with order := none } } : State).reply g.place .ok
        (.groupEnded (b.message.getD 0) g.counts g.message.blocks g.message.substitutions g.message.truncated) := by
  simp only [State.endGroup, h]
  rfl

/-- A group submission goes on with its next member, or ends (R15 to R17). -/
theorem State.nextMember_nil {s : State} {g : GroupOrder} (h : g.members = []) : s.nextMember g = s.endGroup g := by
  simp only [State.nextMember, h]

theorem State.nextMember_served {s : State} {g : GroupOrder} {first : Nat} {others : List Nat} (h : g.members = first :: others)
    (served : s.link.partState ≠ .restarting) : s.nextMember g = (s.withOrder (some (.group g))).post first .memberRead := by
  simp only [State.nextMember, h, if_neg served]

theorem State.nextMember_restarting {s : State} {g : GroupOrder} (h : g.members ≠ []) (restarting : s.link.partState = .restarting) :
    s.nextMember g = (s.withStore { s.store with setAside := s.store.setAside - g.members.length }).endGroup
      { g with members := [], counts := { g.counts with notProcessed := g.counts.notProcessed + g.members.length } } := by
  cases hm : g.members with
  | nil => exact absurd hm h
  | cons first others => simp only [State.nextMember, hm, if_pos restarting, List.length_cons]

theorem execGroupMemberReadServed_held {s : State} {sub way : Nat} {g : GroupOrder} (turn : s.heldTurn .memberRead = some (sub, way))
    (order : s.intake.order = some (.group g)) :
    exec .groupMemberReadServed s = .next ((s.serveHolding sub way).completeMember g sub way).settleDown := by
  show execGroupMemberReadServed s = _
  simp only [execGroupMemberReadServed, turn, order]

theorem MemberCounts.created_eq (n : MemberCounts) (filed : EntryState) (downgraded : Bool) :
    n.created filed downgraded =
      (let d := { n with downgraded := if downgraded then n.downgraded + 1 else n.downgraded }
      match filed with
      | .held => { d with held := n.held + 1 }
      | .retryWait => { d with retryWait := n.retryWait + 1 }
      | .settling => { d with settling := n.settling + 1 }
      | _ => { d with queued := n.queued + 1 }) := by
  cases filed <;> cases downgraded <;> rfl

/-- The checks on a member, by the count a failure falls under: the store has room for it always (R15). -/
theorem admissionRefusal_counts (n : MemberCounts) (m : Submission) (r : Record) (reservation : Nat) :
    (admissionRefusal m r true reservation).map (fun p => n.refused p.1) =
      if r.host.status ≠ .active then some { n with subRefused := n.subRefused + 1 }
      else if m.encoding = .text ∧ r.host.capability = .numeric then some { n with capability := n.capability + 1 }
      else if 32 ≤ r.live then some { n with subLimit := n.subLimit + 1 }
      else if r.host.account = .prepaid ∧ (r.exhausted = true ∨ r.balance < r.reserved + reservation) then
        some { n with noFunds := n.noFunds + 1 }
      else none := by
  rw [admissionRefusal_eq]
  simp only [apply_ite (Option.map _), Bool.true_eq_false, if_false]
  rfl

/-- Settles O43: the read gives the record as rolled; the checks refuse the member, or its entry is created. -/
theorem groupMemberCreatedOrRefused : Obligations.GroupMemberCreatedOrRefused := by
  refine ⟨?_, fun s g b body => ?_⟩
  · intro s sub way g first others b turn order members body r prepaid downgraded blocks row p fee reservation n refused created
    have valid := State.heldTurn_valid turn
    have record : (s.serveHolding sub way).lineRecord sub way = r := State.serveHolding_record valid
    have reserved : (s.serveHolding sub way).reservationFor g.message r true = reservation := State.reservationFor_eq _ g.message r true
    have checks : (admissionRefusal g.message r true reservation).map (fun p => n.refused p.1) = refused :=
      admissionRefusal_counts n g.message r reservation
    have tail : g.members.tail = others := by rw [members]; rfl
    rw [execGroupMemberReadServed_held turn order]
    refine ⟨fun counts failed => ?_, fun k entries passed freeEntry => ?_⟩
    · obtain ⟨c, held, released⟩ := State.serveHolding_release valid
      refine ⟨c, held, ?_⟩
      obtain ⟨⟨code, reply⟩, fails, counted⟩ := Option.map_eq_some_iff.1 (checks.trans failed)
      simp only [State.completeMember, record, reserved, fails, State.refuseMember, released, tail]
      rw [show MemberCounts.refused g.counts code = counts from counted]
      rfl
    · intro number entry entered released filed
      have passes : admissionRefusal g.message r true reservation = none := Option.map_eq_none_iff.1 (checks.trans passed)
      let taken := (s.serveHolding sub way).dropSetAside
      let entrant : State := (s.serveHolding sub way).withStore { s.store with
        setAside := s.store.setAside - 1
        bodies := Table.set none s.store.bodies g.body (some { b with references := b.references + 1, message := some number })
        nextMessage := if b.message ≠ none then s.store.nextMessage else nextNumber s.store.nextMessage }
      have referenced : taken.withStore (taken.store.addReference g.body) = entrant := by
        rw [Store.addReference_eq (t := taken.store) body]
        rfl
      have entryMade := State.admitEntry_of_take (s := entrant) freeEntry sub way g.body (some g.group) g.message r reservation
      have same : entrant.admitEntry sub way g.body (some g.group) g.message r reservation = some (k, filed) := entryMade
      simp only [State.completeMember, record, reserved, passes]
      rw [referenced, same]
      dsimp only
      rw [tail, MemberCounts.created_eq]
      rfl
  · intro leaving ended
    refine ⟨fun none => ?_, fun first others members served => ?_, fun some_ restarting => ?_⟩
    · rw [State.nextMember_nil none, State.endGroup_eq body]
      rfl
    · rw [State.nextMember_served members served]
      rfl
    · rw [State.nextMember_restarting some_ restarting]
      refine (State.endGroup_eq (b := b) ?_).trans rfl
      exact body

end Sys2Proof.Machine
end

section
/-! SUPPORT. What a cancelled entry leaves, and the requests of a CANCEL (O45). -/

namespace Sys2Proof.Machine

/-! ### What a cancelled entry leaves (R21, R74) -/

/-- Lowering the block counts of a list of zones, each standing once, lowers those and no other. -/
theorem foldl_lower (size : Nat) (l : List Nat) (nodup : l.Nodup) (t : Table Nat) (z : Nat) :
    Table.get 0 (l.foldl (fun b z => Table.set 0 b z (Table.get 0 b z - size)) t) z =
      if z ∈ l then Table.get 0 t z - size else Table.get 0 t z := by
  induction l generalizing t with
  | nil => rfl
  | cons a l ih =>
    obtain ⟨out, nodup⟩ := List.nodup_cons.1 nodup
    rw [List.foldl_cons, ih nodup, Table.get_set]
    by_cases h : a = z
    · subst h
      rw [if_pos rfl, if_neg out, if_pos List.mem_cons_self]
    · rw [if_neg h]
      exact if_congr (by simp [Ne.symm h]) rfl rfl

theorem ZoneSet.mem_toList (set : ZoneSet) (z : Nat) : z ∈ ZoneSet.toList set ↔ z < 16 ∧ ZoneSet.has set z = true := by
  unfold ZoneSet.toList ZoneSet.has
  rw [List.mem_filter, List.mem_range]
  rfl

theorem ZoneSet.nodup_toList (set : ZoneSet) : (ZoneSet.toList set).Nodup := List.nodup_range.filter _

/-- A page's size is taken from the block count of every zone of its placed set and of no other (R74). -/
theorem Frame.block_takeBlocks (f : Frame) (zones : ZoneSet) (size z : Nat) :
    (f.takeBlocks zones size).block z = if z < 16 ∧ ZoneSet.has zones z = true then f.block z - size else f.block z :=
  (foldl_lower size _ (ZoneSet.nodup_toList zones) f.blocks z).trans (if_congr (ZoneSet.mem_toList zones z) rfl rfl)

/-- A placed entry leaves the open frame (R74). -/
theorem State.unplace_of_placed {s : State} {n : Nat} {f : Frame} {p : Placed} {before after : List Placed}
    (open_ : s.assembler.openFrame = some f) (placed : f.placed = before ++ p :: after) (own : p.entry = n)
    (first : ∀ q ∈ before, q.entry ≠ n) : s.unplace n = s.withOpen (some (f.remove p)) := by
  have found : f.placed.find? (fun q => q.entry == n) = some p :=
    List.find?_eq_some_iff_append.2 ⟨beq_iff_eq.2 own, before, after, placed, fun q hq => by simp [first q hq]⟩
  simp only [State.unplace, open_, found]

theorem State.unplace_of_absent {s : State} {n : Nat}
    (absent : ∀ f, s.assembler.openFrame = some f → ¬∃ p ∈ f.placed, p.entry = n) : s.unplace n = s := by
  unfold State.unplace
  split
  · rfl
  · rename_i f open_
    have none : f.placed.find? (fun p => p.entry == n) = none :=
      List.find?_eq_none.2 (fun p hp own => absent f open_ ⟨p, hp, beq_iff_eq.1 own⟩)
    simp only [none]

/-- An entry leaves the queue that holds it. -/
theorem State.leaveQueue_of_queued {s : State} {n : Nat} {q : Nat × List Nat} {before after : Table (List Nat)}
    (queues : s.assembler.queues = before ++ q :: after) (own : n ∈ q.2) (first : ∀ x ∈ before, n ∉ x.2) :
    s.leaveQueue n = s.withAssembler (s.assembler.setQueue q.1 (q.2.erase n)) := by
  have found : s.assembler.queues.find? (fun q => q.2.contains n) = some q :=
    List.find?_eq_some_iff_append.2 ⟨List.contains_iff_mem.2 own, before, after, queues, fun x hx => by simp [first x hx]⟩
  simp only [State.leaveQueue, found]

theorem State.leaveQueue_of_absent {s : State} {n : Nat} (absent : ∀ q ∈ s.assembler.queues, n ∉ q.2) : s.leaveQueue n = s := by
  have none : s.assembler.queues.find? (fun q => q.2.contains n) = none :=
    List.find?_eq_none.2 (fun q hq own => absent q hq (List.contains_iff_mem.1 own))
  simp only [State.leaveQueue, none]

/-! ### The order of a cancel (R21, R22) -/

/-- A cancel request acted on: the order goes on with its next request, or the last one answers it. -/
theorem execCancelRequest_acted {s u : State} {c : CancelOrder} {n : Nat} {rest : List Nat} {result : CancelResult}
    (order : s.intake.order = some (.cancel c)) (requests : c.requests = n :: rest) (acted : s.cancelEntry n = (result, u)) :
    (∀ next others, rest = next :: others → exec .cancelRequest s = .next (({ u with intake := { u.intake with
      order := some (.cancel { c.count result with requests := rest }) } } : State).settleDown)) ∧
    (rest = [] → c.byMessage = false → exec .cancelRequest s = .next ((({ u with intake := { u.intake with
      order := none } } : State).reply c.place result.reply.1 result.reply.2).settleDown)) ∧
    (rest = [] → c.byMessage = true → exec .cancelRequest s = .next ((({ u with intake := { u.intake with
      order := none } } : State).reply c.place
        (if 0 < (c.count result).cancelled + (c.count result).requested then .ok else .alreadyDone)
        (.cancelCounts (c.count result).cancelled (c.count result).requested (c.count result).settling)).settleDown)) := by
  have run : exec .cancelRequest s = .next (s.takeCancelRequest c n rest).settleDown := by
    show execCancelRequest s = _
    simp only [execCancelRequest, order, requests]
  rw [run]
  refine ⟨fun next others more => ?_, fun last byEntry => ?_, fun last byMessage => ?_⟩
  · simp only [State.takeCancelRequest, acted, more]
    rfl
  · simp only [State.takeCancelRequest, acted, last, byEntry]
    rfl
  · simp only [State.takeCancelRequest, acted, last, byMessage]
    rfl

/-- Settles O45: a cancel request by the state of its entry. -/
theorem cancelRequestActsByState : Obligations.CancelRequestActsByState := by
  refine ⟨fun s n => ?_, fun s c n rest o order requests entry => ?_⟩
  · refine ⟨fun f before p after open_ placed own first => ?_, State.unplace_of_absent, rfl,
      fun before q after queues own first => State.leaveQueue_of_queued queues own first, State.leaveQueue_of_absent⟩
    refine ⟨f.remove p, State.unplace_of_placed open_ placed own first, ?_, Frame.block_takeBlocks f p.zones p.size⟩
    rw [← own]
    rfl
  · intro cancelled marked goesOn
    refine ⟨fun e live held => ?_, fun e live launched => ?_, fun e live settling => ?_, fun free => ?_⟩
    · refine execCancelRequest_acted (result := .cancelled) order requests ?_
      simp only [State.cancelEntry, entry.trans live, cancelled]
      rcases state : e.state with _ | _ | _ | _ | _ | _ | _
      case held | queued | placed | retryWait => rfl
      all_goals
        rw [state] at held
        exact absurd held (by decide)
    · refine execCancelRequest_acted (result := .requested) order requests ?_
      have change : s.changeEntry n (fun e => { e with cancelRequested := true }) = marked e := by
        rw [State.changeEntry, Store.changeEntry_of_some (entry.trans live)]
        rfl
      simp only [State.cancelEntry, entry.trans live, change]
      rcases state : e.state with _ | _ | _ | _ | _ | _ | _
      case offered | awaiting => rfl
      all_goals
        rw [state] at launched
        exact absurd launched (by decide)
    · refine execCancelRequest_acted (result := .settling e.outcome) order requests ?_
      simp only [State.cancelEntry, entry.trans live, settling]
    · refine execCancelRequest_acted (result := .settling none) order requests ?_
      simp only [State.cancelEntry, entry.trans free]

end Sys2Proof.Machine
end

section
/-! SUPPORT. Serving the requests of a subscriber in their order (for O56). -/

namespace Sys2Proof.Machine

/-! ### What an act on a line leaves of the queue (R28, R33) -/

namespace Cache

variable (c : Cache) (n way : Nat)

theorem change_queue (f : Record → Record) : (c.change n way f).queue = c.queue := by
  obtain ⟨_, _, _, _, _, _, _, _, frame⟩ := change_spec c n way f
  rw [frame]

theorem access_queue (period : Word16) : (c.access period n way).queue = c.queue := by
  show (if _ then _ else _ : Cache).queue = _
  split
  · rfl
  · exact change_queue c n way _

theorem carryOut_queue (period : Word16) (f : Record → Record) : (c.carryOut period n way f).queue = c.queue :=
  (change_queue _ n way f).trans (access_queue c n way period)

/-- The first request of a subscriber, by where it stands. -/
theorem front_of_split {c : Cache} {before after : List Request} {r : Request} (queue : c.queue = before ++ r :: after)
    (first : ∀ q ∈ before, q.sub ≠ r.sub) : c.front r.sub = some r :=
  List.find?_eq_some_iff_append.2 ⟨beq_iff_eq.2 rfl, before, after, queue, fun q hq => by simp [first q hq]⟩

theorem split_of_front {c : Cache} {n : Nat} {r : Request} (h : c.front n = some r) :
    r.sub = n ∧ ∃ before after, c.queue = before ++ r :: after ∧ ∀ q ∈ before, q.sub ≠ n := by
  obtain ⟨own, before, after, queue, first⟩ := List.find?_eq_some_iff_append.1 h
  exact ⟨beq_iff_eq.1 own, before, after, queue, fun q hq => by simpa using first q hq⟩

/-- A request whose default record has still to be written (R45). -/
theorem waitsForSweep_iff (c : Cache) (r : Request) : c.waitsForSweep r = true ↔ r.behindSweep = true ∧
    ∃ place next last written, c.sweep = some (.records place next last written) ∧ next ≤ r.sub ∧ r.sub ≤ last := by
  unfold waitsForSweep sweepAhead
  rw [Bool.and_eq_true]
  refine and_congr_right fun _ => ?_
  cases h : c.sweep with
  | none => simp
  | some v =>
    cases v with
    | records place next last written => simp
    | lines => simp

end Cache

/-! ### Serving the first request of a subscriber (R30, R33) -/

theorem State.serveFront_waits {s : State} {n : Nat} {r : Request} (front : s.cache.front n = some r)
    (waits : (s.cache.isHeld n || s.cache.waitsForSweep r) = true) : s.serveFront n = none := by
  simp only [State.serveFront, front, waits, if_true]

/-- What serving a request that nothing stands before comes to, by its kind. -/
theorem State.serveFront_kind {s : State} {n : Nat} {r : Request} (front : s.cache.front n = some r)
    (free : (s.cache.isHeld n || s.cache.waitsForSweep r) = false) :
    let left := s.withCache (s.cache.withoutFront n)
    (∀ u, r.kind = .update u → s.serveFront n = (s.cache.onChip n).map (fun way => left.serveOnLine (.update u) n way)) ∧
    (∀ entry admission attempts, r.kind = .reachRead entry admission attempts →
      s.serveFront n = (s.cache.onChip n).map (fun way => left.serveOnLine (.reachRead entry admission attempts) n way)) ∧
    (r.kind = .touch → s.serveFront n = (s.cache.onChip n).map (fun way =>
      (s.withCache ((s.cache.withoutFront n).access s.charging.period n way)).readyReport n
        (((s.cache.withoutFront n).access s.charging.period n way).line n way).record)) := by
  intro left
  refine ⟨fun u kind => ?_, fun entry admission attempts kind => ?_, fun kind => ?_⟩
  all_goals simp only [State.serveFront, front, free, kind, Bool.false_eq_true, if_false] <;> rfl

/-- A request that needs a line is not served without one. -/
theorem State.serveFront_absent {s : State} {n : Nat} {r : Request} (front : s.cache.front n = some r)
    (absent : s.cache.onChip n = none)
    (kind : r.kind = .touch ∨ (∃ u, r.kind = .update u) ∨ ∃ n a k, r.kind = .reachRead n a k) : s.serveFront n = none := by
  cases waits : s.cache.isHeld n || s.cache.waitsForSweep r with
  | true => exact State.serveFront_waits front waits
  | false =>
    obtain ⟨update, reach, touch⟩ := State.serveFront_kind front waits
    rcases kind with kind | ⟨u, kind⟩ | ⟨a, b, c, kind⟩
    · rw [touch kind, absent]; rfl
    · rw [update u kind, absent]; rfl
    · rw [reach a b c kind, absent]; rfl

/-- A host record order that changes its phase stays the first of its subscriber. -/
theorem Cache.front_changeFront {c : Cache} {n : Nat} {r : Request} (front : c.front n = some r) (kind : RequestKind) :
    (c.changeFront n kind).front n = some { r with kind } := by
  obtain ⟨own, before, after, queue, first⟩ := Cache.split_of_front front
  rw [Cache.changeFront_split c n kind queue own first, ← own]
  exact Cache.front_of_split (r := { r with kind }) (after := after) rfl (fun q hq => by rw [← own] at first; exact first q hq)

/-- A host record order whose memory operation has been issued waits for it (R43, R44). -/
theorem State.serveFront_issued {t : State} {n : Nat} {q : Request} (front : t.cache.front n = some q)
    (phase : (∃ place fields, q.kind = .writeSub place fields .reading) ∨
      ∃ place fields balance, q.kind = .repairSub place fields balance .writing) :
    t.serveFront n = none := by
  rcases phase with ⟨place, fields, kind⟩ | ⟨place, fields, balance, kind⟩
  all_goals
    simp only [State.serveFront, front, kind]
    split <;> rfl

/-- Serving a request that is no touch takes it off the queue, or brings a host record order to a phase in which it waits (R42 to R44). -/
theorem State.serveFront_progress {s t : State} {n : Nat} (quiet : ∀ r ∈ s.cache.queue, r.sub = n → r.kind ≠ .touch)
    (served : s.serveFront n = some t) :
    t.cache.queue = s.cache.queue.eraseP (fun r => r.sub == n) ∨ t.serveFront n = none := by
  unfold State.serveFront at served
  split at served
  · exact absurd served (by simp)
  · rename_i r front
    obtain ⟨own, before, after, queue, first⟩ := Cache.split_of_front front
    split at served
    · exact absurd served (by simp)
    · split at served
      case h_1 =>
        obtain ⟨way, _, rfl⟩ := Option.map_eq_some_iff.1 served
        exact .inl (Cache.carryOut_queue (s.cache.withoutFront n) n way _ _)
      case h_2 =>
        obtain ⟨way, _, rfl⟩ := Option.map_eq_some_iff.1 served
        exact .inl (Cache.access_queue (s.cache.withoutFront n) n way _)
      case h_3 kind => exact absurd kind (quiet r (by rw [queue]; simp) own)
      case h_4 =>
        obtain ⟨way, _, rfl⟩ := Option.map_eq_some_iff.1 served
        exact .inl (Cache.access_queue (s.cache.withoutFront n) n way _)
      case h_5 =>
        split at served
        · exact absurd served (by simp)
        · rename_i place fields _ _
          obtain rfl := Option.some.inj served
          exact .inr (State.serveFront_issued (Cache.front_changeFront front (.writeSub place fields .reading)) (.inl ⟨_, _, rfl⟩))
      case h_6 place fields balance _ =>
        split at served
        · exact absurd served (by simp)
        · obtain rfl := Option.some.inj served
          unfold State.beginRepair
          split
          · exact .inl rfl
          · refine .inr (State.serveFront_issued (q := { r with kind := .repairSub place fields balance .writing }) ?_
              (.inr ⟨_, _, _, rfl⟩))
            refine Cache.front_changeFront (c := _) ?_ (.repairSub place fields balance .writing)
            dsimp only
            split
            · exact front
            · exact front
      all_goals exact absurd served (by simp)

/-! ### Serving a subscriber's requests one after another (R30) -/

theorem State.serveMany_done {s : State} {n : Nat} (h : s.serveFront n = none) : ∀ fuel, s.serveMany n fuel = s
  | 0 => rfl
  | fuel + 1 => by simp only [State.serveMany, h]

theorem State.serveMany_step {s t : State} {n : Nat} (h : s.serveFront n = some t) (fuel : Nat) :
    s.serveMany n (fuel + 1) = t.serveMany n fuel := by
  simp only [State.serveMany, h]

/-- No touch of the subscriber is queued. -/
def State.untouched (n : Nat) (s : State) : Prop := ∀ r ∈ s.cache.queue, r.sub = n → r.kind ≠ .touch

theorem State.serveFront_front {s t : State} {n : Nat} (h : s.serveFront n = some t) : ∃ r, s.cache.front n = some r := by
  cases front : s.cache.front n with
  | none => simp only [State.serveFront, front] at h; exact absurd h (by simp)
  | some r => exact ⟨r, rfl⟩

/-- A request taken off the queue leaves a shorter one, with no touch where there was none. -/
theorem State.served_queue {s t : State} {n : Nat} (quiet : s.untouched n) (served : s.serveFront n = some t)
    (queue : t.cache.queue = s.cache.queue.eraseP (fun r => r.sub == n)) :
    t.untouched n ∧ t.cache.queue.length < s.cache.queue.length := by
  obtain ⟨r, front⟩ := State.serveFront_front served
  have mem : r ∈ s.cache.queue := List.mem_of_find?_eq_some front
  have length := List.length_eraseP_of_mem mem (List.find?_some front)
  have nonempty := List.length_pos_of_mem mem
  refine ⟨fun q hq => quiet q (List.mem_of_mem_eraseP (queue ▸ hq)), ?_⟩
  rw [queue, length]
  omega

/-- Without a touch, one more step than there are requests serves all that can be served. -/
theorem State.serveMany_finishes {n fuel : Nat} {s : State} (quiet : s.untouched n) (enough : s.cache.queue.length < fuel) :
    (s.serveMany n fuel).serveFront n = none := by
  induction fuel generalizing s with
  | zero => exact absurd enough (Nat.not_lt_zero _)
  | succ fuel ih =>
    cases served : s.serveFront n with
    | none => rw [State.serveMany_done served]; exact served
    | some t =>
      rw [State.serveMany_step served]
      rcases State.serveFront_progress quiet served with queue | done
      · obtain ⟨quiet, shorter⟩ := State.served_queue quiet served queue
        exact ih quiet (by omega)
      · rw [State.serveMany_done done]; exact done

/-- Further steps change nothing once none can be served. -/
theorem State.serveMany_more {n fuel : Nat} {s : State} (done : (s.serveMany n fuel).serveFront n = none) (more : Nat) :
    s.serveMany n (fuel + more) = s.serveMany n fuel := by
  induction fuel generalizing s with
  | zero => rw [Nat.zero_add]; exact State.serveMany_done done more
  | succ fuel ih =>
    rw [Nat.add_right_comm fuel 1 more]
    cases served : s.serveFront n with
    | none => rw [State.serveMany_done served, State.serveMany_done served]
    | some t =>
      rw [State.serveMany_step served] at done ⊢
      rw [State.serveMany_step served]
      exact ih done

theorem State.serveMany_enough {n a b : Nat} {s : State} (done : (s.serveMany n a).serveFront n = none) (h : a ≤ b) :
    s.serveMany n b = s.serveMany n a := by
  obtain ⟨more, rfl⟩ := Nat.exists_eq_add_of_le h
  exact State.serveMany_more done more

/-- Without a touch, serving a subscriber goes from request to request until one must wait. -/
theorem State.serveSub_steps {s : State} {n : Nat} (quiet : s.untouched n) :
    (s.serveSub n).serveFront n = none ∧ ∀ t, s.serveFront n = some t → s.serveSub n = t.serveSub n := by
  refine ⟨State.serveMany_finishes quiet (by omega), fun t served => ?_⟩
  unfold State.serveSub
  rw [State.serveMany_step served (2 * s.cache.queue.length + 7)]
  rcases State.serveFront_progress quiet served with queue | done
  · obtain ⟨quiet, shorter⟩ := State.served_queue quiet served queue
    have finished := State.serveMany_finishes (fuel := t.cache.queue.length + 1) quiet (Nat.lt_succ_self _)
    rw [State.serveMany_enough finished (b := 2 * s.cache.queue.length + 7) (by omega),
      State.serveMany_enough finished (b := 2 * t.cache.queue.length + 8) (by omega)]
  · rw [State.serveMany_done done, State.serveMany_done done]

end Sys2Proof.Machine
end

section
/-! SUPPORT. When a miss starts, and the walk of the waiting misses (for O56). -/

namespace Sys2Proof.Machine

/-! ### Misses (R34 to R36) -/

namespace Cache

theorem index_inj {n m w v : Nat} (hw : w ≤ 1) (hv : v ≤ 1) (h : index (setOf n) w = index (setOf m) v) :
    setOf n = setOf m ∧ w = v := by
  unfold index at h
  omega

theorem line_congr (c : Cache) {n m : Nat} (h : setOf n = setOf m) (way : Nat) : c.line n way = c.line m way := by
  unfold line
  rw [h]

theorem lruWay_le (c : Cache) (n : Nat) : c.lruWay n ≤ 1 := by
  unfold lruWay
  split <;> omega

theorem canTake_eq (c : Cache) (n way : Nat) : c.canTake n way =
    ((decide ((c.line n way).state = .clean) || decide ((c.line n way).state = .dirty)) &&
      !c.pinned (subOf (setOf n) (c.line n way).tag)) := rfl

/-- A queued request that waits for no sweep pins its subscriber (R34). -/
theorem pinned_of_queued {c : Cache} {q : Request} (queued : q ∈ c.queue) (unswept : c.waitsForSweep q = false) :
    c.pinned q.sub = true := by
  unfold pinned
  rw [Bool.or_eq_true]
  exact .inr (List.any_eq_true.2 ⟨q, queued, by rw [unswept]; simp⟩)

/-- A victim is one of the two ways, and holds nothing or an unpinned line (R34). -/
theorem victim_spec {c : Cache} {n way : Nat} (h : c.victim n = some way) :
    way ≤ 1 ∧ ((c.line n way).state = .invalid ∨ c.canTake n way = true) := by
  unfold victim at h
  split at h
  · rename_i invalid
    obtain rfl := Option.some.inj h
    exact ⟨Nat.zero_le _, .inl invalid⟩
  · split at h
    · rename_i invalid
      obtain rfl := Option.some.inj h
      exact ⟨Nat.le_refl _, .inl invalid⟩
    · split at h
      · rename_i take
        obtain rfl := Option.some.inj h
        exact ⟨lruWay_le c n, .inr take⟩
      · split at h
        · rename_i take
          obtain rfl := Option.some.inj h
          exact ⟨Nat.sub_le _ _, .inr take⟩
        · exact absurd h (by simp)

/-- A victim is not the line that holds the subscriber of a queued request, which pins it (R34). -/
theorem victim_not_holder {c : Cache} {n way : Nat} (found : c.victim n = some way) {q : Request} (queued : q ∈ c.queue)
    (unswept : c.waitsForSweep q = false) (set : setOf q.sub = setOf n) :
    ¬((c.line q.sub way).state ≠ .invalid ∧ (c.line q.sub way).tag = tagOf q.sub) := by
  rw [line_congr c set]
  rintro ⟨valid, tag⟩
  have take := (victim_spec found).2.resolve_left valid
  have itself : subOf (setOf n) (tagOf q.sub) = q.sub := by
    rw [← set]
    exact Nat.div_add_mod' q.sub 256
  rw [canTake_eq, tag, itself, pinned_of_queued queued unswept, Bool.not_true, Bool.and_false] at take
  exact absurd take (by decide)

/-- No victim can be taken: both ways hold something, and neither can be taken (R34). -/
theorem victim_eq_none_iff (c : Cache) (n : Nat) : c.victim n = none ↔
    ∀ way ≤ 1, (c.line n way).state ≠ .invalid ∧ c.canTake n way = false := by
  have ways : ∀ P : Nat → Prop, (∀ way ≤ 1, P way) ↔ P (c.lruWay n) ∧ P (1 - c.lruWay n) := by
    intro P
    have le := lruWay_le c n
    refine ⟨fun h => ⟨h _ le, h _ (Nat.sub_le _ _)⟩, fun ⟨a, b⟩ way hw => ?_⟩
    obtain h | h : way = c.lruWay n ∨ way = 1 - c.lruWay n := by omega
    · rw [h]; exact a
    · rw [h]; exact b
  constructor
  · intro h
    unfold victim at h
    by_cases h0 : (c.line n 0).state = .invalid
    · rw [if_pos h0] at h; exact absurd h (by simp)
    · by_cases h1 : (c.line n 1).state = .invalid
      · rw [if_neg h0, if_pos h1] at h; exact absurd h (by simp)
      · rw [if_neg h0, if_neg h1] at h
        split at h
        · exact absurd h (by simp)
        · rename_i lru
          split at h
          · exact absurd h (by simp)
          · rename_i other
            have take := (ways (fun way => c.canTake n way = false)).2 ⟨by simpa using lru, by simpa using other⟩
            intro way hw
            refine ⟨?_, take way hw⟩
            obtain rfl | rfl : way = 0 ∨ way = 1 := by omega
            · exact h0
            · exact h1
  · intro h
    unfold victim
    rw [if_neg (h 0 (by omega)).1, if_neg (h 1 (by omega)).1, (h _ (lruWay_le c n)).2, (h _ (Nat.sub_le 1 (c.lruWay n))).2]
    rfl

/-- A miss takes a way, all at once (R36). -/
theorem takeWay_eq (c : Cache) (n way : Nat) : c.takeWay n way = { c with
    lines := (c.setLine n way { c.line n way with state := .filling, tag := tagOf n, deferral := 0 }).lines
    port := (if (c.line n way).state = .dirty then
      c.port ++ [.castout (subOf (setOf n) (c.line n way).tag) (c.line n way).record] else c.port) ++ [.fill n way]
    fills := c.fills ++ [{ sub := n, way }]
    counts := { c.counts with
      fills := c.counts.fills + 1
      memoryWrites := if (c.line n way).state = .dirty then c.counts.memoryWrites + 1 else c.counts.memoryWrites } } := by
  unfold takeWay
  dsimp only
  split
  · rfl
  · rfl

/-- A miss takes a way: what changes (R36). -/
theorem takeWay_spec (c : Cache) (n way : Nat) :
    let l := c.line n way
    let d := c.takeWay n way
    d = { c with
      lines := d.lines, port := d.port, fills := c.fills ++ [{ sub := n, way }]
      counts := { c.counts with
        fills := c.counts.fills + 1
        memoryWrites := if l.state = .dirty then c.counts.memoryWrites + 1 else c.counts.memoryWrites } } ∧
    (l.state = .dirty → d.port = c.port ++ [.castout (subOf (setOf n) l.tag) l.record, .fill n way]) ∧
    (¬l.state = .dirty → d.port = c.port ++ [.fill n way]) ∧
    d.line n way = { l with state := .filling, tag := tagOf n, deferral := 0 } ∧
    (∀ k, k ≠ index (setOf n) way → Table.get {} d.lines k = Table.get {} c.lines k) := by
  intro l d
  have hd : d = _ := takeWay_eq c n way
  rw [hd]
  refine ⟨rfl, fun dirty => ?_, fun clean => ?_, line_setLine c n way { l with state := .filling, tag := tagOf n, deferral := 0 },
    lines_setLine c n way { l with state := .filling, tag := tagOf n, deferral := 0 }⟩
  · rw [if_pos dirty, List.append_assoc]
    rfl
  · rw [if_neg clean]

/-- A miss starts where a place of the miss list is free and a victim can be taken, and otherwise changes nothing (R35). -/
theorem startMiss_spec (c : Cache) (n : Nat) :
    (4 ≤ c.fills.length ∨ c.victim n = none → c.startMiss n = c) ∧
    (∀ way, c.fills.length < 4 → c.victim n = some way → c.startMiss n = c.takeWay n way) := by
  unfold startMiss
  refine ⟨fun h => ?_, fun way places found => ?_⟩
  · rcases h with full | none
    · exact if_neg (Nat.not_lt.2 full)
    · rw [none]
      exact ite_self c
  · rw [found]
    exact if_pos places

/-- A miss that starts changes the miss list. -/
theorem startMiss_ne_iff (c : Cache) (n : Nat) : c.startMiss n ≠ c ↔ c.fills.length < 4 ∧ ∃ way, c.victim n = some way := by
  obtain ⟨stays, starts⟩ := startMiss_spec c n
  refine ⟨fun h => ?_, fun ⟨places, way, found⟩ same => ?_⟩
  · refine ⟨Nat.lt_of_not_le (fun full => h (stays (.inl full))), Option.ne_none_iff_exists'.1 (fun none => h (stays (.inr none)))⟩
  · rw [starts way places found] at same
    have fills := congrArg (fun c : Cache => c.fills.length) same
    rw [(takeWay_spec c n way).1] at fills
    simp at fills

/-! ### When a request wants a miss (R30, R34) -/

theorem holder_eq_none_iff (c : Cache) (n : Nat) : c.holder n = none ↔
    ∀ way ∈ [0, 1], ¬((c.line n way).state ≠ .invalid ∧ (c.line n way).tag = tagOf n) := by
  unfold holder
  rw [List.find?_eq_none]
  simp only [Bool.and_eq_true, decide_eq_true_eq]

theorem wantsMiss_iff (c : Cache) (r : Request) : c.wantsMiss r = true ↔
    c.front r.sub = some r ∧ r.kind.isHostOrder = false ∧ c.holder r.sub = none ∧ r.sub ∉ c.holds ∧ c.waitsForSweep r = false := by
  unfold wantsMiss isHeld
  simp only [Bool.and_eq_true, decide_eq_true_eq, Bool.not_eq_true', Option.isNone_iff_eq_none, List.contains_eq_mem,
    decide_eq_false_iff_not, and_assoc]

/-- A request is the first to start a miss here and now. -/
def starts (c : Cache) (r : Request) : Prop := c.wantsMiss r = true ∧ c.startMiss r.sub ≠ c

/-- One request of the walk of the waiting misses (R35). -/
def tryMiss (c : Cache) (r : Request) : Cache := if c.wantsMiss r then c.startMiss r.sub else c

theorem tryMiss_of_not_starts {c : Cache} {r : Request} (h : ¬c.starts r) : c.tryMiss r = c := by
  unfold tryMiss
  split
  · rename_i wants
    by_contra moved
    exact h ⟨wants, moved⟩
  · rfl

theorem foldl_tryMiss_of_not_starts {c : Cache} {l : List Request} (h : ∀ r ∈ l, ¬c.starts r) : l.foldl tryMiss c = c := by
  induction l with
  | nil => rfl
  | cons r l ih =>
    rw [List.foldl_cons, tryMiss_of_not_starts (h r List.mem_cons_self)]
    exact ih (fun q hq => h q (List.mem_cons_of_mem _ hq))

theorem tryMisses_eq (c : Cache) : c.tryMisses = c.queue.foldl tryMiss c := rfl

section
variable {c : Cache} {r : Request} {way : Nat} (found : c.victim r.sub = some way)
include found

/-- A request that had no cause to start a miss has none once another's way is taken: what it lacked is lacking still, and a line that held
its subscriber was pinned by it, so it was not the way taken (R34). -/
theorem not_starts_takeWay (places : c.fills.length < 4) {q : Request} (queued : q ∈ c.queue) (idle : ¬c.starts q) :
    ¬(c.takeWay r.sub way).starts q := by
  rintro ⟨wants, moved⟩
  obtain ⟨low, free⟩ := victim_spec found
  obtain ⟨frame, -, -, taken, others⟩ := takeWay_spec c r.sub way
  generalize hd : c.takeWay r.sub way = d at *
  have queue : d.queue = c.queue := by rw [frame]
  have holds : d.holds = c.holds := by rw [frame]
  have sweep : ∀ x, d.waitsForSweep x = c.waitsForSweep x := fun x => by rw [frame]; rfl
  have pinned : ∀ m, d.pinned m = c.pinned m := fun m => by rw [frame]; rfl
  obtain ⟨front, order, absent, unheld, unswept⟩ := (wantsMiss_iff d q).1 wants
  -- a line other than the one taken is as it was
  have same : ∀ w ≤ 1, ¬(setOf q.sub = setOf r.sub ∧ w = way) → d.line q.sub w = c.line q.sub w := fun w hw other =>
    others _ (fun h => other (index_inj hw low h))
  have there : ∀ w, setOf q.sub = setOf r.sub ∧ w = way → d.line q.sub w =
      { c.line r.sub way with state := .filling, tag := tagOf r.sub, deferral := 0 } := by
    rintro w ⟨set, rfl⟩
    rw [line_congr d set, taken]
  have wanted : c.wantsMiss q = true := by
    refine (wantsMiss_iff c q).2 ⟨?_, order, ?_, holds ▸ unheld, (sweep q) ▸ unswept⟩
    · unfold Cache.front at front ⊢
      rw [← queue]; exact front
    · refine (holder_eq_none_iff c q.sub).2 (fun w hw ⟨valid, tag⟩ => ?_)
      have hw : w ≤ 1 := by simp at hw; omega
      by_cases taken : setOf q.sub = setOf r.sub ∧ w = way
      · obtain ⟨set, rfl⟩ := taken
        exact victim_not_holder found queued (by rw [← sweep]; exact unswept) set ⟨valid, tag⟩
      · exact (holder_eq_none_iff d q.sub).1 absent w (by simp; omega) (by rw [same w hw taken]; exact ⟨valid, tag⟩)
  refine idle ⟨wanted, ?_⟩
  refine (startMiss_ne_iff c q.sub).2 ⟨places, Option.ne_none_iff_exists'.1 (fun none => ?_)⟩
  obtain ⟨-, v, chosen⟩ := (startMiss_ne_iff d q.sub).1 moved
  have still : d.victim q.sub = Option.none := (victim_eq_none_iff d q.sub).2 (fun w hw => by
    obtain ⟨holds, kept⟩ := (victim_eq_none_iff c q.sub).1 none w hw
    by_cases taken : setOf q.sub = setOf r.sub ∧ w = way
    · have line := there w taken
      refine ⟨by rw [line]; simp, ?_⟩
      rw [canTake_eq, line]
      rfl
    · have line := same w hw taken
      rw [canTake_eq, line, pinned, ← canTake_eq]
      exact ⟨holds, kept⟩)
  rw [still] at chosen
  exact absurd chosen (by simp)

end

/-- The walk of the waiting misses: with none that starts, nothing changes; otherwise the first that starts does, and the walk is taken
again (R35). -/
theorem tryMisses_steps (c : Cache) :
    ((∀ r ∈ c.queue, ¬c.starts r) → c.tryMisses = c) ∧
    (∀ before r after, c.queue = before ++ r :: after → c.starts r → (∀ q ∈ before, ¬c.starts q) →
      c.tryMisses = (c.startMiss r.sub).tryMisses) := by
  refine ⟨foldl_tryMiss_of_not_starts, fun before r after queue starting idle => ?_⟩
  obtain ⟨places, way, found⟩ := (startMiss_ne_iff c r.sub).1 starting.2
  have started : c.startMiss r.sub = c.takeWay r.sub way := (startMiss_spec c r.sub).2 way places found
  obtain ⟨frame, -, -, taken, -⟩ := takeWay_spec c r.sub way
  have here : c.tryMiss r = c.takeWay r.sub way := (if_pos starting.1).trans started
  have filling : ¬(c.takeWay r.sub way).starts r := fun ⟨wants, _⟩ => by
    obtain ⟨-, -, absent, -⟩ := (wantsMiss_iff _ r).1 wants
    refine (holder_eq_none_iff _ r.sub).1 absent way ?_ (by rw [taken]; simp)
    have low := (victim_spec found).1
    simp
    omega
  have later : ∀ q ∈ before, ¬(c.takeWay r.sub way).starts q := fun q hq =>
    not_starts_takeWay found places (by rw [queue]; exact List.mem_append_left _ hq) (idle q hq)
  have kept : (c.takeWay r.sub way).queue = before ++ r :: after := by rw [frame]; exact queue
  rw [started, tryMisses_eq, tryMisses_eq, kept, queue, List.foldl_append, List.foldl_append, foldl_tryMiss_of_not_starts idle,
    foldl_tryMiss_of_not_starts later, List.foldl_cons, List.foldl_cons, here, tryMiss_of_not_starts filling]

end Cache

end Sys2Proof.Machine
end

section
/-! SUPPORT. The heads of the settle list, held requests, and settling down (O56). -/

namespace Sys2Proof.Machine

/-! ### The heads of the settle list (R125) -/

/-- The head waits for its body's submission (R17, R125). -/
theorem Store.bodyWaits_iff (t : Store) (e : Entry) : t.bodyWaits e = true ↔
    ∃ b, t.body e.body = some b ∧ b.inSubmission = true ∧ b.references ≤ 1 := by
  unfold Store.bodyWaits
  cases t.body e.body with
  | none => simp
  | some b => simp

/-- The head has a log place: the one it was granted, or a free one (R136). -/
def State.logRoom (s : State) : Prop :=
  if s.charging.head = .logRoom then s.log.setAside = true
  else s.log.records.length + (if s.log.setAside then 1 else 0) < 1024

theorem BillingLog.free_pos_iff (l : BillingLog) : 0 < l.free ↔ l.records.length + (if l.setAside then 1 else 0) < 1024 := by
  unfold BillingLog.free BillingLog.available Config.logPlaces
  omega

theorem State.logPlace_room {s : State} (h : s.logRoom) : s.logPlace = some { s.log with setAside := true } := by
  unfold State.logRoom at h
  unfold State.logPlace
  by_cases asks : s.charging.head = .logRoom
  · rw [if_pos asks] at h
    rw [if_pos asks, if_pos h, ← h]
  · rw [if_neg asks] at h
    rw [if_neg asks, if_pos ((BillingLog.free_pos_iff s.log).2 h)]

theorem State.logPlace_full {s : State} (h : ¬s.logRoom) : s.logPlace = none := by
  unfold State.logRoom at h
  unfold State.logPlace
  by_cases asks : s.charging.head = .logRoom
  · rw [if_pos asks] at h
    rw [if_pos asks, if_neg h]
  · rw [if_neg asks] at h
    rw [if_neg asks, if_neg (mt (BillingLog.free_pos_iff s.log).1 h)]

/-- The head takes up a wait, counted once as it begins (R125, R132). -/
theorem State.headWaits_eq (s : State) (state : HeadState) (count : ChargingCounts → ChargingCounts) :
    s.headWaits state count = { s with charging := { s.charging with
      head := state, counts := if s.charging.head = state then s.charging.counts else count s.charging.counts } } := by
  unfold State.headWaits
  split
  · rename_i h
    rw [← h]
  · rfl

section
variable {s : State} {el : SettleElement} {rest : List SettleElement} {e : Entry} (head : s.charging.settleList = el :: rest)
  (idle : s.charging.head ≠ .record) (live : s.store.entry el.entry = some e)
include head idle live

/-- The head waits for its body's submission (R125). -/
theorem State.settleHeads_submission (k : Nat) (waits : s.charging.head ≠ .logRoom ∧ s.store.bodyWaits e = true) :
    s.settleHeads (k + 1) = s.headWaits .bodyInSubmission (fun c => { c with waitedSubmission := c.waitedSubmission + 1 }) := by
  cases state : s.charging.head with
  | record => exact absurd state idle
  | logRoom => exact absurd state waits.1
  | idle | bodyInSubmission => simp [State.settleHeads, head, state, live, waits.2]

/-- The head waits for a log place (R125, R136). -/
theorem State.settleHeads_full (k : Nat) (passes : ¬(s.charging.head ≠ .logRoom ∧ s.store.bodyWaits e = true))
    (full : s.logPlace = none) : s.settleHeads (k + 1) =
      (s.headWaits .logRoom (fun c => { c with waitedLogRoom := c.waitedLogRoom + 1 })).withLog { s.log with waiting := true } := by
  have log : ∀ f, (s.headWaits .logRoom f).log = s.log := fun f => by rw [State.headWaits_eq]
  cases state : s.charging.head with
  | record => exact absurd state idle
  | logRoom => simp [State.settleHeads, head, state, live, full, log]
  | idle | bodyInSubmission =>
    have done : s.store.bodyWaits e = false := by simpa [state] using passes
    simp [State.settleHeads, head, state, live, done, full, log]

/-- A FAULTED head settles without charge, and the next becomes the head (R125, R131). -/
theorem State.settleHeads_faulted (k : Nat) (passes : ¬(s.charging.head ≠ .logRoom ∧ s.store.bodyWaits e = true)) {log : BillingLog}
    (room : s.logPlace = some log) (faulted : e.outcome = some .faulted) :
    s.settleHeads (k + 1) = ((s.withLog log).finishSettlement el e Money.zero none).settleHeads k := by
  have third : (s.withLog log).thirdStage el e = ((s.withLog log).finishSettlement el e Money.zero none, true) := if_pos faulted
  cases state : s.charging.head with
  | record => exact absurd state idle
  | logRoom => simp [State.settleHeads, head, state, live, room, third]
  | idle | bodyInSubmission =>
    have done : s.store.bodyWaits e = false := by simpa [state] using passes
    simp [State.settleHeads, head, state, live, done, room, third]

/-- Another head posts its settlement read, and the list waits (R125). -/
theorem State.settleHeads_read (k : Nat) (passes : ¬(s.charging.head ≠ .logRoom ∧ s.store.bodyWaits e = true)) {log : BillingLog}
    (room : s.logPlace = some log) (whole : e.outcome ≠ some .faulted) :
    s.settleHeads (k + 1) = ((s.withLog log).withCharging { s.charging with head := .record }).post e.sub .settlementRead := by
  have third : (s.withLog log).thirdStage el e =
      (((s.withLog log).withCharging { s.charging with head := .record }).post e.sub .settlementRead, false) := if_neg whole
  cases state : s.charging.head with
  | record => exact absurd state idle
  | logRoom => simp [State.settleHeads, head, state, live, room, third]
  | idle | bodyInSubmission =>
    have done : s.store.bodyWaits e = false := by simpa [state] using passes
    simp [State.settleHeads, head, state, live, done, room, third]

end

/-- With nothing to settle, or the head waiting for its record, the list stays (R125). -/
theorem State.settleHeads_rests {s : State} (h : s.charging.settleList = [] ∨ s.charging.head = .record) (k : Nat) :
    s.settleHeads (k + 1) = s := by
  rcases h with empty | record
  · simp [State.settleHeads, empty]
  · cases list : s.charging.settleList <;> simp [State.settleHeads, list, record]

/-! ### Held requests (R30) -/

theorem State.admitHeld_rests {s : State} (h : s.cache.heldRequests = [] ∨ 128 ≤ s.cache.occupancy) (k : Nat) :
    s.admitHeld (k + 1) = s := by
  unfold State.admitHeld
  split
  · rfl
  · rename_i r rest held
    have full : s.cache.isFull = true := by
      rcases h with none | full
      · rw [none] at held; exact absurd held (by simp)
      · exact decide_eq_true full
    rw [if_pos full]

theorem State.admitHeld_next {s : State} {r : Request} {rest : List Request} (held : s.cache.heldRequests = r :: rest)
    (places : s.cache.occupancy < 128) (k : Nat) : s.admitHeld (k + 1) =
      (((s.withCache (Cache.enqueue { s.cache with heldRequests := rest } r)).serveSub r.sub).admitHeld k) := by
  have open_ : s.cache.isFull = false := decide_eq_false (Nat.not_le.2 places)
  simp only [State.admitHeld, held, open_, Bool.false_eq_true, if_false]

/-! ### Settling down -/

/-- The victim of a miss, spelled out (R34). -/
theorem Cache.victim_eq (c : Cache) (n : Nat) : c.victim n =
    (let free : Nat → Bool := fun way => [LineState.clean, .dirty].contains (c.line n way).state &&
      !(c.holds.contains ((c.line n way).tag * 256 + n % 256) ||
        c.queue.any (fun r => r.sub == (c.line n way).tag * 256 + n % 256 && !c.waitsForSweep r))
    let lru := if Table.get 0 c.lru (n % 256) = 0 then 0 else 1
    if (c.line n 0).state = .invalid then some 0 else if (c.line n 1).state = .invalid then some 1
    else if free lru then some lru else if free (1 - lru) then some (1 - lru) else none) := by
  have free : ∀ way, c.canTake n way = ([LineState.clean, .dirty].contains (c.line n way).state &&
      !(c.holds.contains ((c.line n way).tag * 256 + n % 256) ||
        c.queue.any (fun r => r.sub == (c.line n way).tag * 256 + n % 256 && !c.waitsForSweep r))) := by
    intro way
    rw [Cache.canTake_eq]
    congr 1
    cases (c.line n way).state <;> rfl
  unfold Cache.victim
  simp only [free]
  rfl

/-- Settles O56: settling down by the parts it is made of. -/
theorem settlingDownFrame : Obligations.SettlingDownFrame := by
  refine ⟨fun s => ?_, fun s => ⟨rfl, fun h => if_neg h, rfl, rfl⟩, fun s before after r queue first => ?_, fun s n => ?_, fun c n => ?_,
    fun c => ?_, fun s k => ?_, fun s k => ?_⟩
  · have progress := State.settleDown_progress s
    exact ⟨progress.settled, progress.records, progress.lastReturned, progress.log, progress.entries⟩
  · intro c swept waits left
    have front : s.cache.front r.sub = some r := Cache.front_of_split queue first
    have holds : (s.cache.isHeld r.sub || s.cache.waitsForSweep r) = true ↔ waits := by
      rw [Bool.or_eq_true, Cache.waitsForSweep_iff]
      exact or_congr_left List.contains_iff_mem
    have without : s.cache.withoutFront r.sub = left := by
      have rest : s.cache.queue.eraseP (fun q => q.sub == r.sub) = before ++ after := by
        rw [queue, List.eraseP_append_right _ (fun q hq => by simp [first q hq]), List.eraseP_cons_of_pos (by simp)]
      show ({ s.cache with queue := _ } : Cache) = _
      rw [rest]
    refine ⟨fun h => State.serveFront_waits front (holds.2 h), fun absent kind => State.serveFront_absent front absent kind,
      fun way free onChip => ?_⟩
    intro d v
    obtain ⟨update, reach, touch⟩ := State.serveFront_kind front (Bool.eq_false_iff.2 (mt holds.1 free))
    rw [without, show s.cache.onChip r.sub = some way from onChip] at update reach touch
    exact ⟨update, reach, touch⟩
  · exact ⟨fun none => State.serveMany_done none _, State.serveSub_steps⟩
  · intro pinned free lru victim d
    have same : c.victim n = victim := Cache.victim_eq c n
    obtain ⟨stays, starts⟩ := Cache.startMiss_spec c n
    refine ⟨fun h => stays (same ▸ h), fun way places found => ?_⟩
    have started : d = c.takeWay n way := starts way places (same.trans found)
    obtain ⟨frame, dirty, clean, taken, others⟩ := Cache.takeWay_spec c n way
    rw [started]
    exact ⟨frame, dirty, clean, taken, others⟩
  · refine ⟨fun r => ?_, (Cache.tryMisses_steps c).1, (Cache.tryMisses_steps c).2⟩
    rw [Cache.wantsMiss_iff, Cache.holder_eq_none_iff]
    rfl
  · exact ⟨fun h => State.admitHeld_rests h k, fun r rest held places => State.admitHeld_next held places k⟩
  · refine ⟨fun h => State.settleHeads_rests h k, fun el rest e head idle live => ?_⟩
    intro h n inSubmission room granted
    have waits : inSubmission ↔ s.charging.head ≠ .logRoom ∧ s.store.bodyWaits e = true :=
      and_congr_right fun _ => (Store.bodyWaits_iff s.store e).symm
    refine ⟨fun submission => ?_, fun passes full => ?_, fun passes place faulted => ?_, fun passes place whole => ?_⟩
    · rw [State.settleHeads_submission head idle live k (waits.1 submission), State.headWaits_eq]
    · rw [State.settleHeads_full head idle live k (mt waits.2 passes) (State.logPlace_full full), State.headWaits_eq]
      rfl
    · exact State.settleHeads_faulted head idle live k (mt waits.2 passes) (State.logPlace_room place) faulted
    · exact State.settleHeads_read head idle live k (mt waits.2 passes) (State.logPlace_room place) whole

end Sys2Proof.Machine
end

section
/-! SUPPORT. SET_CACHE and SET_ADDRESS_BASE (O4). -/

namespace Sys2Proof.Machine

/-! ### The settings of the Record Cache (R26, R41) -/

/-- How the two bytes of a SET_CACHE read (R41). -/
theorem Operands.setCache_eq (policy limit : Byte) :
    (policy = 0 → Operands.setCache [policy, limit] = some (.through, none)) ∧
    (policy = 1 → Operands.setCache [policy, limit] = some (.deferred, none)) ∧
    (policy = 2 → Operands.setCache [policy, limit] = (Operands.within 1 15 limit.toNat).map (fun l => (.bounded, some l))) ∧
    (2 < policy.toNat → Operands.setCache [policy, limit] = none) := by
  have h0 : Bytes.field [policy, limit] 0 1 = policy.toNat := Bytes.field_one _ _
  have h1 : Bytes.field [policy, limit] 1 1 = limit.toNat := Bytes.field_one _ _
  unfold Operands.setCache
  rw [h0, h1]
  refine ⟨?_, ?_, ?_, fun big => ?_⟩
  · rintro rfl; rfl
  · rintro rfl; rfl
  · rintro rfl; rfl
  · obtain ⟨k, hk⟩ := Nat.exists_eq_add_of_lt big
    rw [hk, show 2 + k + 1 = k + 3 by omega]
    rfl

theorem execSetCache_outside {s t : State} {place : Nat} {body : List Byte} (taken : s.takeOrder .setCache = some (place, body, t))
    (outside : t.link.partState ≠ .restarting) : exec .setCache s =
      .next (let a := withOperand Operands.setCache setCacheAct body t; a.2.2.reply place a.1 a.2.1) := by
  show Host.Outcome.next (s.answerOrder _ _) = _
  rw [State.answerOrder_taken taken, outsideRestart_served outside]

theorem execSetCache_some {s t : State} {place : Nat} {body : List Byte} (taken : s.takeOrder .setCache = some (place, body, t))
    (outside : t.link.partState ≠ .restarting) {v : WritePolicy × Option Nat} (fields : Operands.setCache body = some v) :
    exec .setCache s = .next (({ t with cache := { t.cache with policy := v.1, limit := v.2.getD t.cache.limit } } : State).reply place .ok
      (.cachePolicy v.1 (v.2.getD t.cache.limit) (t.cache.linesIn .dirty))) := by
  rw [execSetCache_outside taken outside, withOperand_some fields]
  rfl

theorem execSetAddressBase_taken {s t : State} {place : Nat} {body : List Byte}
    (taken : s.takeOrder .setAddressBase = some (place, body, t)) : exec .setAddressBase s =
      .next (let a := inConfig (withOperand Operands.setAddressBase setAddressBaseAct) body t; a.2.2.reply place a.1 a.2.1) := by
  show Host.Outcome.next (s.answerOrder _ _) = _
  rw [State.answerOrder_taken taken]

theorem inConfig_served {t : State} (h : t.link.partState = .config) (act : List Byte → State → Answer) (body : List Byte) :
    inConfig act body t = act body t := if_pos h

theorem inConfig_refused {t : State} (h : t.link.partState ≠ .config) (act : List Byte → State → Answer) (body : List Byte) :
    inConfig act body t = (.wrongState, .none, t) := if_neg h

/-- Settles O4: the fields as read decide the act. -/
theorem cacheSettingsReplaced : Obligations.CacheSettingsReplaced := by
  refine ⟨fun s t place policy limit taken outside => ?_, fun s t place a b c taken => ?_⟩
  · obtain ⟨through, deferred, bounded, unlisted⟩ := Operands.setCache_eq policy limit
    refine ⟨fun h => execSetCache_some taken outside (through h), fun h => execSetCache_some taken outside (deferred h),
      fun h low high => ?_, fun wrong => ?_⟩
    · refine execSetCache_some taken outside (v := (.bounded, some limit.toNat)) ?_
      rw [bounded h, Operands.within_of ⟨low, high⟩]
      rfl
    · have fields : Operands.setCache [policy, limit] = none := by
        rcases wrong with big | ⟨two, range⟩
        · exact unlisted big
        · rw [bounded two, Operands.within_of_not ?_]
          · rfl
          · rcases range with rfl | high
            · simp
            · omega
      rw [execSetCache_outside taken outside, withOperand_none fields]
  · intro base
    have field : Bytes.field [a, b, c] 0 3 = base := by simp [Bytes.field, Bytes.toNat, base]
    refine ⟨fun config low => ?_, fun config high => ?_, fun other => ?_⟩
    · have fits : Operands.setAddressBase [a, b, c] = some base := by
        rw [Operands.setAddressBase, field]
        exact Operands.within_of ⟨Nat.zero_le _, low⟩
      rw [execSetAddressBase_taken taken, inConfig_served config, withOperand_some fits]
      rfl
    · have wrong : Operands.setAddressBase [a, b, c] = none := by
        rw [Operands.setAddressBase, field]
        exact Operands.within_of_not (fun h => Nat.not_le.2 high h.2)
      rw [execSetAddressBase_taken taken, inConfig_served config, withOperand_none wrong]
    · rw [execSetAddressBase_taken taken, inConfig_refused other]

end Sys2Proof.Machine
end

section
/-! SUPPORT. Every command completes (O57). -/

namespace Sys2Proof.Machine

/-! ### What a command answers (log 35) -/

/-- A command with operands in bounds completes, or names a port operation on a record that does not exist; any other is refused as no
event. -/
def Result.Answers (s : State) (isEvent : Bool) (r : Result) : Prop :=
  (isEvent = true → (∃ t, r = .next t) ∨ ∃ op ∈ s.cache.port, 262144 ≤ op.sub ∧ r = .fault (.noSuchRecord op.sub)) ∧
    (isEvent = false → r = .refused .noSuchEvent)

theorem Result.answers_next (s t : State) : Result.Answers s true (.next t) := ⟨fun _ => .inl ⟨t, rfl⟩, fun h => Bool.noConfusion h⟩

theorem Result.answers_guarded (s t : State) {isEvent : Bool} {p : Prop} [Decidable p] (h : isEvent = true ↔ p) :
    Result.Answers s isEvent (if p then .next t else .refused .noSuchEvent) :=
  ⟨fun event => .inl ⟨t, if_pos (h.1 event)⟩, fun none => if_neg (fun hp => by rw [h.2 hp] at none; cases none)⟩

/-- What completes stands at the port; its command faults where the record it names does not exist. -/
theorem Result.answers_completion {s u : State} {op : PortOp} (h : s.completion = some (op, u)) (t : State) :
    Result.Answers s true (if op.sub < Config.subscribers then .next t else .fault (.noSuchRecord op.sub)) := by
  refine ⟨fun _ => ?_, fun none => Bool.noConfusion none⟩
  obtain ⟨-, rest, mem, ⟨ahead, -, port, -⟩, -⟩ := State.completion_eq_some.1 h
  by_cases inside : op.sub < Config.subscribers
  · exact .inl ⟨t, if_pos inside⟩
  · exact .inr ⟨op, by rw [port]; simp, Nat.le_of_not_lt inside, if_neg inside⟩

/-- Settles O57: the commands guarded by their operands, the completions at the port, and the rest. -/
theorem wellFormedCommandsComplete : Obligations.WellFormedCommandsComplete := by
  intro c s
  show Result.Answers s c.wellFormed (exec c s)
  cases c
  case powerOn | zoneBadFrame => exact Result.answers_guarded s _ Iff.rfl
  case readSubServed | zoneGapTimeout | untaken | revSilent | hostFrame | hostLengthDiscard =>
    exact Result.answers_guarded s _ decide_eq_true_iff
  case taken | reject | stateReport | window => exact Result.answers_guarded s _ Iff.rfl
  case hostReadDone | writeSubReadDone | hostWriteDone | initRecordsDone | fillDone | castoutDone | writeBackDone | throughWriteDone =>
    simp only [exec, execHostReadDone, execWriteSubReadDone, execHostWriteDone, execInitRecordsDone, execFillDone, execCastoutDone,
      execWriteBackDone, execThroughWriteDone]
    split
    · rename_i completed
      exact Result.answers_completion completed _
    · exact Result.answers_next s s
  all_goals exact Result.answers_next s _

end Sys2Proof.Machine
end

section
/-! SUPPORT. Rolls, updates and write policies (O49). -/

namespace Sys2Proof.Machine

/-! ### The roll and the posted updates (R28, R33) -/

/-- The roll, field by field (R28). -/
theorem Record.roll_eq (period : Word16) (r : Record) : r.roll period = { r with
    period
    messages := if r.period = period then r.messages else 0
    allowanceUsed := if r.period = period then r.allowanceUsed else 0
    charges := if r.period = period then r.charges else 0 } := by
  unfold Record.roll
  by_cases h : r.period = period
  · subst h
    simp only [if_true]
  · simp only [h, if_false]

theorem Record.roll_of_current {period : Word16} {r : Record} (h : r.period = period) : r.roll period = r := if_pos h

/-- One more consecutive miss, at most 255; at the limit the record is UNREACHABLE (R104). -/
theorem Update.apply_deadlineMiss (limit : Nat) (r : Record) :
    let misses := if r.misses < 255 then r.misses + 1 else 255;
    (Update.deadlineMiss limit).apply r = { r with misses, unreachable := r.unreachable || decide (limit ≤ misses) } := by
  intro misses
  have count : min 255 (r.misses + 1) = misses := by
    simp only [misses]
    split <;> omega
  simp only [Update.apply, count]

namespace Cache

variable (c : Cache) (n way : Nat)

theorem change_lru (f : Record → Record) : (c.change n way f).lru = c.lru := by
  obtain ⟨_, _, _, _, _, _, _, _, frame⟩ := change_spec c n way f
  rw [frame]

theorem access_current {period : Word16} (h : (c.line n way).record.period = period) : c.access period n way = c.markUsed n way := by
  show markUsed (if _ then _ else _) n way = _
  rw [if_pos h]

theorem access_stale {period : Word16} (h : (c.line n way).record.period ≠ period) :
    c.access period n way = (c.change n way (Record.roll period)).markUsed n way := by
  show markUsed (if _ then _ else _) n way = _
  rw [if_neg h]

/-- An access leaves the record as rolled, whatever its line holds (R28). -/
theorem access_record (period : Word16) : ((c.access period n way).line n way).record = (c.line n way).record.roll period := by
  by_cases current : (c.line n way).record.period = period
  · rw [access_current c n way current, Record.roll_of_current current]
    rfl
  · rw [access_stale c n way current]
    exact (change_spec c n way (Record.roll period)).1

theorem access_lru (period : Word16) : (c.access period n way).lru = Table.set 0 c.lru (setOf n) (1 - way) := by
  by_cases current : (c.line n way).record.period = period
  · rw [access_current c n way current]
    rfl
  · rw [access_stale c n way current]
    show Table.set 0 (c.change n way _).lru _ _ = _
    rw [change_lru]

end Cache

/-- Settles O49: the updates by kind, an access by its roll, a change by the write policy. -/
theorem updatesRollAndFollowPolicy : Obligations.UpdatesRollAndFollowPolicy := by
  refine ⟨fun r => ⟨fun _ => rfl, fun _ _ => rfl, fun _ => rfl, fun limit => ?_⟩, fun c period n way => ?_, fun c n way f => ?_⟩
  · intro misses
    have miss : (Update.deadlineMiss limit).apply r = _ := Update.apply_deadlineMiss limit r
    refine ⟨fun reached => ?_, fun below => ?_⟩
    · rw [miss, decide_eq_true reached, Bool.or_true]
    · rw [miss, decide_eq_false (Nat.not_le.2 below), Bool.or_false]
  · intro d r
    refine ⟨(Cache.access_record c n way period).trans (Record.roll_eq period r), fun current => ?_, fun stale => ?_,
      Cache.access_lru c n way period⟩
    · rw [show d = c.markUsed n way from Cache.access_current c n way current]
      exact ⟨rfl, rfl⟩
    · rw [show d = _ from Cache.access_stale c n way stale]
      exact ⟨rfl, rfl⟩
  · intro l d m raised
    obtain ⟨record, tag, -, others, through, deferred, below, atLimit, -⟩ := Cache.change_spec c n way f
    exact ⟨record, tag, others, through, deferred, below, atLimit⟩

end Sys2Proof.Machine
end

section
/-! SUPPORT. FLUSH and the sweep of the lines (O52). -/

namespace Sys2Proof.Machine

/-! ### FLUSH (R46) -/

theorem execFlush_taken {s t : State} {place : Nat} {body : List Byte} (h : s.takeOrder .flush = some (place, body, t)) :
    exec .flush s = .next (flushTake place t) := by
  show execFlush s = _
  simp only [execFlush, h]

/-- Outside RESTARTING a FLUSH begins its sweep, or finds one in progress. -/
theorem flushTake_outside {t : State} (outside : t.link.partState ≠ .restarting) (place : Nat) :
    flushTake place t = if t.cache.sweep.isSome then t.reply place .busy .none
      else t.withCache { t.cache with sweep := some (.lines (some place) 0 0 0) } := if_neg outside

/-- A visit of a DIRTY line: the write-back is issued, and the line is CASTING (R46). -/
theorem Cache.visit_dirty {c : Cache} {next : Nat} (h : (c.lineAt next).state = .dirty) (place : Option Nat) (written outstanding : Nat) :
    c.visit place next written outstanding = { c with
      lines := Table.set {} c.lines next { c.lineAt next with state := .casting, deferral := 0 }
      port := c.port ++ [.writeBack ((c.lineAt next).tag * 256 + next / 2) (c.lineAt next).record true]
      counts := { c.counts with memoryWrites := c.counts.memoryWrites + 1 }
      sweep := some (.lines place (next + 1) (written + 1) (outstanding + 1)) } := if_pos h

/-- A visit of any other line leaves it alone (R46). -/
theorem Cache.visit_other {c : Cache} {next : Nat} (h : (c.lineAt next).state ≠ .dirty) (place : Option Nat) (written outstanding : Nat) :
    c.visit place next written outstanding = { c with sweep := some (.lines place (next + 1) written outstanding) } := if_neg h

theorem execFlushVisit_next {s : State} {place : Option Nat} {next written outstanding : Nat}
    (sweep : s.cache.sweep = some (.lines place next written outstanding)) (more : next < Config.cacheLines) :
    exec .flushVisit s = .next (s.withCache (s.cache.visit place next written outstanding)).settleDown := by
  show execFlushVisit s = _
  simp only [execFlushVisit, sweep]
  rw [if_pos more]

/-- A sweep of lines that has none of its write-backs outstanding ends (R46, log 12). -/
theorem State.sweepEnd_none {s : State} {place : Option Nat} {next written : Nat} (done : Config.cacheLines ≤ next)
    (sweep : s.cache.sweep = some (.lines place next written 0)) :
    s.sweepEnd = some (place, written, s.withCache { s.cache with sweep := none }) := by
  simp only [State.sweepEnd, sweep]
  rw [if_neg (Nat.not_lt.2 done)]

/-- A sweep of lines ends with the last of its write-backs (R46, log 12). -/
theorem State.sweepEnd_last {s : State} {place : Option Nat} {next written n : Nat} {r : Record} {rest : List PortOp} {mem : List Host.Cell}
    (done : Config.cacheLines ≤ next) (sweep : s.cache.sweep = some (.lines place next written 1)) (inside : n < Config.subscribers)
    (port : s.PortComesTo (.writeBack n r true) rest mem) :
    s.sweepEnd = some (place, written, { s with
      mem := Memory.writeRecord mem n r
      cache := { ({ s.cache with port := rest } : Cache).endWriteBack n with sweep := none } }) := by
  have completed := port.completion (fun _ _ => by simp)
  simp only [State.sweepEnd, sweep, completed]
  rw [if_neg (Nat.not_lt.2 done), if_pos inside]
  rfl

theorem execFlushDone_ended {s t : State} {place written : Nat} (h : s.sweepEnd = some (some place, written, t)) :
    exec .flushDone s = .next (t.reply place .ok (.swept written)).settleDown := by
  show execFlushDone s = _
  simp only [execFlushDone, h]

/-- Settles O52: the order by the sweep in progress, a visit by its line, the end by what is outstanding. -/
theorem flushWritesDirtyLines : Obligations.FlushWritesDirtyLines := by
  refine ⟨fun s t place body taken outside => ?_, fun s place next written out sweep more => ?_, fun s place next written done => ?_⟩
  · rw [execFlush_taken taken, flushTake_outside outside]
    refine ⟨fun idle => ?_, fun busy => ?_⟩
    · rw [idle]
      rfl
    · rw [if_pos (Option.isSome_iff_ne_none.2 busy)]
  · intro l
    rw [execFlushVisit_next sweep more]
    refine ⟨fun dirty => ?_, fun other => ?_⟩
    · rw [Cache.visit_dirty dirty]
      rfl
    · rw [Cache.visit_other other]
      rfl
  · refine ⟨fun sweep => execFlushDone_ended (State.sweepEnd_none done sweep), fun n r rest inside sweep port => ?_⟩
    exact execFlushDone_ended (State.sweepEnd_last done sweep inside ⟨[], by simp, port, rfl⟩)

end Sys2Proof.Machine
end

section
/-! SUPPORT. Numbers as bytes, the layout of a subscriber record, and record memory (O48). -/

namespace Sys2Proof.Machine

/-! ### Numbers as bytes, most significant first (R171) -/

namespace Bytes

theorem length_ofNat (w n : Nat) : (ofNat w n).length = w := by
  induction w generalizing n with
  | zero => rfl
  | succ w ih => simp only [ofNat, List.length_cons, ih]

theorem foldl_ofNat (w n k : Nat) : (ofNat w n).foldl (fun m b => m * 256 + b.toNat) k = k * 256 ^ w + n % 256 ^ w := by
  induction w generalizing k with
  | zero => simp [ofNat, Nat.mod_one]
  | succ w ih =>
    have split : n % 256 ^ (w + 1) = n % 256 ^ w + 256 ^ w * (n / 256 ^ w % 256) := by rw [Nat.pow_succ, Nat.mod_mul]
    rw [ofNat, List.foldl_cons, ih, BitVec.toNat_ofNat, split, Nat.pow_succ]
    ring

/-- A number that fits its bytes reads back. -/
theorem toNat_ofNat {w n : Nat} (h : n < 256 ^ w) : toNat (ofNat w n) = n := by
  rw [toNat, foldl_ofNat, Nat.zero_mul, Nat.zero_add, Nat.mod_eq_of_lt h]

theorem field_drop (bs : List Byte) (k i w : Nat) : field (bs.drop k) i w = field bs (k + i) w := by
  rw [field, field, List.drop_drop]

end Bytes

/-! ### Numbered names (12.3) -/

theorem SubStatus.ofCode_eq (n : Nat) : SubStatus.ofCode n = [SubStatus.active, .suspended, .closed][n]? := by
  match n with
  | 0 | 1 | 2 => rfl
  | n + 3 => rfl

theorem AccountKind.ofCode_eq (n : Nat) : AccountKind.ofCode n = [AccountKind.postpaid, .prepaid][n]? := by
  match n with
  | 0 | 1 => rfl
  | n + 2 => rfl

theorem Capability.ofCode_eq (n : Nat) : Capability.ofCode n = [Capability.toneOnly, .numeric, .text][n]? := by
  match n with
  | 0 | 1 | 2 => rfl
  | n + 3 => rfl

theorem ReplyMode.ofCode_eq (n : Nat) : ReplyMode.ofCode n = [ReplyMode.twoWay, .oneWay][n]? := by
  match n with
  | 0 | 1 => rfl
  | n + 2 => rfl

/-- A name is listed at a number of its list alone. -/
theorem lt_of_listed {α : Type} {l : List α} {n : Nat} {a : α} (h : l[n]? = some a) : n < l.length :=
  (List.getElem?_eq_some_iff.1 h).1

theorem flagOf_eq_some {n : Nat} {b : Bool} (h : flagOf n = some b) : n < 2 := by
  by_contra big
  rw [flagOf_none (by omega)] at h
  cases h

theorem lastZoneOf_eq_some {n : Nat} {z : Option Nat} (h : lastZoneOf n = some z) : n < 16 ∨ n = 255 := by
  unfold lastZoneOf at h
  split at h
  · exact .inl ‹_›
  · split at h
    · exact .inr ‹_›
    · cases h

theorem lastZoneOf_listed {n : Nat} (h : n < 16 ∨ n = 255) : lastZoneOf n = some (if n = 255 then none else some n) := by
  rcases h with low | rfl
  · rw [lastZoneOf, if_pos low, if_neg (by omega)]
  · rfl

/-! ### The host-owned fields (12.3) -/

/-- The six host-owned fields hold values that the table of 12.3 lists. -/
def HostFields.Listed (bs : List Byte) : Prop :=
  Bytes.field bs 0 1 < 3 ∧ Bytes.field bs 1 1 < 2 ∧ Bytes.field bs 2 1 < 64 ∧ Bytes.field bs 3 1 < 3 ∧ Bytes.field bs 4 1 < 2 ∧
    Bytes.field bs 5 1 < 16

theorem HostFields.listed_of_some {bs : List Byte} {v : HostFields} (h : HostFields.ofBytes bs = some v) : HostFields.Listed bs := by
  simp only [HostFields.ofBytes, SubStatus.ofCode_eq, AccountKind.ofCode_eq, Capability.ofCode_eq, ReplyMode.ofCode_eq,
    Option.bind_eq_bind, Option.bind_eq_some_iff] at h
  obtain ⟨_, status, _, account, _, plan, _, capability, _, mode, _, zone, -⟩ := h
  exact ⟨lt_of_listed status, lt_of_listed account, (Operands.below_spec plan).2 ▸ (Operands.below_spec plan).1, lt_of_listed capability,
    lt_of_listed mode, (Operands.below_spec zone).2 ▸ (Operands.below_spec zone).1⟩

theorem HostFields.ofBytes_unlisted {bs : List Byte} (h : ¬HostFields.Listed bs) : HostFields.ofBytes bs = none :=
  Option.eq_none_iff_forall_ne_some.2 fun _ some => h (HostFields.listed_of_some some)

theorem HostFields.ofBytes_listed {bs : List Byte} (h : HostFields.Listed bs) {status : SubStatus} {account : AccountKind}
    {capability : Capability} {mode : ReplyMode} (hs : [SubStatus.active, .suspended, .closed][Bytes.field bs 0 1]? = some status)
    (ha : [AccountKind.postpaid, .prepaid][Bytes.field bs 1 1]? = some account)
    (hc : [Capability.toneOnly, .numeric, .text][Bytes.field bs 3 1]? = some capability)
    (hm : [ReplyMode.twoWay, .oneWay][Bytes.field bs 4 1]? = some mode) :
    HostFields.ofBytes bs = some { status, account, plan := Bytes.field bs 2 1, capability, mode, homeZone := Bytes.field bs 5 1 } := by
  obtain ⟨-, -, plan, -, -, zone⟩ := h
  simp only [HostFields.ofBytes, SubStatus.ofCode_eq, AccountKind.ofCode_eq, Capability.ofCode_eq, ReplyMode.ofCode_eq, hs, ha, hc, hm,
    Operands.below_of_lt plan, Operands.below_of_lt zone]
  rfl

/-! ### The subscriber record (12.3) -/

/-- Offsets 0 to 11 hold values that the table of 12.3 lists. -/
def Record.Listed (bs : List Byte) : Prop :=
  HostFields.Listed bs ∧ (Bytes.field bs 6 1 < 16 ∨ Bytes.field bs 6 1 = 255) ∧ Bytes.field bs 7 1 < 16 ∧ Bytes.field bs 9 1 < 2 ∧
    Bytes.field bs 10 1 < 2 ∧ Bytes.field bs 11 1 < 33

theorem Record.listed_of_some {bs : List Byte} {r : Record} (h : Record.ofFields bs = some r) : Record.Listed bs := by
  simp only [Record.ofFields, Option.bind_eq_bind, Option.bind_eq_some_iff] at h
  obtain ⟨_, host, _, zone, _, tag, _, unreachable, _, exhausted, _, live, -⟩ := h
  exact ⟨HostFields.listed_of_some host, lastZoneOf_eq_some zone, (Operands.below_spec tag).2 ▸ (Operands.below_spec tag).1,
    flagOf_eq_some unreachable, flagOf_eq_some exhausted, (Operands.below_spec live).2 ▸ (Operands.below_spec live).1⟩

theorem Record.ofFields_unlisted {bs : List Byte} (h : ¬Record.Listed bs) : Record.ofFields bs = none :=
  Option.eq_none_iff_forall_ne_some.2 fun _ some => h (Record.listed_of_some some)

/-- A record's fields stand at the offsets of 12.3, whatever offsets 34 to 61 hold (R172). -/
theorem Record.ofFields_listed {bs : List Byte} (h : Record.Listed bs) {host : HostFields} (fields : HostFields.ofBytes bs = some host) :
    Record.ofFields bs = some
      { host, lastZone := if Bytes.field bs 6 1 = 255 then none else some (Bytes.field bs 6 1)
        airTag := BitVec.ofNat 4 (Bytes.field bs 7 1), misses := Bytes.field bs 8 1, unreachable := decide (Bytes.field bs 9 1 = 1)
        exhausted := decide (Bytes.field bs 10 1 = 1), live := Bytes.field bs 11 1, nextProbe := BitVec.ofNat 32 (Bytes.field bs 12 4)
        balance := Bytes.field bs 16 4, reserved := Bytes.field bs 20 4, charges := Bytes.field bs 24 4
        period := BitVec.ofNat 16 (Bytes.field bs 28 2), messages := Bytes.field bs 30 2, allowanceUsed := Bytes.field bs 32 2 } := by
  obtain ⟨-, zone, tag, unreachable, exhausted, live⟩ := h
  simp only [Record.ofFields, fields, lastZoneOf_listed zone, Operands.below_of_lt tag, flagOf_bit (Nat.le_of_lt_succ unreachable),
    flagOf_bit (Nat.le_of_lt_succ exhausted), Operands.below_of_lt live]
  rfl

/-! ### A record written as 64 bytes (R27, R172) -/

theorem Record.length_fieldBytes (r : Record) : r.fieldBytes.length = 62 := by
  simp only [Record.fieldBytes, List.length_append, Bytes.length_ofNat, List.length_replicate, List.length_cons, List.length_nil]

theorem Record.length_bytes (r : Record) : r.bytes.length = 64 := by
  rw [Record.bytes, List.length_append, Record.length_fieldBytes, Bytes.length_ofNat]

/-- Offsets 34 to 61 are written as 0 (R172). -/
theorem Record.bytes_unused (r : Record) {i : Nat} (low : 34 ≤ i) (high : i < 62) : r.bytes[i]? = some 0 := by
  rw [Record.bytes, List.getElem?_append_left (by rw [r.length_fieldBytes]; exact high), Record.fieldBytes]
  rw [List.getElem?_append_right (by simpa [Bytes.length_ofNat] using low), List.getElem?_replicate, if_pos]
  simp only [List.length_append, Bytes.length_ofNat, List.length_cons, List.length_nil]
  omega

/-- The check word written is correct (R27). -/
theorem Record.checkWordGood_bytes (r : Record) : checkWordGood r.bytes = true := by
  have front : r.bytes.take 62 = r.fieldBytes := List.take_left' r.length_fieldBytes
  have back : r.bytes.drop 62 = Bytes.ofNat 2 (Bytes.crc16 r.fieldBytes).toNat := List.drop_left' r.length_fieldBytes
  refine decide_eq_true ?_
  rw [front, Bytes.field, back, List.take_of_length_le (Nat.le_of_eq (Bytes.length_ofNat 2 _)),
    Bytes.toNat_ofNat (Bytes.crc16 r.fieldBytes).isLt]

theorem HostFields.ofBytes_bytes {r : Record} (plan : r.host.plan < 64) (zone : r.host.homeZone < 16) :
    HostFields.ofBytes r.bytes = some r.host := by
  have byte : ∀ n, n < 256 → (BitVec.ofNat 8 n).toNat = n := fun n h => Nat.mod_eq_of_lt h
  have h2 : Bytes.field r.bytes 2 1 = r.host.plan := (Bytes.field_one _ _).trans (byte _ (by omega))
  have h5 : Bytes.field r.bytes 5 1 = r.host.homeZone := (Bytes.field_one _ _).trans (byte _ (by omega))
  have h0 : SubStatus.ofCode (Bytes.field r.bytes 0 1) = some r.host.status := by
    rw [Bytes.field_one]
    show SubStatus.ofCode (BitVec.ofNat 8 r.host.status.code).toNat = _
    cases r.host.status <;> rfl
  have h1 : AccountKind.ofCode (Bytes.field r.bytes 1 1) = some r.host.account := by
    rw [Bytes.field_one]
    show AccountKind.ofCode (BitVec.ofNat 8 r.host.account.code).toNat = _
    cases r.host.account <;> rfl
  have h3 : Capability.ofCode (Bytes.field r.bytes 3 1) = some r.host.capability := by
    rw [Bytes.field_one]
    show Capability.ofCode (BitVec.ofNat 8 r.host.capability.code).toNat = _
    cases r.host.capability <;> rfl
  have h4 : ReplyMode.ofCode (Bytes.field r.bytes 4 1) = some r.host.mode := by
    rw [Bytes.field_one]
    show ReplyMode.ofCode (BitVec.ofNat 8 r.host.mode.code).toNat = _
    cases r.host.mode <;> rfl
  simp only [HostFields.ofBytes, h0, h1, h2, h3, h4, h5, Operands.below_of_lt plan, Operands.below_of_lt zone]
  rfl

theorem flagOf_flagByte (b : Bool) : flagOf (flagByte b).toNat = some b := by cases b <;> rfl

theorem lastZoneOf_byte {z : Option Nat} (h : ∀ n, z = some n → n < 16) : lastZoneOf (BitVec.ofNat 8 (z.getD 255)).toNat = some z := by
  cases z with
  | none => rfl
  | some n =>
    have low := h n rfl
    rw [Option.getD_some, BitVec.toNat_ofNat, Nat.mod_eq_of_lt (by omega), lastZoneOf, if_pos low]

/-- A record whose fields are in range reads back as written (R25, R172). -/
theorem Record.ofFields_bytes {r : Record} (h : r.legal) : Record.ofFields r.bytes = some r := by
  obtain ⟨plan, home, last, misses, live, balance, reserved, charges, messages, allowance⟩ := h
  have byte : ∀ n, n < 256 → (BitVec.ofNat 8 n).toNat = n := fun n h => Nat.mod_eq_of_lt h
  have word : ∀ {n}, n ≤ Config.max32 → n < 256 ^ 4 := fun h => Nat.lt_of_le_of_lt h (by decide)
  have half : ∀ {n}, n ≤ Config.max16 → n < 256 ^ 2 := fun h => Nat.lt_of_le_of_lt h (by decide)
  have h6 : lastZoneOf (Bytes.field r.bytes 6 1) = some r.lastZone := by rw [Bytes.field_one]; exact lastZoneOf_byte last
  have h7 : Bytes.field r.bytes 7 1 = r.airTag.toNat := by
    rw [Bytes.field_one]
    show (r.airTag.setWidth 8).toNat = _
    rw [BitVec.toNat_setWidth, Nat.mod_eq_of_lt (Nat.lt_trans r.airTag.isLt (by decide))]
  have h8 : Bytes.field r.bytes 8 1 = r.misses := (Bytes.field_one _ _).trans (byte _ (by omega))
  have h9 : flagOf (Bytes.field r.bytes 9 1) = some r.unreachable := by rw [Bytes.field_one]; exact flagOf_flagByte _
  have h10 : flagOf (Bytes.field r.bytes 10 1) = some r.exhausted := by rw [Bytes.field_one]; exact flagOf_flagByte _
  have h11 : Bytes.field r.bytes 11 1 = r.live := (Bytes.field_one _ _).trans (byte _ (by omega))
  have h12 : Bytes.field r.bytes 12 4 = r.nextProbe.toNat := Bytes.toNat_ofNat (w := 4) r.nextProbe.isLt
  have h16 : Bytes.field r.bytes 16 4 = r.balance := Bytes.toNat_ofNat (w := 4) (word balance)
  have h20 : Bytes.field r.bytes 20 4 = r.reserved := Bytes.toNat_ofNat (w := 4) (word reserved)
  have h24 : Bytes.field r.bytes 24 4 = r.charges := Bytes.toNat_ofNat (w := 4) (word charges)
  have h28 : Bytes.field r.bytes 28 2 = r.period.toNat := Bytes.toNat_ofNat (w := 2) r.period.isLt
  have h30 : Bytes.field r.bytes 30 2 = r.messages := Bytes.toNat_ofNat (w := 2) (half messages)
  have h32 : Bytes.field r.bytes 32 2 = r.allowanceUsed := Bytes.toNat_ofNat (w := 2) (half allowance)
  simp only [Record.ofFields, HostFields.ofBytes_bytes plan home, h6, h7, h8, h9, h10, h11, h12, h16, h20, h24, h28, h30, h32,
    Operands.below_of_lt r.airTag.isLt, Operands.below_of_lt (Nat.lt_succ_of_le live), Option.bind_eq_bind, Option.bind_some,
    BitVec.ofNat_toNat, BitVec.setWidth_eq]
  rfl

/-! ### Record memory (R24, R27) -/

namespace Memory

theorem readBytes_eq_map (m : List Host.Cell) (a n : Nat) : readBytes m a n = (List.range n).map (fun i => read m (a + i)) := by
  induction n generalizing a with
  | zero => rfl
  | succ n ih =>
    rw [readBytes, ih, List.range_succ_eq_map, List.map_cons, List.map_map]
    congr 2
    funext i
    simp only [Function.comp_apply, Nat.succ_eq_add_one]
    congr 1
    omega

theorem take_readBytes (m : List Host.Cell) (a : Nat) {k n : Nat} (h : k ≤ n) : (readBytes m a n).take k = readBytes m a k := by
  rw [readBytes_eq_map, readBytes_eq_map, ← List.map_take, List.take_range, Nat.min_eq_left h]

/-- The 64 bytes of a record just written (R27). -/
theorem readBytes_writeRecord (m : List Host.Cell) (n : Nat) (r : Record) : readBytes (writeRecord m n r) (n * 64) 64 = r.bytes := by
  have back := readBytes_writeBytes m (n * 64) r.bytes
  rwa [r.length_bytes] at back

theorem getElem?_readBytes (m : List Host.Cell) (a : Nat) {i n : Nat} (h : i < n) : (readBytes m a n)[i]? = some (read m (a + i)) := by
  rw [readBytes_eq_map, List.getElem?_map, List.getElem?_range h]
  rfl

/-- Offsets 34 to 61 of a record just written read as 0 (R172). -/
theorem read_writeRecord_unused (m : List Host.Cell) (n : Nat) (r : Record) {i : Nat} (low : 34 ≤ i) (high : i < 62) :
    read (writeRecord m n r) (n * 64 + i) = 0 := by
  have byte := getElem?_readBytes (writeRecord m n r) (n * 64) (Nat.lt_trans high (by decide : 62 < 64))
  rw [readBytes_writeRecord, r.bytes_unused low high] at byte
  exact (Option.some.inj byte).symm

theorem read_writeRecord_other (m : List Host.Cell) (n : Nat) (r : Record) {a : Nat} (h : a < n * 64 ∨ n * 64 + 64 ≤ a) :
    read (writeRecord m n r) a = read m a :=
  read_writeBytes_other m (n * 64) r.bytes a (by rw [r.length_bytes]; exact h)

theorem readRecord_writeRecord_other (m : List Host.Cell) {n k : Nat} (r : Record) (h : k ≠ n) :
    readRecord (writeRecord m n r) k = readRecord m k := by
  unfold readRecord
  rw [readBytes_congr (writeRecord m n r) m (k * 64) 64 (fun x _ _ => read_writeRecord_other m n r (by omega))]

/-- A record as read, by its check word and its fields (R27, R172). -/
theorem readRecord_eq (m : List Host.Cell) (n : Nat) :
    readRecord m n = if checkWordGood (readBytes m (n * 64) 64) = true then Record.ofFields (readBytes m (n * 64) 64) else none := rfl

theorem checkWordGood_iff (m : List Host.Cell) (n : Nat) : checkWordGood (readBytes m (n * 64) 64) = true ↔
    (Bytes.crc16 (readBytes m (n * 64) 62)).toNat = Bytes.field (readBytes m (n * 64) 64) 62 2 := by
  rw [checkWordGood, decide_eq_true_iff, take_readBytes m _ (by decide)]

end Memory

/-- Settles O48: a record's 64 bytes are read back as they were written, and read by the table of 12.3. -/
theorem recordsReadBack : Obligations.RecordsReadBack := by
  unfold Obligations.RecordsReadBack
  intro fields good
  have check : ∀ m n, good m n ↔ checkWordGood (Memory.readBytes m (n * 64) 64) = true := fun m n => by
    rw [Memory.checkWordGood_iff, Memory.readBytes_eq_map, Memory.readBytes_eq_map]
  have at_eq : ∀ m n, fields m n = Bytes.field (Memory.readBytes m (n * 64) 64) := fun m n => by
    rw [Memory.readBytes_eq_map]
  refine ⟨fun _ _ _ => rfl, fun m n r => ⟨fun legal => ?_, ?_, fun i => Memory.read_writeRecord_unused m n r, fun a => Memory.read_writeRecord_other m n r,
    fun k => Memory.readRecord_writeRecord_other m r, Memory.wf_writeRecord m n r⟩, fun m n => ?_⟩
  · rw [Memory.readRecord_eq, Memory.readBytes_writeRecord, if_pos r.checkWordGood_bytes, Record.ofFields_bytes legal]
  · rw [check, Memory.readBytes_writeRecord]
    exact r.checkWordGood_bytes
  · intro at_ listed
    have same : listed ↔ Record.Listed (Memory.readBytes m (n * 64) 64) := by
      simp only [Record.Listed, HostFields.Listed, ← at_eq, and_assoc]
      exact Iff.rfl
    refine ⟨fun bad => ?_, fun status account capability mode passes lists hs ha hc hm => ?_⟩
    · rw [Memory.readRecord_eq]
      rcases bad with fails | unlisted
      · rw [if_neg (mt (check m n).2 fails)]
      · rw [Record.ofFields_unlisted (mt same.2 unlisted), ite_self]
    · have whole := same.1 lists
      simp only [at_, at_eq] at hs ha hc hm ⊢
      rw [Memory.readRecord_eq, if_pos ((check m n).1 passes),
        Record.ofFields_listed whole (HostFields.ofBytes_listed whole.1 hs ha hc hm)]

end Sys2Proof.Machine
end

section
/-! SUPPORT. A REGISTER at the head of the reverse item queue, with an event that waits for it (O27). -/

namespace Sys2Proof.Machine

/-- A REGISTER waits at the head of the reverse item queue, and a cycle turn that arrived after it waits for it (R104). -/
def registerAwaited : State :=
  { State.reset with
    zoneLinks := { reverseQueue := [{ kind := .register, sub := 5, tag := 3, code := 1, zone := 2 }] }
    retry := { announced := [{ event := .cycleTurn 1, behind := some 1 }] } }

/-- How many items each event of the Retry Unit still waits for, after a command. -/
def Result.behind : Result → List (Option Nat)
  | .next t => t.retry.announced.map Announced.behind
  | .fault _ => []
  | .refused _ => []

/-- A REGISTER taken is one item fewer that the event waits for (R104, log 15). -/
theorem register_passes_event : Result.behind (exec .register registerAwaited) = [some 0] := by decide +kernel

/-- Refutes O27: its clause for REGISTER puts the Retry Unit back as it stood before the item was taken, but for the count of
registrations, so an event that waits for the item would still wait for it afterwards; REGISTER, like ACK, lets it wait for one fewer. -/
theorem not_reverseItemsTaken : ¬Obligations.ReverseItemsTaken := by
  rintro ⟨-, -, register⟩
  have claimed := congrArg Result.behind (register registerAwaited _ [] rfl rfl (by decide) (by decide))
  rw [register_passes_event] at claimed
  exact absurd claimed (by decide +kernel)

end Sys2Proof.Machine
end

section
/-! SUPPORT. Deadlines and misses (O29). -/

namespace Sys2Proof.Machine

/-! ### What a posted request changes (R30) -/

/-- A posted request changes the Record Cache, and what the Retry Unit is answered. -/
theorem State.post_eq (s : State) (n : Nat) (kind : RequestKind) :
    ∃ c answers, s.post n kind = { s with cache := c, retry := { s.retry with answers } } := by
  unfold State.post
  dsimp only
  split
  · cases kind <;> exact ⟨_, _, rfl⟩
  · split
    · exact ⟨_, s.retry.answers, rfl⟩
    · exact ⟨_, s.retry.answers, rfl⟩

theorem State.post_awaitSet (s : State) (n : Nat) (kind : RequestKind) : (s.post n kind).retry.awaitSet = s.retry.awaitSet := by
  obtain ⟨c, answers, h⟩ := s.post_eq n kind
  rw [h]

/-! ### A missed entry (R104, R105) -/

/-- The deadline-miss update of an entry that has not missed yet is posted with U as in force; it changes the Record Cache alone (R104). -/
theorem State.postMiss_eq (s : State) (a : AwaitElement) :
    (a.missed = true → s.postMiss a = s) ∧
    (a.missed = false → s.postMiss a = (s.withRetry (s.retry.markMissed a.entry)).post a.sub (.update (.deadlineMiss s.retry.missLimit))) ∧
    ∃ c r, s.postMiss a = (s.withRetry r).withCache c ∧ r.policy = s.retry.policy ∧
      r.awaitSet.filter (fun b => decide (b.entry ≠ a.entry)) = s.retry.awaitSet.filter (fun b => decide (b.entry ≠ a.entry)) := by
  unfold State.postMiss
  cases a.missed with
  | true => exact ⟨fun _ => rfl, fun h => Bool.noConfusion h, s.cache, s.retry, rfl, rfl, rfl⟩
  | false =>
    refine ⟨fun h => Bool.noConfusion h, fun _ => rfl, ?_⟩
    obtain ⟨c, moved⟩ := State.post_update_eq (s := s.withRetry (s.retry.markMissed a.entry)) a.sub (.deadlineMiss s.retry.missLimit)
    refine ⟨c, s.retry.markMissed a.entry, moved, rfl, ?_⟩
    show (s.retry.awaitSet.map _).filter _ = _
    induction s.retry.awaitSet with
    | nil => rfl
    | cons b l ih => by_cases own : b.entry = a.entry <;> simp [own] <;> simpa using ih

theorem State.awaitRetry_eq {s : State} {n : Nat} {e : Entry} (live : s.store.entry n = some e) (missFrame cycle : Word32) :
    s.awaitRetry n missFrame cycle = s.joinRetryList
      { entry := n, sub := e.sub, tag := e.airTag, missFrame := some missFrame, reachPending := true
        retryAt := cycle + 1 + BitVec.ofNat 32 ((s.retry.row e.originalLevel).backoff.getD (e.attempts - 1) 0) } := by
  simp only [State.awaitRetry, live]
  rfl

/-- An entry that joins the retry list keeps all but its state and its retry-at. -/
theorem State.entry_joinRetryList {s : State} {x : RetryElement} {e : Entry} (live : s.store.entry x.entry = some e) :
    (s.joinRetryList x).store.entry x.entry = some { e with state := .retryWait, retryAt := some x.retryAt } := by
  show (s.store.changeEntry _ _).entry _ = _
  rw [Store.entry_changeEntry, if_pos rfl, live]
  rfl

theorem State.postReachRead_eq {s : State} {n : Nat} {e : Entry} (live : s.store.entry n = some e) :
    s.postReachRead n = s.post e.sub (.reachRead n e.admission e.attempts) := by
  simp only [State.postReachRead, live]

/-- A missed entry leaves the await set as it is resolved, and no other does (R105). -/
theorem State.resolveMiss_awaitSet (s : State) (n : Nat) (frameCount cycle : Word32) :
    (s.resolveMiss n frameCount cycle).retry.awaitSet = s.retry.awaitSet.filter (fun b => decide (b.entry ≠ n)) := by
  unfold State.resolveMiss
  dsimp only
  split
  · rfl
  · rename_i e live
    split
    · rfl
    · split
      · rfl
      · rw [State.awaitRetry_eq live,
          State.postReachRead_eq (State.entry_joinRetryList (s := s.leaveAwaitSet n) (x := { entry := n, .. }) live)]
        exact State.post_awaitSet _ _ _

theorem State.missDeadline_waits {s : State} {a : AwaitElement} (h : (s.postMiss a).retryBlocked = true) (frameCount cycle : Word32) :
    s.missDeadline frameCount cycle a = s.postMiss a := if_pos h

theorem State.missDeadline_resolved {s : State} {a : AwaitElement} (h : (s.postMiss a).retryBlocked = false) (frameCount cycle : Word32) :
    s.missDeadline frameCount cycle a = (s.postMiss a).resolveMiss a.entry frameCount cycle :=
  if_neg (by rw [h]; simp)

/-- After a miss no request of the unit is held only where the entry has been resolved and has left the await set (R104, R105). -/
theorem State.missDeadline_awaitSet {s : State} {frameCount cycle : Word32} {a : AwaitElement}
    (h : (s.missDeadline frameCount cycle a).retryBlocked = false) :
    (s.missDeadline frameCount cycle a).retry.awaitSet = s.retry.awaitSet.filter (fun b => decide (b.entry ≠ a.entry)) := by
  cases posted : (s.postMiss a).retryBlocked with
  | true =>
    rw [State.missDeadline_waits posted, posted] at h
    cases h
  | false =>
    obtain ⟨-, -, c, r, frame, -, others⟩ := s.postMiss_eq a
    rw [State.missDeadline_resolved posted, State.resolveMiss_awaitSet, frame]
    exact others

/-! ### The deadlines of a frame start (R104) -/

/-- The await-set elements whose deadline is a frame count. -/
def Retry.due (r : Retry) (frameCount : Word32) : List AwaitElement := r.awaitSet.filter (fun x => decide (x.deadline = frameCount))

/-- Elements miss in turn: each finds no request of the unit held, and is the first in the await set whose deadline is the frame count. -/
def State.MissInTurn (frameCount cycle : Word32) (s : State) (missed : List AwaitElement) : Prop :=
  ∀ early x late, missed = early ++ x :: late →
    let v := early.foldl (fun v y => v.missDeadline frameCount cycle y) s
    v.retryBlocked = false ∧ x.deadline = frameCount ∧
      ∃ before after, v.retry.awaitSet = before ++ x :: after ∧ ∀ y ∈ before, y.deadline ≠ frameCount

theorem State.missInTurn_nil (frameCount cycle : Word32) (s : State) : s.MissInTurn frameCount cycle [] := by
  intro early x late h
  exact absurd h (by simp)

theorem State.MissInTurn.cons {frameCount cycle : Word32} {s : State} {a : AwaitElement} {missed before after : List AwaitElement}
    (free : s.retryBlocked = false) (due : a.deadline = frameCount) (set : s.retry.awaitSet = before ++ a :: after)
    (first : ∀ y ∈ before, y.deadline ≠ frameCount) (h : (s.missDeadline frameCount cycle a).MissInTurn frameCount cycle missed) :
    s.MissInTurn frameCount cycle (a :: missed) := by
  intro early x late split
  cases early with
  | nil =>
    obtain ⟨rfl, -⟩ := List.cons.inj split
    exact ⟨free, due, before, after, set, first⟩
  | cons y early =>
    obtain ⟨rfl, others⟩ := List.cons.inj split
    exact h early x late others

theorem State.passDeadlines_blocked {s : State} (h : s.retryBlocked = true) (frameCount cycle : Word32) (fuel : Nat) :
    s.passDeadlines frameCount cycle fuel = s := by
  cases fuel with
  | zero => rfl
  | succ k => exact if_pos h

theorem Retry.dueAt_none {r : Retry} {frameCount : Word32} (h : r.dueAt frameCount = none) : ∀ x ∈ r.awaitSet, x.deadline ≠ frameCount :=
  fun x hx => by simpa using List.find?_eq_none.1 h x hx

theorem Retry.dueAt_some {r : Retry} {frameCount : Word32} {a : AwaitElement} (h : r.dueAt frameCount = some a) :
    a.deadline = frameCount ∧ ∃ before after, r.awaitSet = before ++ a :: after ∧ ∀ y ∈ before, y.deadline ≠ frameCount := by
  obtain ⟨due, before, after, set, first⟩ := List.find?_eq_some_iff_append.1 h
  exact ⟨by simpa using due, before, after, set, fun y hy => by simpa using first y hy⟩

theorem Retry.dueAt_isSome {r : Retry} {frameCount : Word32} (h : ∃ x ∈ r.awaitSet, x.deadline = frameCount) :
    (r.dueAt frameCount).isSome = true := by
  obtain ⟨x, hx, due⟩ := h
  exact List.find?_isSome.2 ⟨x, hx, by simpa using due⟩

theorem Retry.dueAt_eq_none {r : Retry} {frameCount : Word32} (h : ∀ x ∈ r.awaitSet, x.deadline ≠ frameCount) :
    r.dueAt frameCount = none :=
  List.find?_eq_none.2 (fun x hx => by simpa using h x hx)

theorem Retry.due_split {r : Retry} {frameCount : Word32} {a : AwaitElement} {before after : List AwaitElement}
    (due : a.deadline = frameCount) (set : r.awaitSet = before ++ a :: after) (first : ∀ y ∈ before, y.deadline ≠ frameCount) :
    r.due frameCount = a :: after.filter (fun x => decide (x.deadline = frameCount)) := by
  rw [Retry.due, set, List.filter_append, List.filter_eq_nil_iff.2 (fun y hy => by simpa using first y hy), List.nil_append,
    List.filter_cons_of_pos (by simpa using due)]

/-- The walk of the deadlines: the first that is due misses, as long as no request of the unit is held (R104). -/
theorem State.passDeadlines_walk (frameCount cycle : Word32) (fuel : Nat) (s : State) (free : s.retryBlocked = false)
    (enough : s.retry.awaitSet.length ≤ fuel) :
    ∃ missed, s.passDeadlines frameCount cycle fuel = missed.foldl (fun v x => v.missDeadline frameCount cycle x) s ∧
      missed.Sublist (s.retry.due frameCount) ∧ missed.head? = (s.retry.due frameCount).head? ∧
      s.MissInTurn frameCount cycle missed ∧
      ((s.passDeadlines frameCount cycle fuel).retryBlocked = true ∨
        ∀ x ∈ (s.passDeadlines frameCount cycle fuel).retry.awaitSet, x.deadline ≠ frameCount) := by
  induction fuel generalizing s with
  | zero =>
    have empty : s.retry.awaitSet = [] := List.eq_nil_of_length_eq_zero (Nat.le_zero.1 enough)
    refine ⟨[], rfl, List.nil_sublist _, ?_, State.missInTurn_nil _ _ s, .inr ?_⟩
    · rw [Retry.due, empty]; rfl
    · show ∀ x ∈ s.retry.awaitSet, _
      rw [empty]
      simp
  | succ fuel ih =>
    cases first : s.retry.dueAt frameCount with
    | none =>
      have stop : s.passDeadlines frameCount cycle (fuel + 1) = s := by
        simp only [State.passDeadlines, free, first, Bool.false_eq_true, if_false]
      have none := Retry.dueAt_none first
      refine ⟨[], stop, List.nil_sublist _, ?_, State.missInTurn_nil _ _ s, .inr (by rw [stop]; exact none)⟩
      rw [Retry.due, List.filter_eq_nil_iff.2 (fun x hx => by simpa using none x hx)]
    | some a =>
      obtain ⟨due, before, after, set, early⟩ := Retry.dueAt_some first
      have next : s.passDeadlines frameCount cycle (fuel + 1) =
          (s.missDeadline frameCount cycle a).passDeadlines frameCount cycle fuel := by
        simp only [State.passDeadlines, free, first, Bool.false_eq_true, if_false]
      have dues := Retry.due_split due set early
      cases blocked : (s.missDeadline frameCount cycle a).retryBlocked with
      | true =>
        have stop := State.passDeadlines_blocked blocked frameCount cycle fuel
        refine ⟨[a], next.trans stop, ?_, by rw [dues]; rfl, .cons free due set early (State.missInTurn_nil _ _ _),
          .inl (by rw [next, stop, blocked])⟩
        rw [dues]
        exact (List.nil_sublist _).cons_cons a
      | false =>
        have left := State.missDeadline_awaitSet blocked
        have gone : (before ++ a :: after).filter (fun b => decide (b.entry ≠ a.entry)) =
            before.filter (fun b => decide (b.entry ≠ a.entry)) ++ after.filter (fun b => decide (b.entry ≠ a.entry)) := by
          rw [List.filter_append, List.filter_cons_of_neg (by simp)]
        rw [set, gone] at left
        obtain ⟨missed, walk, sub, -, inTurn, ends⟩ := ih _ blocked (by
          have front := List.length_filter_le (fun b : AwaitElement => decide (b.entry ≠ a.entry)) before
          have back := List.length_filter_le (fun b : AwaitElement => decide (b.entry ≠ a.entry)) after
          rw [left, List.length_append]
          rw [set, List.length_append, List.length_cons] at enough
          omega)
        refine ⟨a :: missed, next.trans walk, ?_, by rw [dues]; rfl, .cons free due set early inTurn, by rw [next]; exact ends⟩
        rw [dues]
        refine List.Sublist.cons_cons a (sub.trans ?_)
        rw [Retry.due, left, List.filter_append, List.filter_eq_nil_iff.2 (fun y hy => by simpa using early y (List.mem_of_mem_filter hy)),
          List.nil_append]
        exact List.filter_sublist.filter _

/-! ### What the Retry Unit has still to act on (R104) -/

theorem Announced.ripe_iff (a : Announced) : a.ripe = true ↔ a.behind = none ∨ a.behind = some 0 := by
  unfold Announced.ripe
  cases a.behind <;> simp

theorem State.drainAnnounced_blocked {s : State} (h : s.retryBlocked = true) (fuel : Nat) : s.drainAnnounced fuel = s := by
  cases fuel with
  | zero => rfl
  | succ k => cases list : s.retry.announced <;> simp [State.drainAnnounced, list, h]

theorem State.drainAnnounced_nil {s : State} (h : s.retry.announced = []) (fuel : Nat) : s.drainAnnounced fuel = s := by
  cases fuel with
  | zero => rfl
  | succ k => simp only [State.drainAnnounced, h]

theorem State.drainAnnounced_unripe {s : State} {a : Announced} {rest : List Announced} (list : s.retry.announced = a :: rest)
    (h : a.ripe = false) (fuel : Nat) : s.drainAnnounced fuel = s := by
  cases fuel with
  | zero => rfl
  | succ k => simp [State.drainAnnounced, list, h]

theorem State.drainAnnounced_next {s : State} {a : Announced} {rest : List Announced} (list : s.retry.announced = a :: rest)
    (free : s.retryBlocked = false) (ripe : a.ripe = true) (fuel : Nat) :
    s.drainAnnounced (fuel + 1) = (s.actOn a rest).drainAnnounced fuel := by
  simp only [State.drainAnnounced, list, free, ripe, Bool.not_true, Bool.or_false, Bool.false_eq_true, if_false]

/-- A frame start acted on: it is done with no deadline left, and otherwise stays and lets no item pass (R104). -/
theorem State.actOn_frameStart {s : State} {a : Announced} {frameCount cycle : Word32} (event : a.event = .frameStart frameCount cycle)
    (rest : List Announced) :
    let u := s.passDeadlines frameCount cycle s.retry.awaitSet.length
    ((∃ x ∈ u.retry.awaitSet, x.deadline = frameCount) → s.actOn a rest = u.withAnnounced ({ a with behind := some 0 } :: rest)) ∧
    ((∀ x ∈ u.retry.awaitSet, x.deadline ≠ frameCount) → s.actOn a rest = u.withAnnounced rest) := by
  intro u
  have act : s.actOn a rest =
      u.withAnnounced (if (u.retry.dueAt frameCount).isSome then { a with behind := some 0 } :: rest else rest) := by
    simp only [State.actOn, event]
    rfl
  rw [act]
  refine ⟨fun more => ?_, fun none => ?_⟩
  · rw [if_pos (Retry.dueAt_isSome more)]
  · rw [Retry.dueAt_eq_none none]
    rfl

theorem State.actOn_cycleTurn {s : State} {a : Announced} {coming : Word32} (event : a.event = .cycleTurn coming) (rest : List Announced) :
    s.actOn a rest = (s.withAnnounced rest).turnRetries coming := by
  simp only [State.actOn, event]

theorem State.actOn_reachRead {s : State} {a : Announced} {n sub attempts : Nat} {admission : Word32}
    (event : a.event = .reachRead n sub admission attempts) (rest : List Announced) :
    s.actOn a rest = (s.withAnnounced rest).post sub (.reachRead n admission attempts) := by
  simp only [State.actOn, event]

theorem execDeadlineMiss_eq (s : State) :
    exec .deadlineMiss s = .next (if s.retry.announced = [] then s else s.takeAnnounced.settleDown) := by
  show execDeadlineMiss s = _
  unfold execDeadlineMiss
  cases s.retry.announced <;> simp

theorem State.retryWaits_iff (s : State) : s.retryWaits = true ↔ s.retryBlocked = true ∨ s.retry.announced ≠ [] := by
  unfold State.retryWaits
  rw [Bool.or_eq_true]
  cases s.retry.announced <;> simp

/-! ### A launched one-way entry (R110) -/

/-- The reach read of an entry that has joined the retry list is posted at once, or waits its turn (R106, R110). -/
theorem State.askReach_eq {s : State} {n : Nat} {e : Entry} (live : s.store.entry n = some e) :
    s.askReach n = if s.retryWaits then s.holdOver (.reachRead n e.sub e.admission e.attempts)
      else s.post e.sub (.reachRead n e.admission e.attempts) := by
  simp only [State.askReach, live, State.postReachRead_eq live]

theorem State.resolveOneWay_eq {s : State} {n : Nat} {e : Entry} (live : s.store.entry n = some e) (launch cycle : Word32) :
    s.resolveOneWay n launch cycle =
      if e.repeats ≤ e.attempts ∨ e.maxAttempts ≤ e.attempts then
        (s.settle n .unconfirmed 0).countRetry (fun c => { c with unconfirmed := c.unconfirmed + 1 })
      else if e.cancelRequested then s.settle n .cancelled 0
      else ((s.awaitRetry n launch cycle).askReach n).countRetry (fun c => { c with repeats := c.repeats + 1 }) := by
  simp only [State.resolveOneWay, live]

/-- Settles O29: what waits is drained event by event, a frame start by the walk of its deadlines, a miss and a one-way entry by the
first that holds. -/
theorem deadlinesPassedAndMisses : Obligations.DeadlinesPassedAndMisses := by
  refine ⟨fun s => ⟨rfl, State.drainAnnounced_nil, execDeadlineMiss_eq s⟩, fun s a rest fuel list => ⟨fun waits => ?_, fun free ripe => ?_⟩,
    fun s g cycle coming => ?_, fun s g cycle a e live => ?_, fun s n launch cycle e live => ?_⟩
  · rcases waits with blocked | ⟨k, later⟩
    · exact State.drainAnnounced_blocked blocked fuel
    · refine State.drainAnnounced_unripe list (Bool.eq_false_iff.2 (mt a.ripe_iff.1 ?_)) fuel
      simp [later]
  · have next := State.drainAnnounced_next list free (a.ripe_iff.2 ripe) fuel
    refine ⟨fun g cycle event => ?_, fun coming event => ?_, fun n sub admission attempts event => ?_⟩
    · obtain ⟨missed, walk, sub, head, inTurn, ends⟩ := State.passDeadlines_walk g cycle _ s free (Nat.le_refl _)
      obtain ⟨stays, done⟩ := State.actOn_frameStart (s := s) event rest
      refine ⟨missed, _, walk, sub, head, inTurn, fun more => ?_, fun none => ?_⟩
      · have blocked := ends.resolve_right (fun none => by obtain ⟨x, hx, due⟩ := more; exact none x hx due)
        rw [next, stays more]
        exact ⟨blocked, State.drainAnnounced_blocked (by exact blocked) fuel⟩
      · rw [next, done none]
        rfl
    · rw [next, State.actOn_cycleTurn event]
      rfl
    · rw [next, State.actOn_reachRead event]
      rfl
  · refine ⟨fun waits => ?_, fun free none => ?_⟩
    · have held := (State.retryWaits_iff s).2 waits
      exact ⟨if_pos held, if_pos held⟩
    · have idle : ¬s.retryWaits = true := mt (State.retryWaits_iff s).1 (by simp [free, none])
      exact ⟨if_neg idle, if_neg idle⟩
  · intro marked posted n after resolved row x
    obtain ⟨again, first, c, r, frame, policy, -⟩ := s.postMiss_eq a
    have same : s.postMiss a = posted := by
      by_cases missed : a.missed = true
      · rw [again missed]
        exact (if_pos missed).symm
      · rw [first (Bool.eq_false_iff.2 missed)]
        exact (if_neg missed).symm
    rw [same] at frame
    have stands : (posted.leaveAwaitSet a.entry).store.entry a.entry = some e := by
      rw [frame]
      exact live
    refine ⟨fun blocked => ?_, fun free cancel => ?_, fun free kept spent => ?_, fun free kept more => ?_⟩
    · rw [State.missDeadline_waits (by rw [same]; exact blocked), same]
    all_goals rw [State.missDeadline_resolved (by rw [same]; exact free), same]
    · simp only [State.resolveMiss, stands, cancel, if_true]
      rfl
    · simp only [State.resolveMiss, stands, kept, spent, Bool.false_eq_true, if_false, if_true]
      rfl
    · have list : (posted.leaveAwaitSet a.entry).awaitRetry a.entry g cycle = (posted.leaveAwaitSet a.entry).joinRetryList x := by
        rw [State.awaitRetry_eq stands]
        have row_eq : (posted.leaveAwaitSet a.entry).retry.row e.originalLevel = row := by
          rw [frame]
          show r.policy.getD _ _ = _
          rw [policy]
        rw [row_eq]
      have joined := State.entry_joinRetryList (s := posted.leaveAwaitSet a.entry) (x := x) stands
      simp only [State.resolveMiss, stands, kept, Nat.not_le.2 more, Bool.false_eq_true, if_false, list,
        State.postReachRead_eq (n := a.entry) joined]
      rfl
  · intro ends row x joined waits
    rw [State.resolveOneWay_eq live]
    have list : s.awaitRetry n launch cycle = joined := State.awaitRetry_eq live launch cycle
    have stands := State.entry_joinRetryList (s := s) (x := x) live
    refine ⟨fun h => if_pos h, fun h cancel => ?_, fun h kept free => ?_, fun h kept busy => ?_⟩
    · rw [if_neg h, if_pos cancel]
    all_goals rw [if_neg h, if_neg (by rw [kept]; simp), list, State.askReach_eq (s := joined) stands]
    · rw [if_neg (mt (State.retryWaits_iff joined).1 free)]
    · rw [if_pos ((State.retryWaits_iff joined).2 busy)]
      rfl

end Sys2Proof.Machine
end

section
/-! SUPPORT. The turn of a holding read, the line that holds a subscriber, and the money orders (O32). -/

namespace Sys2Proof.Machine

/-! ### The line that holds a subscriber (R29) -/

namespace Cache

/-- A way carries a subscriber: its tag, and not INVALID. -/
def carries (c : Cache) (n way : Nat) : Prop := (c.line n way).state ≠ .invalid ∧ (c.line n way).tag = tagOf n

/-- The first of the two ways that pass a test. -/
theorem find?_ways (p : Nat → Bool) (way : Nat) :
    [0, 1].find? p = some way ↔ p way = true ∧ (way = 0 ∨ (way = 1 ∧ ¬p 0 = true)) := by
  by_cases zero : p 0 = true
  · rw [List.find?_cons_of_pos zero, Option.some_inj]
    exact ⟨fun h => h ▸ ⟨zero, .inl rfl⟩, fun h => (h.2.resolve_right (fun other => other.2 zero)).symm⟩
  · rw [List.find?_cons_of_neg zero, List.find?_singleton]
    refine ⟨fun h => ?_, fun ⟨own, h⟩ => ?_⟩
    · split at h
      · rename_i one
        obtain rfl := Option.some.inj h
        exact ⟨one, .inr ⟨rfl, zero⟩⟩
      · exact absurd h (by simp)
    · obtain rfl : way = 1 := (h.resolve_left (fun h => zero (h ▸ own))).1
      rw [own]
      rfl

theorem holder_eq_some_iff (c : Cache) (n way : Nat) :
    c.holder n = some way ↔ c.carries n way ∧ (way = 0 ∨ (way = 1 ∧ ¬c.carries n 0)) := by
  unfold holder carries
  rw [find?_ways]
  simp only [Bool.and_eq_true, decide_eq_true_eq]

theorem onChip_eq_some_iff (c : Cache) (n way : Nat) : c.onChip n = some way ↔ c.holder n = some way ∧ (c.line n way).state ≠ .filling := by
  unfold onChip
  cases holds : c.holder n with
  | none => simp
  | some w =>
    have valid : (c.line n w).state.valid = true ↔ (c.line n w).state ≠ .filling := by
      have there := ((holder_eq_some_iff c n w).1 holds).1.1
      cases h : (c.line n w).state <;> simp_all [LineState.valid]
    dsimp only
    by_cases h : (c.line n w).state.valid = true
    · rw [if_pos h, Option.some_inj]
      exact ⟨fun e => ⟨e, e ▸ valid.1 h⟩, fun e => e.1⟩
    · rw [if_neg h]
      refine ⟨fun e => absurd e (by simp), fun ⟨e, other⟩ => ?_⟩
      obtain rfl := Option.some.inj e
      exact absurd (valid.2 other) h

theorem filling_iff (c : Cache) (n : Nat) : c.filling n = true ↔ ∃ way, c.holder n = some way ∧ (c.line n way).state = .filling := by
  unfold filling
  cases c.holder n with
  | none => simp
  | some w => simp

end Cache

/-! ### The turn of a holding read (R30, R31) -/

/-- What a holding read needs beside a line, as the first of its kind and of its subscriber (R31). -/
theorem Cache.readyToHold_iff (c : Cache) (r : Request) : c.readyToHold r = true ↔
    r.kind.isHolding = true ∧ c.front r.sub = some r ∧ r.sub ∉ c.holds ∧ (∃ way, c.onChip r.sub = some way) ∧ c.waitsForSweep r = false := by
  unfold Cache.readyToHold Cache.isHeld
  simp only [Bool.and_eq_true, decide_eq_true_eq, Bool.not_eq_true', List.contains_eq_mem, decide_eq_false_iff_not, and_assoc,
    Option.isSome_iff_exists]

theorem State.heldTurn_iff {s : State} {kind : RequestKind} (holding : kind.isHolding = true) (sub way : Nat) :
    s.heldTurn kind = some (sub, way) ↔ ∃ (before after : List Request) (q : Request),
      s.cache.queue = before ++ q :: after ∧ q.kind = kind ∧ q.sub = sub ∧ (∀ x ∈ before, x.kind ≠ kind ∧ x.sub ≠ sub) ∧
      sub ∉ s.cache.holds ∧ s.cache.waitsForSweep q = false ∧ s.cache.onChip sub = some way := by
  unfold State.heldTurn
  constructor
  · intro h
    split at h
    · exact absurd h (by simp)
    · rename_i r found
      split at h
      · rename_i ready
        obtain ⟨w, onChip, pair⟩ := Option.map_eq_some_iff.1 h
        obtain ⟨rfl, rfl⟩ := Prod.mk.inj pair
        obtain ⟨-, front, unheld, -, unswept⟩ := (s.cache.readyToHold_iff r).1 ready
        obtain ⟨-, before, after, queue, others⟩ := Cache.split_of_front front
        obtain ⟨own, before', after', queue', kinds⟩ := List.find?_eq_some_iff_append.1 found
        have own : r.kind = kind := by simpa using own
        -- the first of its kind stands before no other of its subscriber, so both splits are one
        have first : ∀ x ∈ before, x.kind ≠ kind := by
          have prefix_ : before <+: before' ∨ before' <+: before :=
            List.prefix_or_prefix_of_prefix (queue ▸ List.prefix_append before _) (queue' ▸ List.prefix_append before' _)
          rcases prefix_ with ⟨l, rfl⟩ | ⟨l, rfl⟩
          · exact fun x hx => by simpa using kinds x (List.mem_append_left l hx)
          · cases l with
            | nil => exact fun x hx => by simpa using kinds x (by simpa using hx)
            | cons y l =>
              rw [queue', List.append_assoc, List.append_cancel_left_eq, List.cons_append] at queue
              obtain ⟨rfl, -⟩ := List.cons.inj queue
              exact absurd rfl (others r (by simp))
        exact ⟨before, after, r, queue, own, rfl, fun x hx => ⟨first x hx, others x hx⟩, unheld, unswept, onChip⟩
      · exact absurd h (by simp)
  · rintro ⟨before, after, q, queue, rfl, rfl, first, unheld, unswept, onChip⟩
    have found : s.cache.queue.find? (fun r => decide (r.kind = q.kind)) = some q :=
      List.find?_eq_some_iff_append.2 ⟨by simp, before, after, queue, fun x hx => by simpa using (first x hx).1⟩
    have ready : s.cache.readyToHold q = true := (s.cache.readyToHold_iff q).2
      ⟨holding, Cache.front_of_split queue (fun x hx => (first x hx).2), unheld, ⟨way, onChip⟩, unswept⟩
    simp only [found, ready, onChip, if_true, Option.map_some]

/-! ### TOP_UP and ADJUST (R133, R134) -/

theorem execTopUpReadServed_held {s : State} {sub way place n amount : Nat} (turn : s.heldTurn .topUpRead = some (sub, way))
    (order : s.charging.order = some (.topUp place n amount)) :
    exec .topUpReadServed s = .next ((s.serveHolding sub way).completeTopUp place sub way amount).settleDown := by
  show execTopUpReadServed s = _
  simp only [execTopUpReadServed, turn, order]

theorem execAdjustReadServed_held {s : State} {sub way place n : Nat} {amount : Int} (turn : s.heldTurn .adjustRead = some (sub, way))
    (order : s.charging.order = some (.adjust place n amount)) :
    exec .adjustReadServed s = .next ((s.serveHolding sub way).completeAdjust place sub way amount).settleDown := by
  show execAdjustReadServed s = _
  simp only [execAdjustReadServed, turn, order]

/-- Settles O32: the turn by the first of kind and subscriber, the balance by the closing update on the record as rolled. -/
theorem topUpAndAdjustApplied : Obligations.TopUpAndAdjustApplied := by
  refine ⟨fun s command kind listed => ?_, fun c n => ?_, fun s sub way place n amount turn order => ?_,
    fun s sub way place n amount turn order => ?_⟩
  · intro c
    simp only [List.mem_cons, Prod.mk.injEq, List.not_mem_nil, or_false] at listed
    have holding : kind.isHolding = true := by
      rcases listed with ⟨-, rfl⟩ | ⟨-, rfl⟩ | ⟨-, rfl⟩ | ⟨-, rfl⟩ | ⟨-, rfl⟩ <;> rfl
    refine ⟨fun sub way => ?_, fun none => ?_⟩
    · rw [State.heldTurn_iff holding]
      refine exists_congr fun before => exists_congr fun after => exists_congr fun q => ?_
      refine and_congr_right fun _ => and_congr_right fun _ => and_congr_right fun own => and_congr_right fun _ => and_congr_right fun _ =>
        and_congr_left fun _ => ?_
      rw [← Bool.not_eq_true, Cache.waitsForSweep_iff, own]
    · rcases listed with ⟨rfl, rfl⟩ | ⟨rfl, rfl⟩ | ⟨rfl, rfl⟩ | ⟨rfl, rfl⟩ | ⟨rfl, rfl⟩
      all_goals
        simp only [exec, execIntakeReadServed, execGroupMemberReadServed, execSettlement, execTopUpReadServed, execAdjustReadServed, none]
  · intro carries first
    have holder : ∀ way, c.holder n = some way ↔ first way := c.holder_eq_some_iff n
    refine ⟨fun way => ?_, ?_⟩
    · rw [c.onChip_eq_some_iff, holder]
    · rw [c.filling_iff]
      exact exists_congr fun way => and_congr_left fun _ => holder way
  · intro r balance after
    obtain ⟨d, held, closed, record⟩ := State.closingUpdate_held s sub way (State.heldTurn_valid turn)
      (fun r => r.withBalance (topUpBalance r amount))
    refine ⟨d, held, ?_⟩
    rw [execTopUpReadServed_held turn order]
    simp only [State.completeTopUp, record, closed]
    rfl
  · intro r balance after
    have valid := State.heldTurn_valid turn
    rw [execAdjustReadServed_held turn order]
    refine ⟨fun prepaid => ?_, fun postpaid => ?_⟩
    · obtain ⟨d, held, closed, record⟩ := State.closingUpdate_held s sub way valid (fun r => r.withBalance (adjustBalance r amount))
      refine ⟨d, held, ?_⟩
      have account : (Record.roll s.charging.period (s.cache.line sub way).record).host.account = .prepaid := prepaid
      simp only [State.completeAdjust, record, account, closed]
      rfl
    · obtain ⟨d, held, released⟩ := State.serveHolding_release valid
      refine ⟨d, held, ?_⟩
      have account : (Record.roll s.charging.period (s.cache.line sub way).record).host.account = .postpaid := postpaid
      simp only [State.completeAdjust, State.serveHolding_record valid, account, released]
      rfl

end Sys2Proof.Machine
end

section
/-! SUPPORT. Completions of the record memory port, and what a waiter of a failed fill receives (O53). -/

namespace Sys2Proof.Machine

/-! ### Fills (R37, R38) -/

/-- A fill that passes its check word: its place is freed, and the record installed (R35, R37). -/
theorem State.endFillRead_some {s : State} {n : Nat} {r : Record} (read : Memory.readRecord s.mem n = some r) (way : Nat) :
    s.endFillRead n way = { s with cache := { s.cache with
      fills := s.cache.fills.filter (fun f => decide (f.sub ≠ n))
      lines := Table.set {} s.cache.lines (2 * (n % 256) + way) { state := .clean, tag := n / 256, deferral := 0, record := r }
      lru := Table.set 0 s.cache.lru (n % 256) (1 - way) } } := by
  simp only [State.endFillRead, read]
  rfl

/-- A fill that fails its check word: the way is emptied, the fault counted and told, and the waiters answered in their order (R38). -/
theorem State.endFillRead_none {s : State} {n : Nat} (read : Memory.readRecord s.mem n = none) (way : Nat) {waits : Request → Bool}
    (who : s.cache.waitsOnFill n = waits) : s.endFillRead n way =
      (s.cache.queue.filter waits).foldl State.failWaiter (({ s with cache := { s.cache with
        fills := s.cache.fills.filter (fun f => decide (f.sub ≠ n))
        lines := Table.set {} s.cache.lines (2 * (n % 256) + way) {}
        queue := s.cache.queue.filter (fun q => !waits q)
        counts := { s.cache.counts with fillFaults := s.cache.counts.fillFaults + 1 } } } : State).notice (.recordFault n .fill)) := by
  subst who
  simp only [State.endFillRead, read]
  rfl

theorem RequestKind.survivesFault_eq (kind : RequestKind) : kind.survivesFault = !(match kind with
    | .writeSub .. => false
    | .repairSub .. => false
    | _ => true) := by
  cases kind <;> rfl

/-- A waiter of a fill, whichever of its conditions is looked at first (R38, log 22). -/
theorem Cache.waitsOnFill_eq (c : Cache) (n : Nat) (q : Request) :
    c.waitsOnFill n q = (q.sub == n && !(q.behindSweep && c.sweepAhead n) && !q.kind.survivesFault) := by
  unfold Cache.waitsOnFill Cache.waitsForSweep
  by_cases own : q.sub = n
  · rw [own, Bool.and_assoc, Bool.and_assoc, Bool.and_comm (!q.kind.survivesFault)]
  · rw [beq_false_of_ne own]
    rfl

/-! ### Write-backs (R40, R46) -/

theorem Cache.writeBackInFlight_iff (c : Cache) (n : Nat) :
    c.writeBackInFlight n = true ↔ ∃ r bySweep, PortOp.writeBack n r bySweep ∈ c.port := by
  unfold Cache.writeBackInFlight
  rw [List.any_eq_true]
  constructor
  · rintro ⟨op, queued, own⟩
    cases op with
    | writeBack m r bySweep =>
      obtain rfl : m = n := by simpa using own
      exact ⟨r, bySweep, queued⟩
    | _ => exact absurd own (by simp)
  · rintro ⟨r, bySweep, queued⟩
    exact ⟨_, queued, by simp⟩

/-- The latest write-back of a line still CASTING makes it CLEAN; any other changes no line (R40). -/
theorem Cache.endWriteBack_spec (c : Cache) (n : Nat) :
    (∀ way, c.onChip n = some way → (c.line n way).state = .casting → c.writeBackInFlight n = false →
      c.endWriteBack n = c.setLine n way { c.line n way with state := .clean }) ∧
    (¬(∃ way, c.onChip n = some way ∧ (c.line n way).state = .casting ∧ c.writeBackInFlight n = false) → c.endWriteBack n = c) := by
  refine ⟨fun way onChip casting last => ?_, fun other => ?_⟩
  · simp only [Cache.endWriteBack, onChip, casting, last, and_self, if_true]
  · cases onChip : c.onChip n with
    | none => simp only [Cache.endWriteBack, onChip]
    | some way =>
      simp only [Cache.endWriteBack, onChip]
      exact if_neg (fun h => other ⟨way, onChip, h⟩)

theorem Cache.endWriteBack_frame (c : Cache) (n : Nat) : c.endWriteBack n = { c with lines := (c.endWriteBack n).lines } := by
  unfold Cache.endWriteBack
  split
  · rfl
  · split <;> rfl

/-- What a write-back leaves of the sweep it belongs to (R46). -/
theorem Cache.countDown_endWriteBack (c : Cache) (n : Nat) (bySweep : Bool) : (c.endWriteBack n).countDown bySweep = { c with
    lines := (c.endWriteBack n).lines
    sweep := match c.sweep, bySweep with
      | some (.lines place next lines out), true => some (.lines place next lines (out - 1))
      | sweep, _ => sweep } := by
  rw [c.endWriteBack_frame n]
  rcases c.sweep with _ | (_ | _) <;> cases bySweep <;> simp [Cache.countDown]

theorem State.isLastOfSweep_iff (s : State) (bySweep : Bool) : s.isLastOfSweep bySweep = true ↔
    bySweep = true ∧ ∃ place next lines out, s.cache.sweep = some (.lines place next lines out) ∧ 512 ≤ next ∧ out ≤ 1 := by
  unfold State.isLastOfSweep Config.cacheLines
  cases s.cache.sweep with
  | none => simp
  | some v => cases v <;> simp [and_assoc]

/-! ### The completions, each with its operation at the port -/

section
variable {s u : State} {n : Nat} (inside : n < Config.subscribers)
include inside

theorem execFillDone_completed {way : Nat} (h : s.completion = some (.fill n way, u)) :
    exec .fillDone s = .next (u.endFillRead n way).settleDown := by
  show execFillDone s = _
  simp only [execFillDone, h]
  exact if_pos inside

theorem execCastoutDone_completed {r : Record} (h : s.completion = some (.castout n r, u)) :
    exec .castoutDone s = .next (u.writeRecord n r) := by
  show execCastoutDone s = _
  simp only [execCastoutDone, h]
  exact if_pos inside

theorem execThroughWriteDone_completed {r : Record} (h : s.completion = some (.throughWrite n r, u)) :
    exec .throughWriteDone s = .next (u.writeRecord n r) := by
  show execThroughWriteDone s = _
  simp only [execThroughWriteDone, h]
  exact if_pos inside

theorem execWriteBackDone_completed {r : Record} {bySweep : Bool} (h : s.completion = some (.writeBack n r bySweep, u))
    (goesOn : s.isLastOfSweep bySweep = false) : exec .writeBackDone s = .next (u.endWriteBack n r bySweep).settleDown := by
  show execWriteBackDone s = _
  simp only [execWriteBackDone, h, goesOn]
  exact if_pos inside

end

/-! ### The waiters of a failed fill (R38, R131) -/

/-- The entries that wait for a touch leave their queues and settle FAULTED (R38, R68). -/
theorem State.touchFault_eq (sub : Nat) (s : State) : s.touchFault sub =
    (((List.range 128).flatMap s.assembler.queue).filter
      (fun k => s.assembler.missSkip.any (fun m => decide (m.sub = sub) && decide (m.entry = k)))).foldl
        (fun v k => (v.leaveQueue k).settle k .faulted 0)
        (s.withAssembler { s.assembler with missSkip := s.assembler.missSkip.filter (fun m => decide (m.sub ≠ sub)) }) := by
  simp only [State.touchFault, List.any_filter]
  rfl

/-- The head that waits for its record settles FAULTED without charge (R131). -/
theorem State.faultHead_eq {s : State} {el : SettleElement} {rest : List SettleElement} {e : Entry} (head : s.charging.head = .record)
    (list : s.charging.settleList = el :: rest) (live : s.store.entry el.entry = some e) :
    s.faultHead = (s.withStore (s.store.setEntry el.entry (some { e with outcome := some .faulted, replyCode := some 0 }))).finishSettlement
      el { e with outcome := some .faulted, replyCode := some 0 } Money.zero none := by
  simp only [State.faultHead, State.awaitedHead, head, list, live, Option.map_some, State.changeEntry, Store.changeEntry]

/-- Settles O53: each completion by its operation, each waiter by its kind. -/
theorem portCompletionsCarriedOut : Obligations.PortCompletionsCarriedOut := by
  refine ⟨fun s n rest mem inside => ?_, fun u r => ?_⟩
  · intro c written
    refine ⟨fun way r port read => ?_, fun way port read => ?_, fun r port => ?_, fun r port => ?_, fun r bySweep port goesOn => ?_⟩
    · rw [execFillDone_completed inside (port.completion (by simp)), State.endFillRead_some (s := { s with mem, cache := c }) read]
    · intro ahead waits failed
      have swept : c.sweepAhead n = ahead := by
        rcases sweep : s.cache.sweep with _ | (_ | _) <;> simp only [Cache.sweepAhead, ahead, c, sweep]
      have who : c.waitsOnFill n = waits := by
        funext q
        rw [Cache.waitsOnFill_eq, RequestKind.survivesFault_eq, Bool.not_not, swept] <;> rfl
      rw [execFillDone_completed inside (port.completion (by simp)), State.endFillRead_none (s := { s with mem, cache := c }) read way who]
    · rw [execCastoutDone_completed inside (port.completion (by simp))]
      rfl
    · rw [execThroughWriteDone_completed inside (port.completion (by simp))]
      rfl
    · intro left
      have more : s.isLastOfSweep bySweep = false := Bool.eq_false_iff.2 (mt (s.isLastOfSweep_iff bySweep).1 goesOn)
      obtain ⟨cleans, stays⟩ := c.endWriteBack_spec n
      have lines : ((c.endWriteBack n).countDown bySweep).lines = (c.endWriteBack n).lines := by
        rw [Cache.countDown_endWriteBack]
      have flight : c.writeBackInFlight n = false ↔ ∀ r' b, PortOp.writeBack n r' b ∉ rest := by
        rw [Bool.eq_false_iff, ne_eq, c.writeBackInFlight_iff]
        simp only [not_exists]
        exact Iff.rfl
      have run := execWriteBackDone_completed inside (port.completion (by simp)) more
      refine ⟨(c.endWriteBack n).countDown bySweep, ?_, run, fun way onChip casting last => ?_, fun other => ?_⟩
      · rw [lines, Cache.countDown_endWriteBack] <;> rfl
      · rw [Cache.line, lines, cleans way onChip casting (flight.2 last)]
        exact ⟨Cache.line_setLine c n way _, Cache.lines_setLine c n way _⟩
      · rw [lines, stays (fun ⟨way, onChip, casting, last⟩ => other ⟨way, onChip, casting, flight.1 last⟩)]
  · intro t
    refine ⟨fun kind => ⟨fun place sub m order => ?_, fun g order => ?_⟩, fun kind => ?_, fun kind el rest e head list live => ?_,
      fun entry admission attempts kind => ?_, fun kind place sub order => ?_, fun place phase kind => ?_, fun w kind => ?_⟩
    · have intake : t = u.faultIntake := by rcases kind with kind | kind <;> simp only [t, State.failWaiter, kind]
      rw [intake, State.faultIntake, order]
      rfl
    · have intake : t = u.faultIntake := by rcases kind with kind | kind <;> simp only [t, State.failWaiter, kind]
      rw [intake, State.faultIntake, order]
    · simp only [t, State.failWaiter, kind]
      exact State.touchFault_eq r.sub u
    · simp only [t, State.failWaiter, kind]
      exact State.faultHead_eq head list live
    · simp only [t, State.failWaiter, kind]
      rfl
    · have money : t = u.faultMoney := by rcases kind with kind | kind <;> simp only [t, State.failWaiter, kind]
      rw [money, State.faultMoney]
      rcases order with ⟨amount, order⟩ | ⟨amount, order⟩
      · rw [order]
        rfl
      · rw [order]
        rfl
    · simp only [t, State.failWaiter, kind]
    · simp only [t, State.failWaiter, kind]
      rfl

end Sys2Proof.Machine
end

section
/-! SUPPORT. INIT_RECORDS and its sweep (O51). -/

namespace Sys2Proof.Machine

/-! ### INIT_RECORDS taken (R45) -/

theorem Operands.subscriber_eq (bs : List Byte) (i : Nat) :
    Operands.subscriber bs i = if Bytes.field bs i 3 < 262144 then some (Bytes.field bs i 3) else none := rfl

/-- How the two indices of an INIT_RECORDS read (R45). -/
theorem Operands.initRecords_eq (body : List Byte) : Operands.initRecords body =
    if 262144 ≤ Bytes.field body 0 3 ∨ 262144 ≤ Bytes.field body 3 3 ∨ Bytes.field body 3 3 < Bytes.field body 0 3 then none
    else some (Bytes.field body 0 3, Bytes.field body 3 3) := by
  simp only [Operands.initRecords, Operands.subscriber_eq]
  by_cases first : Bytes.field body 0 3 < 262144
  · by_cases last : Bytes.field body 3 3 < 262144
    · by_cases order : Bytes.field body 0 3 ≤ Bytes.field body 3 3
      · rw [if_pos first, if_pos last, if_neg (by omega)]
        exact if_pos order
      · rw [if_pos first, if_pos last, if_pos (by omega)]
        exact if_neg order
    · rw [if_pos first, if_neg last]
      exact (if_pos (.inr (.inl (Nat.le_of_not_lt last)))).symm
  · rw [if_neg first]
    exact (if_pos (.inl (Nat.le_of_not_lt first))).symm

theorem execInitRecords_taken {s t : State} {place : Nat} {body : List Byte} (h : s.takeOrder .initRecords = some (place, body, t)) :
    exec .initRecords s = .next (t.takeInitRecords place body) := by
  show execInitRecords s = _
  simp only [execInitRecords, h]

theorem State.takeInitRecords_wrongState {t : State} (h : t.link.partState ≠ .config) (place : Nat) (body : List Byte) :
    t.takeInitRecords place body = t.reply place .wrongState .none := if_pos h

theorem State.takeInitRecords_badValue {t : State} {body : List Byte} (config : t.link.partState = .config)
    (fields : Operands.initRecords body = none) (place : Nat) : t.takeInitRecords place body = t.reply place .badValue .none := by
  simp only [State.takeInitRecords, config, fields, ne_eq, not_true, if_false]

theorem State.takeInitRecords_begun {t : State} {body : List Byte} {first last : Nat} (config : t.link.partState = .config)
    (fields : Operands.initRecords body = some (first, last)) (place : Nat) :
    t.takeInitRecords place body = if t.cache.sweep.isSome then t.reply place .busy .none
      else t.withCache { t.cache with sweep := some (.records place first last 0) } := by
  simp only [State.takeInitRecords, config, fields, ne_eq, not_true, if_false]

/-! ### The sweep (R45) -/

namespace Cache

theorem readyToInit_iff (c : Cache) (n : Nat) : c.readyToInit n = true ↔
    n ∉ c.holds ∧ ∀ q ∈ c.queue ++ c.heldRequests, q.sub = n → q.behindSweep = true := by
  unfold readyToInit isHeld
  rw [Bool.and_eq_true, and_comm]
  simp [or_imp, forall_and]

/-- The line that holds the subscriber is emptied, and no other changes (R45). -/
theorem invalidate_spec (c : Cache) (n : Nat) :
    c.invalidate n = { c with lines := (c.invalidate n).lines } ∧
    (∀ way, c.onChip n = some way → (c.invalidate n).line n way = {}) ∧
    (∀ k, (∀ way, c.onChip n = some way → k ≠ index (setOf n) way) →
      Table.get {} (c.invalidate n).lines k = Table.get {} c.lines k) := by
  unfold invalidate
  cases onChip : c.onChip n with
  | none => exact ⟨rfl, fun way h => absurd h (by simp), fun _ _ => rfl⟩
  | some way =>
    refine ⟨rfl, fun w h => ?_, fun k h => lines_setLine c n way {} k (h way rfl)⟩
    obtain rfl := Option.some.inj h
    exact line_setLine c n way {}

/-- Where no line but the one that holds the subscriber carries its tag, none is left once that one is emptied (R29, R45). -/
theorem holder_invalidate {c : Cache} {n : Nat}
    (only : ∀ way, way < 2 → (c.line n way).state ≠ .invalid → (c.line n way).tag = tagOf n → c.onChip n = some way) :
    (c.invalidate n).holder n = none := by
  obtain ⟨-, emptied, others⟩ := c.invalidate_spec n
  rw [holder_eq_none_iff]
  rintro way listed ⟨valid, tag⟩
  by_cases here : c.onChip n = some way
  · rw [emptied way here] at valid
    exact valid rfl
  · have kept : (c.invalidate n).line n way = c.line n way := others _ (fun w h same => by
      have low : w ≤ 1 := by
        have way_ := ((holder_eq_some_iff c n w).1 ((onChip_eq_some_iff c n w).1 h).1).2
        omega
      simp only [List.mem_cons, List.not_mem_nil, or_false] at listed
      obtain rfl : way = w := (index_inj (by omega) low same).2
      exact here h)
    rw [kept] at valid tag
    refine here (only way ?_ valid tag)
    simp only [List.mem_cons, List.not_mem_nil, or_false] at listed
    omega

/-- The Record Cache once the sweep has issued the default record of its next index (R45). -/
def sweepOn (c : Cache) (place next last written : Nat) (r : Record) : Cache :=
  { c with
    lines := (c.invalidate next).lines, queue := c.queue.map (Request.sweepPassed next)
    heldRequests := c.heldRequests.map (Request.sweepPassed next), port := c.port ++ [.initWrite next r (decide (next = last))]
    sweep := some (.records place (next + 1) last (written + 1)) }

/-- Past an index, its requests wait for the sweep no more; every other waits as it did (R45). -/
theorem waitsForSweep_sweepOn {c : Cache} {place next last written : Nat} (sweep : c.sweep = some (.records place next last written))
    (r : Record) (q : Request) :
    (c.sweepOn place next last written r).waitsForSweep q = (decide (q.sub ≠ next) && c.waitsForSweep q) := by
  simp only [waitsForSweep, sweepAhead, sweepOn, sweep]
  by_cases own : q.sub = next
  · simp [own]
  · have past : decide (next + 1 ≤ q.sub) = decide (next ≤ q.sub) := decide_eq_decide.2 (by omega)
    rw [past, decide_eq_true own, Bool.true_and]

end Cache

theorem State.writeDefault_eq (s : State) (place next last written : Nat) : s.writeDefault place next last written =
    { s with cache := s.cache.sweepOn place next last written (Record.fresh HostFields.default 0 s.charging.period) } := by
  have frame := (s.cache.invalidate_spec next).1
  unfold State.writeDefault
  dsimp only
  rw [frame]
  rfl

theorem execInitRecordWrite_ready {s : State} {place next last written : Nat}
    (sweep : s.cache.sweep = some (.records place next last written)) (ready : next ≤ last ∧ s.cache.readyToInit next = true) :
    exec .initRecordWrite s = .next (s.writeDefault place next last written).settleDown := by
  show execInitRecordWrite s = _
  simp only [execInitRecordWrite, sweep, ready, and_self, if_true]

theorem execInitRecordWrite_waits {s : State} {place next last written : Nat}
    (sweep : s.cache.sweep = some (.records place next last written)) (busy : ¬(next ≤ last ∧ s.cache.readyToInit next = true)) :
    exec .initRecordWrite s = .next s := by
  show execInitRecordWrite s = _
  simp only [execInitRecordWrite, sweep, busy, if_false]

theorem execInitRecordsDone_completed {s u : State} {n : Nat} {r : Record} (inside : n < Config.subscribers)
    (h : s.completion = some (.initWrite n r true, u)) {place next last written : Nat}
    (sweep : u.cache.sweep = some (.records place next last written)) : exec .initRecordsDone s =
      .next (((u.writeRecord n r).withCache { u.cache with sweep := none }).reply place .ok (.swept written)).settleDown := by
  show execInitRecordsDone s = _
  simp only [execInitRecordsDone, h, sweep]
  exact if_pos inside

/-- Settles O51: the order by its checks, a step by the requests before it, the port by its first operation that ends. -/
theorem initRecordsSweeps : Obligations.InitRecordsSweeps := by
  refine ⟨rfl, fun _ _ _ => rfl, fun s t place body first last taken config fields => ?_, fun s t place body taken => ?_,
    fun s place next last written sweep => ?_, fun s t op => ?_, fun s ahead => State.completion_of_default_writes ahead,
    fun s n place next last written r rest mem inside port sweep => ?_⟩
  · rw [execInitRecords_taken taken, State.takeInitRecords_begun config fields]
    refine ⟨fun idle => ?_, fun busy => ?_⟩
    · rw [idle]
      rfl
    · rw [if_pos (Option.isSome_iff_ne_none.2 busy)]
  · intro first last wrong
    rw [execInitRecords_taken taken]
    refine ⟨fun other => ?_, fun config bad => ?_, fun good => ?_⟩
    · rw [State.takeInitRecords_wrongState other]
    · rw [State.takeInitRecords_badValue config ((Operands.initRecords_eq body).trans (if_pos bad))]
    · exact (Operands.initRecords_eq body).trans (if_neg good)
  · intro ready passed onlyHolder
    have ready_iff : ready ↔ next ≤ last ∧ s.cache.readyToInit next = true := by rw [Cache.readyToInit_iff]
    refine ⟨fun now => ?_, fun later => execInitRecordWrite_waits sweep (mt ready_iff.2 later)⟩
    obtain ⟨-, emptied, others⟩ := s.cache.invalidate_spec next
    have waits := Cache.waitsForSweep_sweepOn sweep (Record.fresh HostFields.default 0 s.charging.period)
    generalize hc : s.cache.sweepOn place next last written (Record.fresh HostFields.default 0 s.charging.period) = c at waits
    have lines : c.lines = (s.cache.invalidate next).lines := by rw [← hc]; rfl
    refine ⟨c, ?_, ?_, waits, fun only => ?_, fun way onChip => ?_, fun k h => ?_⟩
    · rw [execInitRecordWrite_ready sweep (ready_iff.1 now), State.writeDefault_eq, hc]
    · rw [← hc]
      rfl
    · have gone : c.holder next = none := by
        show List.find? (fun w => decide ((c.line next w).state ≠ .invalid) && _) _ = _
        unfold Cache.line
        rw [lines]
        exact Cache.holder_invalidate only
      refine ⟨gone, fun q front order => ?_⟩
      have own := (Cache.split_of_front front).1
      refine (Cache.wantsMiss_iff c q).2 ⟨own ▸ front, order, own ▸ gone, ?_, ?_⟩
      · rw [own, ← hc]
        exact now.2.1
      · rw [waits, own, decide_eq_false (by simp), Bool.false_and]
    · rw [Cache.line, lines]
      exact congrArg Line.state (emptied way onChip)
    · rw [lines]
      exact others k h
  · rw [State.completion_eq_some]
    refine and_congr_right fun _ => ⟨?_, ?_⟩
    · rintro ⟨rest, mem, ⟨ahead, records, port, rfl⟩, rfl⟩
      exact ⟨ahead, rest, records, port, rfl⟩
    · rintro ⟨ahead, rest, records, port, rfl⟩
      exact ⟨rest, _, ⟨ahead, records, port, rfl⟩, rfl⟩
  · rw [execInitRecordsDone_completed inside (port.completion (by simp)) sweep]
    rfl

end Sys2Proof.Machine
end

section
/-! SUPPORT. READ_SUB, WRITE_SUB and REPAIR_SUB carried out (O50). -/

namespace Sys2Proof.Machine

/-! ### READ_SUB (R42) -/

theorem State.readSubTurn_iff (s : State) (n place : Nat) : s.readSubTurn n = some place ↔ ∃ q, s.cache.front n = some q ∧
    n ∉ s.cache.holds ∧ s.cache.waitsForSweep q = false ∧
    (q.kind = .readSub place .posted ∨ (q.kind = .readSub place .joined ∧ s.cache.filling n = false)) := by
  unfold State.readSubTurn
  cases front : s.cache.front n with
  | none => simp
  | some q =>
    have free : (s.cache.isHeld n || s.cache.waitsForSweep q) = false ↔ n ∉ s.cache.holds ∧ s.cache.waitsForSweep q = false := by
      simp [Cache.isHeld]
    have one : ∀ P : Request → Prop, (∃ r, some q = some r ∧ P r) ↔ P q := fun P => by simp
    rw [one, ← and_assoc, ← free]
    dsimp only
    cases held : s.cache.isHeld n || s.cache.waitsForSweep q with
    | true => simp
    | false =>
      rw [if_neg Bool.false_ne_true]
      cases kind : q.kind with
      | readSub p phase => cases phase <;> cases s.cache.filling n <;> simp
      | _ => simp

theorem execReadSubServed_turn {s : State} {n place : Nat} (inside : n < Config.subscribers) (turn : s.readSubTurn n = some place) :
    exec (.readSubServed n) s = .next (s.serveReadSub place n).settleDown := by
  show execReadSubServed n s = _
  simp only [execReadSubServed, turn]
  exact if_pos inside

theorem execReadSubServed_waits {s : State} {n : Nat} (inside : n < Config.subscribers) (turn : s.readSubTurn n = none) :
    exec (.readSubServed n) s = .next s := by
  show execReadSubServed n s = _
  simp only [execReadSubServed, turn]
  exact if_pos inside

theorem State.serveReadSub_joins {s : State} {n : Nat} (absent : s.cache.onChip n = none) (filling : s.cache.filling n = true) (place : Nat) :
    s.serveReadSub place n = s.withCache (s.cache.changeFront n (.readSub place .joined)) := by
  simp only [State.serveReadSub, absent, filling, if_true]

theorem State.serveReadSub_reads {s : State} {n : Nat} (absent : s.cache.onChip n = none) (idle : s.cache.filling n = false) (place : Nat) :
    s.serveReadSub place n = s.withCache ((s.cache.changeFront n (.readSub place .reading)).issue (.hostRead n)) := by
  simp only [State.serveReadSub, absent, idle, Bool.false_eq_true, if_false]

/-- A READ_SUB answered from the line that holds its subscriber: the line rolled if that was due, and the READ_SUB alone off the queue
(R28, R42). -/
theorem State.answerFromLine_held {s : State} {n way : Nat} (onChip : s.cache.onChip n = some way) (unheld : n ∉ s.cache.holds) :
    ∃ c, HeldUpdate s.cache c n way ((s.cache.line n way).record.roll s.charging.period) ∧
      ∀ place, (s.withCache (s.cache.withoutFront n)).answerFromLine place n way = ({ s with cache := c } : State).reply place .ok
        (.record .line (c.line n way).state (c.line n way).deferral ((s.cache.line n way).record.roll s.charging.period)) := by
  obtain ⟨record, tag, valid, lines, frame⟩ :=
    Cache.access_spec (s.cache.withoutFront n) s.charging.period n way (Cache.onChip_valid onChip)
  refine ⟨(s.cache.withoutFront n).access s.charging.period n way, ?_, fun place => ?_⟩
  · have holds : s.cache.holds.filter (fun m => decide (m ≠ n)) = s.cache.holds :=
      List.filter_eq_self.2 (fun m hm => decide_eq_true (fun same => unheld (same ▸ hm)))
    exact { record, tag, valid, lines, queue := by rw [frame]; rfl, holds := by rw [frame, holds]; rfl
            heldRequests := by rw [frame]; rfl, fills := by rw [frame]; rfl, sweep := by rw [frame]; rfl, policy := by rw [frame]; rfl
            limit := by rw [frame]; rfl, addressBase := by rw [frame]; rfl }
  · rw [show Record.roll s.charging.period (s.cache.line n way).record = _ from record.symm] <;> rfl

/-! ### Reads from memory that return (R42, R43) -/

section
variable {s u : State} {n place : Nat} (inside : n < Config.subscribers)
include inside

theorem execHostReadDone_completed (h : s.completion = some (.hostRead n, u)) {q : Request} (front : u.cache.front n = some q)
    (kind : q.kind = .readSub place .reading) : exec .hostReadDone s = .next (u.endHostRead place n).settleDown := by
  obtain ⟨sub, _, behind⟩ := q
  subst kind
  show execHostReadDone s = _
  simp only [execHostReadDone, h, front]
  exact if_pos inside

theorem execWriteSubReadDone_completed {fields : HostFields} (h : s.completion = some (.hostWriteRead n, u)) {q : Request}
    (front : u.cache.front n = some q) (kind : q.kind = .writeSub place fields .reading) :
    exec .writeSubReadDone s = .next (u.endWriteRead place n fields).settleDown := by
  obtain ⟨sub, _, behind⟩ := q
  subst kind
  show execWriteSubReadDone s = _
  simp only [execWriteSubReadDone, h, front]
  exact if_pos inside

theorem execHostWriteDone_completed {r : Record} (h : s.completion = some (.hostWrite n r, u)) :
    exec .hostWriteDone s = .next (u.endHostWrite n r).settleDown := by
  show execHostWriteDone s = _
  simp only [execHostWriteDone, h]
  exact if_pos inside

end

theorem State.endHostRead_some {s : State} {n : Nat} {r : Record} (read : Memory.readRecord s.mem n = some r) (place : Nat) :
    s.endHostRead place n =
      (s.withCache (s.cache.withoutFront n)).reply place .ok (.record .memory .invalid 0 (r.roll s.charging.period)) := by
  simp only [State.endHostRead, read]

theorem State.endHostRead_none {s : State} {n : Nat} (read : Memory.readRecord s.mem n = none) (place : Nat) :
    s.endHostRead place n = (s.withCache (s.cache.withoutFront n)).failHostRead place n .hostRead := by
  simp only [State.endHostRead, read]

theorem State.endWriteRead_some {s : State} {n : Nat} {r : Record} (read : Memory.readRecord s.mem n = some r) (place : Nat)
    (fields : HostFields) : s.endWriteRead place n fields = s.withCache (((s.cache.replaceHost n fields).changeFront n
      (.writeSub place fields .writing)).issue (.hostWrite n { r with host := fields })) := by
  simp only [State.endWriteRead, read]

theorem State.endWriteRead_none {s : State} {n : Nat} (read : Memory.readRecord s.mem n = none) (place : Nat) (fields : HostFields) :
    s.endWriteRead place n fields = (s.withCache (s.cache.withoutFront n)).failHostRead place n .hostWrite := by
  simp only [State.endWriteRead, read]

/-- The host-owned fields of the line that holds the subscriber are replaced, and nothing else (R43). -/
theorem Cache.replaceHost_spec (c : Cache) (n : Nat) (fields : HostFields) :
    c.replaceHost n fields = { c with lines := (c.replaceHost n fields).lines } ∧
    (∀ way, c.onChip n = some way → (c.replaceHost n fields).line n way =
      { c.line n way with record := { (c.line n way).record with host := fields } }) ∧
    (∀ k, (∀ way, c.onChip n = some way → k ≠ Cache.index (Cache.setOf n) way) →
      Table.get {} (c.replaceHost n fields).lines k = Table.get {} c.lines k) := by
  unfold Cache.replaceHost
  cases onChip : c.onChip n with
  | none => exact ⟨rfl, fun way h => absurd h (by simp), fun _ _ => rfl⟩
  | some way =>
    refine ⟨rfl, fun w h => ?_, fun k h => Cache.lines_setLine c n way _ k (h way rfl)⟩
    obtain rfl := Option.some.inj h
    exact Cache.line_setLine c n way _

/-- A change of lines, of the front of a queue and a port operation issued, as one update of the Record Cache. -/
theorem Cache.issue_changeFront {c d : Cache} (frame : d = { c with lines := d.lines }) (n : Nat) (kind : RequestKind) (op : PortOp) :
    (d.changeFront n kind).issue op =
      { c with lines := d.lines, queue := (c.changeFront n kind).queue, port := c.port ++ [op] } := by
  rw [frame] <;> rfl

/-! ### Host writes and repairs (R43, R44) -/

theorem State.endHostWrite_writes {s : State} {n place : Nat} {q : Request} {fields : HostFields} {balance : Nat}
    (front : s.cache.front n = some q) (kind : q.kind = .writeSub place fields .writing ∨ q.kind = .repairSub place fields balance .writing)
    (r : Record) : s.endHostWrite n r = ((s.writeRecord n r).withCache (s.cache.withoutFront n)).reply place .ok .none := by
  obtain ⟨sub, _, behind⟩ := q
  rcases kind with kind | kind
  all_goals
    subst kind
    simp only [State.endHostWrite, front]
    rfl

theorem Store.names_iff (t : Store) (n : Nat) : t.names n = true ↔ ∃ k e, t.entry k = some e ∧ e.sub = n := by
  unfold Store.names Store.live
  rw [List.any_eq_true]
  constructor
  · rintro ⟨⟨k, e⟩, live, own⟩
    exact ⟨k, e, (Table.mem_filled t.entries k e).1 live, by simpa using own⟩
  · rintro ⟨k, e, live, own⟩
    exact ⟨(k, e), (Table.mem_filled t.entries k e).2 live, by simpa using own⟩

/-- The line that holds the subscriber takes the repaired record (R44). -/
def Cache.repaired (c : Cache) (n : Nat) (r : Record) : Cache :=
  match c.onChip n with
  | none => c
  | some way => c.setLine n way { c.line n way with state := .clean, deferral := 0, record := r }

theorem Cache.repaired_spec (c : Cache) (n : Nat) (r : Record) :
    c.repaired n r = { c with lines := (c.repaired n r).lines } ∧
    (∀ way, c.onChip n = some way → (c.repaired n r).line n way = { c.line n way with state := .clean, deferral := 0, record := r }) ∧
    (∀ k, (∀ way, c.onChip n = some way → k ≠ Cache.index (Cache.setOf n) way) →
      Table.get {} (c.repaired n r).lines k = Table.get {} c.lines k) ∧
    (c.onChip n = none → c.repaired n r = c) := by
  unfold Cache.repaired
  cases onChip : c.onChip n with
  | none => exact ⟨rfl, fun way h => absurd h (by simp), fun _ _ => rfl, fun _ => rfl⟩
  | some way =>
    refine ⟨rfl, fun w h => ?_, fun k h => Cache.lines_setLine c n way _ k (h way rfl), fun h => absurd h (by simp)⟩
    obtain rfl := Option.some.inj h
    exact Cache.line_setLine c n way _

theorem State.beginRepair_busy {s : State} {n : Nat} (named : s.store.names n = true) (place : Nat) (fields : HostFields) (balance : Nat) :
    s.beginRepair place n fields balance = (s.withCache (s.cache.withoutFront n)).reply place .busy .none := if_pos named

theorem State.beginRepair_writes {s : State} {n : Nat} (free : s.store.names n = false) (place : Nat) (fields : HostFields) (balance : Nat) :
    s.beginRepair place n fields balance =
      s.withCache (((s.cache.repaired n (Record.fresh fields balance s.charging.period)).changeFront n
        (.repairSub place fields balance .writing)).issue (.hostWrite n (Record.fresh fields balance s.charging.period))) :=
  if_neg (by rw [free]; simp)

/-- What serving a host record order in its turn comes to (R42 to R44). -/
theorem State.serveFront_hostOrder {s : State} {n place : Nat} {q : Request} (front : s.cache.front n = some q) (unheld : n ∉ s.cache.holds)
    (unswept : s.cache.waitsForSweep q = false) :
    (q.kind = .readSub place .joined → s.serveFront n = (s.cache.onChip n).map (fun way =>
      (s.withCache (s.cache.withoutFront n)).answerFromLine place n way)) ∧
    (∀ fields, q.kind = .writeSub place fields .waiting → s.serveFront n = if s.cache.filling n then none
      else some (s.withCache ((s.cache.changeFront n (.writeSub place fields .reading)).issue (.hostWriteRead n)))) ∧
    (∀ fields balance, q.kind = .repairSub place fields balance .waiting →
      s.serveFront n = if s.cache.filling n then none else some (s.beginRepair place n fields balance)) := by
  have free : (s.cache.isHeld n || s.cache.waitsForSweep q) = false := by simp [Cache.isHeld, unheld, unswept]
  refine ⟨fun kind => ?_, fun fields kind => ?_, fun fields balance kind => ?_⟩
  all_goals simp only [State.serveFront, front, free, kind, Bool.false_eq_true, if_false]

/-- Settles O50: each phase of an order by its own equation, each memory operation by what the port comes to. -/
theorem hostRecordOrdersCarriedOut : Obligations.HostRecordOrdersCarriedOut := by
  refine ⟨fun _ _ _ => rfl, Store.names_iff, fun c n kind before after q queue own first => c.changeFront_split n kind queue own first,
    fun s n place => ⟨?_, execReadSubServed_waits⟩, fun s n place inside => ?_⟩
  · rw [State.readSubTurn_iff]
    constructor
    · rintro ⟨q, front, unheld, unswept, kind⟩
      obtain ⟨own, before, after, queue, first⟩ := Cache.split_of_front front
      refine ⟨before, after, q, queue, own, first, unheld, ?_, kind⟩
      rw [← Bool.not_eq_true, Cache.waitsForSweep_iff, own] at unswept
      exact unswept
    · rintro ⟨before, after, q, queue, own, first, unheld, unswept, kind⟩
      refine ⟨q, own ▸ Cache.front_of_split queue (own ▸ first), unheld, ?_, kind⟩
      rw [← Bool.not_eq_true, Cache.waitsForSweep_iff, own]
      exact unswept
  · intro counted unqueued answered faulted front
    refine ⟨fun turn => ?_, fun rest mem port reads => ?_, fun rest mem host port reads => ?_, fun rest mem r host balance port writes => ?_,
      fun q first unheld unswept => ?_, fun host balance named => ?_, fun host balance free => ?_⟩
    · rw [execReadSubServed_turn inside turn]
      refine ⟨fun way onChip => ?_, fun absent filling => ?_, fun absent idle => ?_⟩
      · obtain ⟨q, -, unheld, -⟩ := (State.readSubTurn_iff s n place).1 turn
        obtain ⟨c, held, answer⟩ := State.answerFromLine_held onChip unheld
        refine ⟨c, held, ?_⟩
        simp only [State.serveReadSub, onChip, answer]
      · rw [State.serveReadSub_joins absent filling] <;> rfl
      · rw [State.serveReadSub_reads absent idle] <;> rfl
    · obtain ⟨q, first, kind⟩ := reads
      have run := execHostReadDone_completed inside (port.completion (by simp)) first kind
      rw [run]
      refine ⟨fun r read => ?_, fun fails => ?_⟩
      · rw [State.endHostRead_some (s := { s with mem, cache := { s.cache with port := rest } }) read] <;> rfl
      · rw [State.endHostRead_none (s := { s with mem, cache := { s.cache with port := rest } }) fails] <;> rfl
    · obtain ⟨q, first, kind⟩ := reads
      have run := execWriteSubReadDone_completed inside (port.completion (by simp)) first kind
      rw [run]
      refine ⟨fun r read => ?_, fun fails => ?_⟩
      · obtain ⟨frame, own, others⟩ := ({ s.cache with port := rest } : Cache).replaceHost_spec n host
        refine ⟨_, by rw [State.endWriteRead_some (s := { s with mem, cache := { s.cache with port := rest } }) read] <;> rfl,
          Cache.issue_changeFront frame n (.writeSub place host .writing) (.hostWrite n { r with host }), ?_, own, others⟩
        have stays : Cache.front (Cache.replaceHost { s.cache with port := rest } n host) n = some q := by
          rw [frame]
          exact first
        exact ⟨_, Cache.front_changeFront stays (.writeSub place host .writing), rfl⟩
      · rw [State.endWriteRead_none (s := { s with mem, cache := { s.cache with port := rest } }) fails] <;> rfl
    · obtain ⟨q, first, kind⟩ : ∃ q, s.cache.front n = some q ∧
          (q.kind = .writeSub place host .writing ∨ q.kind = .repairSub place host balance .writing) := by
        rcases writes with ⟨q, first, kind⟩ | ⟨q, first, kind⟩
        · exact ⟨q, first, .inl kind⟩
        · exact ⟨q, first, .inr kind⟩
      have run := execHostWriteDone_completed inside (port.completion (by simp))
      rw [run, State.endHostWrite_writes (s := { s with mem, cache := { s.cache with port := rest } }) first kind] <;> rfl
    · obtain ⟨joined, write, repair⟩ := State.serveFront_hostOrder (place := place) first unheld unswept
      refine ⟨fun way kind onChip => ?_, fun host kind => ?_, fun host balance kind => ?_⟩
      · obtain ⟨c, held, answer⟩ := State.answerFromLine_held onChip unheld
        refine ⟨c, held, ?_⟩
        rw [joined kind, onChip, Option.map_some, answer]
      · rw [write host kind]
        exact ⟨fun filling => if_pos filling, fun idle => if_neg (by rw [idle]; simp)⟩
      · rw [repair host balance kind]
        exact ⟨fun filling => if_pos filling, fun idle => if_neg (by rw [idle]; simp)⟩
    · rw [State.beginRepair_busy named] <;> rfl
    · obtain ⟨frame, own, others, absent⟩ := s.cache.repaired_spec n (Record.fresh host balance s.charging.period)
      exact ⟨_, State.beginRepair_writes free place host balance, Cache.issue_changeFront frame n _ _, own, others,
        fun none => (congrArg Cache.lines (absent none) : _ = s.cache.lines)⟩

end Sys2Proof.Machine
end

section
/-! SUPPORT. The orders on one record, and requests posted (O31). -/

namespace Sys2Proof.Machine

/-! ### Fields of the orders on one record (12.2) -/

namespace Bytes

theorem foldl_lt (bs : List Byte) (k : Nat) : bs.foldl (fun m b => m * 256 + b.toNat) k < (k + 1) * 256 ^ bs.length := by
  induction bs generalizing k with
  | nil => simp
  | cons b bs ih =>
    have byte : b.toNat < 256 := b.isLt
    calc bs.foldl (fun m b => m * 256 + b.toNat) (k * 256 + b.toNat)
        < (k * 256 + b.toNat + 1) * 256 ^ bs.length := ih _
      _ ≤ (k + 1) * 256 * 256 ^ bs.length := Nat.mul_le_mul_right _ (by omega)
      _ = (k + 1) * 256 ^ (bs.length + 1) := by ring

/-- A field of `w` bytes. -/
theorem field_lt (bs : List Byte) (i w : Nat) : field bs i w < 256 ^ w := by
  have least := foldl_lt ((bs.drop i).take w) 0
  rw [Nat.zero_add, Nat.one_mul] at least
  exact least.trans_le (Nat.pow_le_pow_right (by omega) (List.length_take_le _ _))

end Bytes

namespace Operands

theorem topUp_eq (body : List Byte) : topUp body =
    if Bytes.field body 0 3 < 262144 ∧ 0 < Bytes.field body 3 4 then some (Bytes.field body 0 3, Bytes.field body 3 4) else none := by
  have fits : Bytes.field body 3 4 < 4294967296 := Bytes.field_lt body 3 4
  unfold topUp
  rw [subscriber_eq]
  by_cases sub : Bytes.field body 0 3 < 262144
  · rw [if_pos sub]
    by_cases amount : 0 < Bytes.field body 3 4
    · rw [if_pos ⟨sub, amount⟩, within_of (hi := Config.max32) ⟨amount, Nat.le_of_lt_succ fits⟩] <;> rfl
    · rw [if_neg (mt And.right amount), within_of_not (lo := 1) (hi := Config.max32) (mt And.left amount)] <;> rfl
  · rw [if_neg sub, if_neg (mt And.left sub)] <;> rfl

/-- A field of four bytes as a signed number: two's complement (R134). -/
theorem toInt_field (body : List Byte) (i : Nat) : (BitVec.ofNat 32 (Bytes.field body i 4)).toInt =
    if Bytes.field body i 4 < 2147483648 then (Bytes.field body i 4 : Int) else (Bytes.field body i 4 : Int) - 4294967296 := by
  have fits : Bytes.field body i 4 < 4294967296 := Bytes.field_lt body i 4
  have whole : (BitVec.ofNat 32 (Bytes.field body i 4)).toNat = Bytes.field body i 4 := Nat.mod_eq_of_lt fits
  rw [BitVec.toInt_eq_toNat_cond, whole]
  exact if_congr (by omega) rfl rfl

theorem adjust_eq (body : List Byte) : adjust body = if Bytes.field body 0 3 < 262144 then
    some (Bytes.field body 0 3, if Bytes.field body 3 4 < 2147483648 then (Bytes.field body 3 4 : Int)
      else (Bytes.field body 3 4 : Int) - 4294967296) else none := by
  unfold adjust
  rw [subscriber_eq, toInt_field]
  by_cases sub : Bytes.field body 0 3 < 262144
  · rw [if_pos sub, if_pos sub] <;> rfl
  · rw [if_neg sub, if_neg sub] <;> rfl

/-- A REPAIR_SUB reads as a WRITE_SUB with a balance (R44). -/
theorem repairSub_eq (body : List Byte) :
    repairSub body = (writeSub body).map (fun v => (v.1, v.2, Bytes.field body 10 4)) := by
  unfold repairSub
  cases writeSub body <;> rfl

theorem writeSub_some {body : List Byte} {fields : HostFields} (sub : Bytes.field body 0 3 < 262144)
    (host : HostFields.ofBytes (body.drop 3) = some fields) : writeSub body = some (Bytes.field body 0 3, fields) := by
  unfold writeSub
  rw [subscriber_eq, if_pos sub, host] <;> rfl

theorem writeSub_none {body : List Byte} (h : ¬(Bytes.field body 0 3 < 262144 ∧ HostFields.Listed (body.drop 3))) :
    writeSub body = none := by
  unfold writeSub
  rw [subscriber_eq]
  by_cases sub : Bytes.field body 0 3 < 262144
  · rw [if_pos sub, HostFields.ofBytes_unlisted (fun listed => h ⟨sub, listed⟩)] <;> rfl
  · rw [if_neg sub] <;> rfl

/-- The host-owned fields stand from the third byte of a WRITE_SUB on (12.2). -/
theorem listed_drop (body : List Byte) : HostFields.Listed (body.drop 3) ↔
    Bytes.field body 3 1 < 3 ∧ Bytes.field body 4 1 < 2 ∧ Bytes.field body 5 1 < 64 ∧ Bytes.field body 6 1 < 3 ∧
      Bytes.field body 7 1 < 2 ∧ Bytes.field body 8 1 < 16 := by
  simp only [HostFields.Listed, Bytes.field_drop]

end Operands

/-! ### The orders taken (R42 to R44, R133, R134) -/

theorem State.readOutsideRestart_some {α : Type} {t : State} {read : List Byte → Option α} {body : List Byte} {v : α}
    (serving : t.link.partState ≠ .restarting) (fields : read body = some v) : t.readOutsideRestart read body = .ok v :=
  readOrder_ok.2 ⟨decide_eq_true serving, fields⟩

theorem State.readOutsideRestart_none {α : Type} {t : State} {read : List Byte → Option α} {body : List Byte}
    (serving : t.link.partState ≠ .restarting) (fields : read body = none) : t.readOutsideRestart read body = .error .badValue :=
  readOrder_error.2 (.inr ⟨decide_eq_true serving, fields, rfl⟩)

section
variable {s t : State} {place : Nat} {body : List Byte}

theorem execTopUp_taken (h : s.takeOrder .topUp = some (place, body, t)) :
    exec .topUp s = .next (t.takeTopUp place body).settleDown := by
  show execTopUp s = _
  simp only [execTopUp, h]

theorem execAdjust_taken (h : s.takeOrder .adjust = some (place, body, t)) :
    exec .adjust s = .next (t.takeAdjust place body).settleDown := by
  show execAdjust s = _
  simp only [execAdjust, h]

theorem execReadSub_taken (h : s.takeOrder .readSub = some (place, body, t)) :
    exec .readSub s = .next (t.takeReadSub place body).settleDown := by
  show execReadSub s = _
  simp only [execReadSub, h]

theorem execWriteSub_taken (h : s.takeOrder .writeSub = some (place, body, t)) :
    exec .writeSub s = .next (t.takeWriteSub place body).settleDown := by
  show execWriteSub s = _
  simp only [execWriteSub, h]

theorem execRepairSub_taken (h : s.takeOrder .repairSub = some (place, body, t)) :
    exec .repairSub s = .next (t.takeRepairSub place body).settleDown := by
  show execRepairSub s = _
  simp only [execRepairSub, h]

/-- READ_SUB by its one field (R42). -/
theorem State.takeReadSub_eq (t : State) (place : Nat) (body : List Byte) :
    (∀ n, Operands.subscriber body 0 = some n →
      t.takeReadSub place body = t.post n (.readSub place (if t.cache.filling n = true then .joined else .posted))) ∧
    (Operands.subscriber body 0 = none → t.takeReadSub place body = t.reply place .badValue .none) := by
  unfold State.takeReadSub
  refine ⟨fun n fields => ?_, fun fields => ?_⟩ <;> simp only [fields]

variable (serving : t.link.partState ≠ .restarting)
include serving

/-- TOP_UP by its fields (R133). -/
theorem State.takeTopUp_eq (place : Nat) (body : List Byte) :
    (∀ sub amount, Operands.topUp body = some (sub, amount) → t.takeTopUp place body =
      ({ t with charging := { t.charging with order := some (.topUp place sub amount) } } : State).post sub .topUpRead) ∧
    (Operands.topUp body = none → t.takeTopUp place body = t.reply place .badValue .none) := by
  unfold State.takeTopUp
  refine ⟨fun sub amount fields => ?_, fun fields => ?_⟩
  · simp only [State.readOutsideRestart_some serving fields]
    rfl
  · simp only [State.readOutsideRestart_none serving fields]

/-- ADJUST by its fields (R134). -/
theorem State.takeAdjust_eq (place : Nat) (body : List Byte) :
    (∀ sub amount, Operands.adjust body = some (sub, amount) → t.takeAdjust place body =
      ({ t with charging := { t.charging with order := some (.adjust place sub amount) } } : State).post sub .adjustRead) ∧
    (Operands.adjust body = none → t.takeAdjust place body = t.reply place .badValue .none) := by
  unfold State.takeAdjust
  refine ⟨fun sub amount fields => ?_, fun fields => ?_⟩
  · simp only [State.readOutsideRestart_some serving fields]
    rfl
  · simp only [State.readOutsideRestart_none serving fields]

/-- WRITE_SUB by its fields (R43). -/
theorem State.takeWriteSub_eq (place : Nat) (body : List Byte) :
    (∀ n fields, Operands.writeSub body = some (n, fields) → t.takeWriteSub place body = t.post n (.writeSub place fields .waiting)) ∧
    (Operands.writeSub body = none → t.takeWriteSub place body = t.reply place .badValue .none) := by
  unfold State.takeWriteSub
  refine ⟨fun n host fields => ?_, fun fields => ?_⟩
  · simp only [State.readOutsideRestart_some serving fields]
  · simp only [State.readOutsideRestart_none serving fields]

/-- REPAIR_SUB by its fields (R44). -/
theorem State.takeRepairSub_eq (place : Nat) (body : List Byte) :
    (∀ n fields balance, Operands.repairSub body = some (n, fields, balance) →
      t.takeRepairSub place body = t.post n (.repairSub place fields balance .waiting)) ∧
    (Operands.repairSub body = none → t.takeRepairSub place body = t.reply place .badValue .none) := by
  unfold State.takeRepairSub
  refine ⟨fun n host balance fields => ?_, fun fields => ?_⟩
  · simp only [State.readOutsideRestart_some serving fields]
  · simp only [State.readOutsideRestart_none serving fields]

end

/-! ### What stands before a request that arrives (R30) -/

namespace Cache

theorem sweepAhead_iff (c : Cache) (n : Nat) : c.sweepAhead n = true ↔
    ∃ place next last written, c.sweep = some (.records place next last written) ∧ next ≤ n ∧ n ≤ last := by
  have waits := waitsForSweep_iff c { sub := n, kind := .touch, behindSweep := true }
  rwa [waitsForSweep, Bool.true_and, and_iff_right rfl] at waits

/-- Nothing stands before a request of the subscriber that arrives: no request of it, no hold and no sweep (R30). -/
def Clear (c : Cache) (n : Nat) : Prop :=
  (∀ q ∈ c.queue ++ c.heldRequests, q.sub ≠ n) ∧ n ∉ c.holds ∧
    ¬∃ place next last written, c.sweep = some (.records place next last written) ∧ next ≤ n ∧ n ≤ last

theorem arrivesOn_eq_some_iff (c : Cache) (n way : Nat) : c.arrivesOn n = some way ↔ c.Clear n ∧ c.onChip n = some way := by
  have clear : (c.hasEarlier n || c.isHeld n || c.sweepAhead n) = false ↔ c.Clear n := by
    have earlier : c.hasEarlier n = false ↔ ∀ q ∈ c.queue ++ c.heldRequests, q.sub ≠ n := by
      simp [hasEarlier, or_imp, forall_and]
    rw [Clear, ← sweepAhead_iff, Bool.or_eq_false_iff, Bool.or_eq_false_iff, earlier, and_assoc, isHeld, Bool.not_eq_true,
      List.contains_eq_mem, decide_eq_false_iff_not]
  rw [← clear, arrivesOn]
  split
  · rename_i stands
    rw [stands]
    simp
  · rename_i free
    rw [Bool.eq_false_iff.2 free]
    simp

theorem arrivesOn_ne_none_iff (c : Cache) (n : Nat) : c.arrivesOn n ≠ none ↔ c.Clear n ∧ c.onChip n ≠ none := by
  simp only [Option.ne_none_iff_exists', arrivesOn_eq_some_iff, exists_and_left]

theorem holdsBack_iff (c : Cache) (r : Request) : c.holdsBack r = true ↔
    128 ≤ c.occupancy ∧ c.takesPlace r = true ∧ ∀ tag probe, r.kind ≠ .update (.placement tag probe) := by
  have placement : r.kind.isPlacement = false ↔ ∀ tag probe, r.kind ≠ .update (.placement tag probe) := by
    cases r.kind with
    | update u => cases u <;> simp [RequestKind.isPlacement]
    | _ => simp [RequestKind.isPlacement]
  have full : c.isFull = true ↔ 128 ≤ c.occupancy := decide_eq_true_iff
  rw [holdsBack, Bool.and_eq_true, Bool.and_eq_true, full, Bool.not_eq_true', placement, and_assoc]
  exact and_congr_right fun _ => and_comm

theorem request_eq {c : Cache} {r : Request} (behind : r.behindSweep = true ↔ c.sweepAhead r.sub = true) :
    c.request r.sub r.kind = r := by
  obtain ⟨sub, kind, b⟩ := r
  rw [← Bool.eq_iff_iff] at behind
  dsimp only at behind
  rw [behind, request]

theorem hasTouch_iff (c : Cache) (n : Nat) : c.hasTouch n = true ↔ ∃ q ∈ c.queue, q.sub = n ∧ q.kind = .touch := by
  simp [hasTouch]

/-- What a read that cannot wait leaves, by the room and by the touch that is there (R30, R32). -/
theorem leaveTouch_spec (c : Cache) (n : Nat) :
    (128 ≤ c.occupancy →
      c.leaveTouch n = { c with counts := { c.counts with droppedTouches := c.counts.droppedTouches + 1 } }) ∧
    (¬128 ≤ c.occupancy → (∃ q ∈ c.queue, q.sub = n ∧ q.kind = .touch) → c.leaveTouch n = c) ∧
    (¬128 ≤ c.occupancy → (¬∃ q ∈ c.queue, q.sub = n ∧ q.kind = .touch) → c.leaveTouch n = c.enqueue (c.request n .touch)) := by
  have full : c.isFull = true ↔ 128 ≤ c.occupancy := decide_eq_true_iff
  rw [← full, ← hasTouch_iff, leaveTouch]
  exact ⟨fun h => if_pos h, fun room there => (if_neg room).trans (if_pos there), fun room none => (if_neg room).trans (if_neg none)⟩

end Cache

/-! ### A request posted (R30) -/

section
variable {s : State} {n : Nat}

theorem RequestKind.servedAtOnce_iff (kind : RequestKind) :
    kind.servedAtOnce = true ↔ (∃ u, kind = .update u) ∨ ∃ e a k, kind = .reachRead e a k := by
  cases kind <;> simp [RequestKind.servedAtOnce]

theorem State.post_onLine {kind : RequestKind} {way : Nat} (atOnce : kind.servedAtOnce = true)
    (arrives : s.cache.admitted.arrivesOn n = some way) :
    s.post n kind = (s.withCache s.cache.admitted).serveOnLine kind n way := by
  simp only [State.post, atOnce, arrives]

theorem State.post_waits {kind : RequestKind} (waits : ¬(s.cache.admitted.arrivesOn n ≠ none ∧ kind.servedAtOnce = true)) :
    s.post n kind = if s.cache.admitted.holdsBack (s.cache.admitted.request n kind) then
        s.withCache { s.cache.admitted with
          heldRequests := s.cache.admitted.heldRequests ++ [s.cache.admitted.request n kind] }
      else s.withCache (s.cache.admitted.enqueue (s.cache.admitted.request n kind)) := by
  cases arrives : s.cache.admitted.arrivesOn n with
  | none => cases atOnce : kind.servedAtOnce <;> simp only [State.post, atOnce, arrives]
  | some way =>
    have later : kind.servedAtOnce = false := Bool.eq_false_iff.2 fun atOnce => waits ⟨by rw [arrives]; simp, atOnce⟩
    simp only [State.post, later]

theorem State.nonWaitingRead_served {way : Nat} (arrives : s.cache.admitted.arrivesOn n = some way) : s.nonWaitingRead n =
    (some ((s.cache.admitted.access s.charging.period n way).line n way).record,
      s.withCache (s.cache.admitted.access s.charging.period n way)) := by
  simp only [State.nonWaitingRead, arrives]

theorem State.nonWaitingRead_notReady (waits : s.cache.admitted.arrivesOn n = none) :
    s.nonWaitingRead n = (none, s.withCache (s.cache.admitted.leaveTouch n)) := by
  simp only [State.nonWaitingRead, waits]

end

/-! ### The admission of held requests (R30) -/

namespace Cache

theorem heldRequests_startMiss (c : Cache) (n : Nat) : (c.startMiss n).heldRequests = c.heldRequests := by
  unfold startMiss takeWay
  dsimp only
  repeat' split
  all_goals rfl

theorem heldRequests_tryMisses (c : Cache) : c.tryMisses.heldRequests = c.heldRequests := by
  rw [tryMisses_eq]
  generalize c.queue = l
  induction l generalizing c with
  | nil => rfl
  | cons r l ih =>
    rw [List.foldl_cons, ih, tryMiss]
    split
    · exact heldRequests_startMiss c r.sub
    · rfl

theorem heldRequests_enqueue (c : Cache) (r : Request) : (c.enqueue r).heldRequests = c.heldRequests := by
  unfold enqueue
  dsimp only
  split
  · exact heldRequests_tryMisses _
  · rfl

theorem admitted_rests {c : Cache} (h : c.heldRequests = [] ∨ 128 ≤ c.occupancy) : c.admitted = c := by
  rcases h with none | full
  · exact admitted_of_none c none
  · cases held : c.heldRequests with
    | nil => exact admitted_of_none c held
    | cons r rest =>
      have closed : c.isFull = true := decide_eq_true full
      simp only [admitted, held, List.length_cons, admitUpTo, closed, if_true]

theorem admitted_next {c : Cache} {r : Request} {rest : List Request} (held : c.heldRequests = r :: rest) (room : c.occupancy < 128) :
    c.admitted = (enqueue { c with heldRequests := rest } r).admitted := by
  have open_ : c.isFull = false := decide_eq_false (Nat.not_le.2 room)
  rw [admitted, admitted, heldRequests_enqueue, held, List.length_cons, admitUpTo]
  simp only [held, open_, Bool.false_eq_true, if_false]

/-! ### Places taken (R30) -/

/-- A request behind others would be served at once: in its turn it can be served, and so can every one of its subscriber before it,
in passing (R30, log 10). -/
def clearBehind (c : Cache) (before : List Request) (r : Request) : Bool :=
  c.canServe r && before.all (fun q => q.sub != r.sub || (c.canServe q && q.kind.servedInPassing))

/-- These subscribers are the ones whose later requests wait behind one of these requests (R30). -/
def Blocks (c : Cache) (blocked : List Nat) (before : List Request) : Prop :=
  ∀ n, n ∈ blocked ↔ ∃ q ∈ before, q.sub = n ∧ (c.canServe q && q.kind.servedInPassing) = false

variable {c : Cache} {blocked : List Nat} {before : List Request}

theorem clearBehind_iff (h : c.Blocks blocked before) (r : Request) :
    c.clearBehind before r = true ↔ c.canServe r = true ∧ r.sub ∉ blocked := by
  rw [clearBehind, Bool.and_eq_true, h, List.all_eq_true]
  refine and_congr_right fun _ => ?_
  simp only [not_exists, not_and, Bool.or_eq_true, bne_iff_ne, ne_eq, Bool.not_eq_false]
  exact forall₂_congr fun q _ => or_iff_not_imp_left.trans (by rw [not_not])

/-- One request more: it blocks its subscriber unless it is served in passing. -/
theorem Blocks.cons (h : c.Blocks blocked before) {r : Request} (stays : (c.canServe r && r.kind.servedInPassing) = false) :
    c.Blocks (r.sub :: blocked) (before ++ [r]) := by
  intro n
  rw [List.mem_cons, h]
  constructor
  · rintro (rfl | ⟨q, there, rest⟩)
    · exact ⟨r, by simp, rfl, stays⟩
    · exact ⟨q, List.mem_append_left _ there, rest⟩
  · rintro ⟨q, there, rest⟩
    rcases List.mem_append.1 there with there | there
    · exact .inr ⟨q, there, rest⟩
    · obtain rfl := List.mem_singleton.1 there
      exact .inl rest.1.symm

theorem Blocks.pass (h : c.Blocks blocked before) {r : Request}
    (passes : r.sub ∈ blocked ∨ (c.canServe r && r.kind.servedInPassing) = true) : c.Blocks blocked (before ++ [r]) := by
  intro n
  rw [h]
  refine ⟨fun ⟨q, there, rest⟩ => ⟨q, List.mem_append_left _ there, rest⟩, fun ⟨q, there, rest⟩ => ?_⟩
  rcases List.mem_append.1 there with there | there
  · exact ⟨q, there, rest⟩
  · obtain rfl := List.mem_singleton.1 there
    rcases passes with behind | passes
    · exact rest.1 ▸ (h q.sub).1 behind
    · exact absurd rest.2 (by rw [passes]; simp)

/-- A request takes a place unless it would be served at once, whatever stands behind it (R30). -/
theorem placesTaken_cons (h : c.Blocks blocked before) (r : Request) : ∃ blocked', c.Blocks blocked' (before ++ [r]) ∧
    ∀ rest, c.placesTaken blocked (r :: rest) = c.placesTaken blocked' rest + if c.clearBehind before r then 0 else 1 := by
  have clear := clearBehind_iff h r
  by_cases behind : r.sub ∈ blocked
  · have waits : ¬c.clearBehind before r = true := fun yes => (clear.1 yes).2 behind
    refine ⟨blocked, h.pass (.inl behind), fun rest => ?_⟩
    rw [placesTaken, if_pos (List.contains_iff_mem.2 behind), if_neg waits]
  · have unblocked : ¬blocked.contains r.sub = true := mt List.contains_iff_mem.1 behind
    by_cases now : c.canServe r = true
    · have served : c.clearBehind before r = true := clear.2 ⟨now, behind⟩
      refine ⟨if r.kind.servedInPassing then blocked else r.sub :: blocked, ?_, fun rest => ?_⟩
      · split
        · rename_i passing
          exact h.pass (.inr (by rw [now, passing, Bool.and_self]))
        · rename_i stays
          exact h.cons (by rw [Bool.eq_false_iff.2 stays, Bool.and_false])
      · rw [placesTaken, if_neg unblocked, if_pos now, if_pos served, Nat.add_zero]
    · have waits : ¬c.clearBehind before r = true := fun yes => now (clear.1 yes).1
      refine ⟨r.sub :: blocked, h.cons (by rw [Bool.eq_false_iff.2 now, Bool.false_and]), fun rest => ?_⟩
      rw [placesTaken, if_neg unblocked, if_neg now, if_neg waits]

/-- The places a list takes are one for each of its requests that would not be served at once (R30). -/
theorem placesTaken_eq (h : c.Blocks blocked before) (l : List Request) :
    c.placesTaken blocked l = (l.zipIdx.filter (fun p => !c.clearBehind (before ++ l.take p.2) p.1)).length := by
  induction l generalizing blocked before with
  | nil => rfl
  | cons r l ih =>
    obtain ⟨blocked', next, places⟩ := placesTaken_cons h r
    have shift : ∀ p : Request × Nat, before ++ (r :: l).take (p.2 + 1) = (before ++ [r]) ++ l.take p.2 := fun p => by simp
    rw [places, ih next, List.zipIdx_cons', List.filter_cons, List.filter_map, List.take_zero, List.append_nil]
    have tail : (fun p => !c.clearBehind (before ++ (r :: l).take p.2) p.1) ∘ Prod.map id (· + 1) =
        fun p : Request × Nat => !c.clearBehind ((before ++ [r]) ++ l.take p.2) p.1 := funext fun p => by
      rw [← shift p] <;> rfl
    rw [tail]
    cases c.clearBehind before r <;> simp

theorem placesTaken_append (h : c.Blocks blocked before) (l : List Request) (r : Request) :
    c.placesTaken blocked (l ++ [r]) = c.placesTaken blocked l + if c.clearBehind (before ++ l) r then 0 else 1 := by
  induction l generalizing blocked before with
  | nil =>
    obtain ⟨blocked', -, places⟩ := placesTaken_cons h r
    rw [List.nil_append, places, List.append_nil, placesTaken, placesTaken]
  | cons q l ih =>
    obtain ⟨blocked', next, places⟩ := placesTaken_cons h q
    rw [List.cons_append, places, places, ih next, List.append_assoc]
    exact Nat.add_right_comm _ _ _

theorem blocks_nil (c : Cache) : c.Blocks [] [] := fun n => by simp

theorem takesPlace_iff (c : Cache) (r : Request) :
    c.takesPlace r = true ↔ (∃ q ∈ c.heldRequests, q.sub = r.sub) ∨ c.clearBehind c.queue r = false := by
  rw [takesPlace, occupancy, placesTaken_append c.blocks_nil, Bool.or_eq_true, decide_eq_true_iff, List.nil_append]
  cases c.clearBehind c.queue r <;> simp

end Cache

/-- Settles O31: each order by its fields, a request posted by what it finds, and the places by the list before each request. -/
theorem recordOrdersPosted : Obligations.RecordOrdersPosted := by
  refine ⟨fun body => ?_, fun s t place body => ⟨fun taken serving => ?_, fun taken serving => ?_, fun taken => ?_,
    fun taken serving => ?_, fun taken serving => ?_⟩, fun s n kind => ?_,
    fun c => ⟨Cache.admitted_rests, fun r rest => Cache.admitted_next, fun n => ?_⟩, fun c => ?_⟩
  · refine ⟨Operands.subscriber_eq body 0, Operands.topUp_eq body, Operands.adjust_eq body, fun unfit => ?_,
      fun status account capability mode ⟨sub, listed⟩ hs ha hc hm => ?_⟩
    · have none := Operands.writeSub_none (fun ⟨sub, listed⟩ => unfit ⟨sub, (Operands.listed_drop body).1 listed⟩)
      exact ⟨none, by rw [Operands.repairSub_eq, none, Option.map_none]⟩
    · have host := HostFields.ofBytes_listed ((Operands.listed_drop body).2 listed) (by rwa [Bytes.field_drop])
        (by rwa [Bytes.field_drop]) (by rwa [Bytes.field_drop]) (by rwa [Bytes.field_drop])
      simp only [Bytes.field_drop] at host
      have read := Operands.writeSub_some sub host
      exact ⟨read, by rw [Operands.repairSub_eq, read, Option.map_some]⟩
  · obtain ⟨fits, wrong⟩ := State.takeTopUp_eq serving place body
    rw [execTopUp_taken taken]
    exact ⟨fun sub amount fields => by rw [fits sub amount fields], fun fields => by rw [wrong fields]⟩
  · obtain ⟨fits, wrong⟩ := State.takeAdjust_eq serving place body
    rw [execAdjust_taken taken]
    exact ⟨fun sub amount fields => by rw [fits sub amount fields], fun fields => by rw [wrong fields]⟩
  · obtain ⟨fits, wrong⟩ := t.takeReadSub_eq place body
    rw [execReadSub_taken taken]
    exact ⟨fun n fields => by rw [fits n fields], fun fields => by rw [wrong fields]⟩
  · obtain ⟨fits, wrong⟩ := State.takeWriteSub_eq serving place body
    rw [execWriteSub_taken taken]
    exact ⟨fun n host fields => by rw [fits n host fields], fun fields => by rw [wrong fields]⟩
  · obtain ⟨fits, wrong⟩ := State.takeRepairSub_eq serving place body
    rw [execRepairSub_taken taken]
    exact ⟨fun n host balance fields => by rw [fits n host balance fields], fun fields => by rw [wrong fields]⟩
  · intro c swept arrives full joined access found
    refine ⟨fun way free onChip => ?_, fun waits r own sort behind => ?_, fun waits => ?_⟩
    · have line := (Cache.arrivesOn_eq_some_iff c n way).2 ⟨free, onChip⟩
      refine ⟨fun u update => ?_, fun entry admission attempts read => ?_, State.nonWaitingRead_served line⟩
      · subst update
        rw [State.post_onLine rfl line] <;> rfl
      · subst read
        rw [State.post_onLine rfl line] <;> rfl
    · subst own sort
      have posted := State.post_waits (s := s) (n := r.sub) (kind := r.kind) (fun ⟨line, atOnce⟩ => by
        obtain ⟨free, onChip⟩ := (Cache.arrivesOn_ne_none_iff c r.sub).1 line
        exact waits ⟨free, onChip, (RequestKind.servedAtOnce_iff r.kind).1 atOnce⟩)
      rw [Cache.request_eq (behind.trans (c.sweepAhead_iff r.sub).symm)] at posted
      rw [posted]
      exact ⟨fun held => if_pos ((c.holdsBack_iff r).2 held), fun open_ => if_neg (mt (c.holdsBack_iff r).1 open_)⟩
    · have none : c.arrivesOn n = none := not_not.1 (mt (Cache.arrivesOn_ne_none_iff c n).1 waits)
      obtain ⟨dropped, there, left⟩ := c.leaveTouch_spec n
      intro touched m
      rw [State.nonWaitingRead_notReady none]
      refine ⟨fun closed => by rw [dropped closed] <;> rfl, fun room touch => by rw [there room touch] <;> rfl,
        fun room untouched r own sort behind => ?_⟩
      have same : c.request n .touch = r := by
        subst own
        rw [← sort, Cache.request_eq (behind.trans (c.sweepAhead_iff r.sub).symm)]
      rw [left room untouched, same] <;> rfl
  · rw [Cache.holdsOrder, Cache.holdsBack_iff]
    exact and_congr_right fun _ => and_iff_left (by simp [Cache.request])
  · intro host passing now clear
    have host_eq : ∀ r, host r = r.kind.isHostOrder := fun r => by
      cases kind : r.kind <;> simp only [host, kind, RequestKind.isHostOrder]
    have passing_eq : ∀ r, passing r = r.kind.servedInPassing := fun r => by
      cases kind : r.kind with
      | readSub place phase => cases phase <;> simp only [passing, kind, RequestKind.servedInPassing]
      | _ => simp only [passing, kind, RequestKind.servedInPassing]
    have clear_eq : clear = c.clearBehind := by
      funext before r
      simp only [clear, now, host_eq, passing_eq, Cache.clearBehind, Cache.canServe, Cache.isHeld]
    refine ⟨?_, fun r => ?_⟩
    · rw [clear_eq, Cache.occupancy, Cache.placesTaken_eq c.blocks_nil]
      simp only [List.nil_append]
    · rw [clear_eq]
      exact c.takesPlace_iff r

end Sys2Proof.Machine
end

section
/-! SUPPORT. What leaves the Air Timer and the part state alone (for O59). -/

namespace Sys2Proof.Machine

/-! ### Steady changes -/

/-- A change that leaves the Air Timer and the part state alone. -/
structure Steady (s t : State) : Prop where
  timer : t.timer = s.timer
  partState : t.link.partState = s.link.partState

theorem Progress.steady {s t : State} (h : Progress s t) : Steady s t := ⟨h.settled.timer, h.settled.partState⟩

theorem Quiet.steady {s t : State} (h : Quiet s t) : Steady s t := h.progress.steady

namespace Steady

theorem refl (s : State) : Steady s s := ⟨rfl, rfl⟩

theorem trans {s t u : State} (h : Steady s t) (k : Steady t u) : Steady s u :=
  ⟨k.timer.trans h.timer, k.partState.trans h.partState⟩

/-- A fold of steady changes is steady. -/
theorem foldl {α : Type} {f : State → α → State} (h : ∀ s a, Steady s (f s a)) (l : List α) (s : State) :
    Steady s (l.foldl f s) := by
  induction l generalizing s with
  | nil => exact refl s
  | cons a l ih => exact (h s a).trans (ih _)

variable (s : State)

theorem withPending (v : List Instr) : Steady s (s.withPending v) := ⟨rfl, rfl⟩
theorem withMem (v : List Host.Cell) : Steady s (s.withMem v) := ⟨rfl, rfl⟩
theorem withIntake (v : Intake) : Steady s (s.withIntake v) := ⟨rfl, rfl⟩
theorem withStore (v : Store) : Steady s (s.withStore v) := ⟨rfl, rfl⟩
theorem withCache (v : Cache) : Steady s (s.withCache v) := ⟨rfl, rfl⟩
theorem withAssembler (v : Assembler) : Steady s (s.withAssembler v) := ⟨rfl, rfl⟩
theorem withZoneLinks (v : ZoneLinks) : Steady s (s.withZoneLinks v) := ⟨rfl, rfl⟩
theorem withMonitor (v : Monitor) : Steady s (s.withMonitor v) := ⟨rfl, rfl⟩
theorem withRetry (v : Retry) : Steady s (s.withRetry v) := ⟨rfl, rfl⟩
theorem withCharging (v : Charging) : Steady s (s.withCharging v) := ⟨rfl, rfl⟩
theorem withLog (v : BillingLog) : Steady s (s.withLog v) := ⟨rfl, rfl⟩

variable {s}

theorem withLink {v : Link} (h : v.partState = s.link.partState) : Steady s (s.withLink v) := ⟨rfl, h⟩

/-- What follows of itself is steady. -/
theorem settled {t : State} (h : Steady s t) : Steady s t.settleDown := h.trans (State.settleDown_progress t).steady

theorem replied {t : State} (h : Steady s t) (place : Nat) (code : ReplyCode) (body : ReplyBody) :
    Steady s (t.reply place code body) := h.trans (State.reply_quiet place code body t).steady

theorem posted {t : State} (h : Steady s t) (n : Nat) (kind : RequestKind) : Steady s (t.post n kind) :=
  h.trans (State.post_quiet t n kind).steady

end Steady

/-! ### Orders and the record memory port -/

theorem State.takeOrder_steady {s t : State} {kind : OrderKind} {place : Nat} {body : List Byte}
    (h : s.takeOrder kind = some (place, body, t)) : Steady s t := by
  obtain ⟨before, o, after, -, -, -, -, -, -, rfl⟩ := State.takeOrder_spec.1 h
  exact Steady.withLink rfl

/-- An order answered at once is steady if its act is. -/
theorem State.answerOrder_steady (kind : OrderKind) {act : List Byte → State → Answer} (h : ∀ body t, Steady t (act body t).2.2)
    (s : State) : Steady s (s.answerOrder kind act) := by
  unfold State.answerOrder
  split
  · exact Steady.refl s
  · rename_i place body t taken
    exact ((State.takeOrder_steady taken).trans (h body t)).replied _ _ _

theorem outsideRestart_steady {act : List Byte → State → Answer} (h : ∀ body t, Steady t (act body t).2.2) (body : List Byte)
    (t : State) : Steady t (outsideRestart act body t).2.2 := by
  unfold outsideRestart
  split
  · exact Steady.refl t
  · exact h body t

theorem inConfig_steady {act : List Byte → State → Answer} (h : ∀ body t, Steady t (act body t).2.2) (body : List Byte)
    (t : State) : Steady t (inConfig act body t).2.2 := by
  unfold inConfig
  split
  · exact h body t
  · exact Steady.refl t

theorem withOperand_steady {α : Type} {read : List Byte → Option α} {act : α → State → Answer}
    (h : ∀ v t, Steady t (act v t).2.2) (body : List Byte) (t : State) : Steady t (withOperand read act body t).2.2 := by
  unfold withOperand
  split
  · exact Steady.refl t
  · exact h _ t

theorem State.completion_steady {s t : State} {op : PortOp} (h : s.completion = some (op, t)) : Steady s t := by
  obtain ⟨-, rest, mem, -, rfl⟩ := State.completion_eq_some.1 h
  exact ⟨rfl, rfl⟩

theorem State.writeRecord_steady (n : Nat) (r : Record) (s : State) : Steady s (s.writeRecord n r) := Steady.withMem s _

theorem State.sweepEnd_steady {s t : State} {place : Option Nat} {written : Nat} (h : s.sweepEnd = some (place, written, t)) :
    Steady s t := by
  unfold State.sweepEnd at h
  split at h
  · split at h
    · cases h
    · split at h
      · cases h
        exact Steady.withCache s _
      · split at h
        · rename_i completed
          split at h
          · cases h
            exact ((State.completion_steady completed).trans (State.writeRecord_steady _ _ _)).trans (Steady.withCache _ _)
          · cases h
        · cases h
      · cases h
  · cases h
  · cases h

/-! ### Zones -/

theorem State.changeZone_steady (z : Nat) (f : Zone → Zone) (s : State) : Steady s (s.changeZone z f) := Steady.withMonitor s _

theorem State.changeZoneLink_steady (z : Nat) (f : ZoneLink → ZoneLink) (s : State) : Steady s (s.changeZoneLink z f) :=
  Steady.withZoneLinks s _

theorem State.countZone_steady (z : Nat) (f : ZoneLinkCounts → ZoneLinkCounts) (s : State) : Steady s (s.countZone z f) :=
  State.changeZoneLink_steady z _ s

theorem State.record_steady (z : Nat) (c : Condition) (s : State) : Steady s (s.record z c) := by
  unfold State.record
  dsimp only
  split
  · exact (Steady.withMonitor s _).trans (State.notice_quiet _ _).steady
  · exact Steady.withMonitor s _

theorem State.occurrence_steady (z : Nat) (c : Condition) (s : State) : Steady s (s.occurrence z c) := by
  unfold State.occurrence
  split
  · exact Steady.refl s
  · dsimp only
    split
    · exact (State.changeZone_steady z _ s).trans (State.record_steady z c _)
    · exact State.changeZone_steady z _ s

theorem State.recordUntaken_steady (z : Nat) (s : State) : Steady s (s.recordUntaken z) := by
  unfold State.recordUntaken
  split
  · exact (State.changeZone_steady z _ s).trans (State.occurrence_steady z _ _)
  · exact Steady.refl s

theorem State.recordSilent_steady (z : Nat) (s : State) : Steady s (s.recordSilent z) := by
  unfold State.recordSilent
  split
  · exact (State.changeZone_steady z _ s).trans (State.occurrence_steady z _ _)
  · exact Steady.refl s

theorem State.recordDue_steady (z : Nat) (s : State) : Steady s (s.recordDue z) :=
  (State.recordUntaken_steady z s).trans (State.recordSilent_steady z _)

theorem State.recordAllDue_steady (s : State) : Steady s s.recordAllDue := Steady.foldl (fun s z => State.recordDue_steady z s) _ s

theorem State.badZoneFrame_steady (z : Nat) (kind : Operands.BadFrame) (s : State) : Steady s (s.badZoneFrame z kind) := by
  unfold State.badZoneFrame
  split
  · exact (State.countZone_steady z _ s).trans (State.occurrence_steady z _ _)
  · exact (State.countZone_steady z _ s).trans (State.occurrence_steady z _ _)
  · exact Steady.withZoneLinks s _

theorem State.takeItem_steady (z : Nat) (i : Operands.WindowItem) (s : State) : Steady s (s.takeItem z i) := by
  unfold State.takeItem
  split
  · exact State.countZone_steady z _ s
  · split
    · exact State.countZone_steady z _ s
    · split
      · exact (State.countZone_steady z _ s).trans (Steady.withZoneLinks _ _)
      · exact State.countZone_steady z _ s

theorem State.judgeOffer_steady (g : Word32) (z : Nat) (s : State) : Steady s (s.judgeOffer g z) := by
  unfold State.judgeOffer
  dsimp only
  split
  · split
    · exact (State.changeZoneLink_steady z _ s).trans (Steady.withMonitor _ _)
    · exact State.changeZoneLink_steady z _ s
  · exact Steady.refl s

/-! ### What a frame start sets going -/

theorem State.closeFrame_steady (f : Frame) (s : State) : Steady s (s.closeFrame f) := by
  unfold State.closeFrame
  exact ((Steady.foldl (fun s (p : Placed) => (State.changeEntry_quiet p.entry _ s).steady) f.placed s).trans
    (Steady.withZoneLinks _ _)).trans (Steady.withAssembler _ _)

theorem State.assembleFrame_steady (takenSet : ZoneSet) (coming : Option Word32) (relength : Bool) (s : State) :
    Steady s (s.assembleFrame takenSet coming relength) := by
  unfold State.assembleFrame
  have closed := (State.launchOffered_quiet s.timer.frameCount takenSet s).steady.trans
    (State.closeFrame_steady (s.launchOffered s.timer.frameCount takenSet).frameToClose _)
  dsimp only
  refine (closed.trans ?_).trans (State.openAndWalk_quiet _).steady
  split
  · exact Steady.refl _
  · split
    · exact ((State.expireQueued_quiet _ _).trans (State.refile_quiet _)).steady
    · exact (State.expireQueued_quiet _ _).steady

/-- Announcing a frame start touches neither the timer nor the part state (R53). -/
theorem State.announce_steady (coming : Option Word32) (relength : Bool) (s : State) : Steady s (s.announce coming relength) := by
  unfold State.announce
  have judged : Steady s (s.judgeOffers s.timer.frameCount) := Steady.foldl (fun s z => State.judgeOffer_steady _ z s) _ s
  have counted := judged.trans (Steady.withMonitor _ (s.judgeOffers s.timer.frameCount).monitor.countAllSilence)
  have assembled := counted.trans
    (State.assembleFrame_steady (s.zoneLinks.takenSet s.timer.frameCount) coming relength _)
  dsimp only
  refine (assembled.trans ?_).trans (State.announceFrame_quiet _ _ _).steady
  split
  · exact Steady.refl _
  · exact ((State.expireHeld_quiet _ _).trans (State.announceTurn_quiet _ _)).steady

theorem State.finishLastFrame_steady (s : State) : Steady s s.finishLastFrame :=
  (State.recordAllDue_steady s).trans (State.takeAnnounced_quiet _).steady

theorem State.withdrawOffered_steady (s : State) : Steady s s.withdrawOffered := by
  unfold State.withdrawOffered
  dsimp only
  split
  · exact Steady.withZoneLinks s _
  · exact ((Steady.withZoneLinks s _).trans (Steady.withAssembler _ _)).trans
      (Quiet.foldl (fun s p => State.voidAttempt_quiet s _) _ _).steady

theorem State.cancelAssembly_steady (s : State) : Steady s s.cancelAssembly := by
  unfold State.cancelAssembly
  dsimp only
  exact ((Quiet.foldl (fun s n => State.settle_quiet s n _ _) _ s).steady.trans (Steady.withZoneLinks _ _)).trans
    (Steady.withAssembler _ _)

end Sys2Proof.Machine
end

section
/-! SUPPORT. The commands that leave the Air Timer and the part state alone (for O59). -/

namespace Sys2Proof.Machine

/-- What a command answers leaves the Air Timer and the part state alone. -/
def Result.Steady (s : State) (r : Result) : Prop := ∀ t, r = .next t → Machine.Steady s t

theorem Result.steady_next {s t : State} (h : Machine.Steady s t) : Result.Steady s (.next t) := by
  rintro _ ⟨⟩
  exact h

theorem Result.steady_fault (s : State) (f : Fault) : Result.Steady s (.fault f) := by rintro _ ⟨⟩

theorem Result.steady_refused (s : State) (r : Refusal) : Result.Steady s (.refused r) := by rintro _ ⟨⟩

/-- A command that does nothing where no order of its kind can be taken. -/
theorem Result.steady_taken {s : State} {kind : OrderKind} {f : Nat → List Byte → State → State}
    (h : ∀ place body t, Machine.Steady t (f place body t)) :
    Result.Steady s (.next (match s.takeOrder kind with
      | none => s
      | some (place, body, taken) => f place body taken)) := by
  refine Result.steady_next ?_
  split
  · exact Machine.Steady.refl s
  · rename_i taken
    exact (State.takeOrder_steady taken).trans (h _ _ _)

/-- A command that no line can bring is refused. -/
theorem Result.steady_guarded {s t : State} {p : Prop} [Decidable p] (h : Machine.Steady s t) :
    Result.Steady s (if p then .next t else .refused .noSuchEvent) := by
  split
  · exact Result.steady_next h
  · exact Result.steady_refused s _

/-- A command that acts only where its event can occur. -/
theorem Result.steady_where {s t : State} {p : Prop} [Decidable p] (h : Machine.Steady s t) :
    Result.Steady s (.next (if p then t else s)) := by
  refine Result.steady_next ?_
  split
  · exact h
  · exact Machine.Steady.refl s

/-- The completion of a port operation on a record, faulting outside record memory. -/
theorem Result.steady_completed {s u t : State} {op : PortOp} {n : Nat} (h : s.completion = some (op, u)) (k : Machine.Steady u t) :
    Result.Steady s (if n < Config.subscribers then .next t else .fault (.noSuchRecord n)) := by
  split
  · exact Result.steady_next ((State.completion_steady h).trans k)
  · exact Result.steady_fault s _

/-! ### Intake and Message Store -/

theorem State.takeSubmit_steady (place : Nat) (body : List Byte) (s : State) : Steady s (s.takeSubmit place body) := by
  unfold State.takeSubmit
  split
  · exact (Steady.refl s).replied _ _ _
  · exact (Steady.withIntake s _).posted _ _

theorem execSubmit_steady (s : State) : Result.Steady s (execSubmit s) :=
  Result.steady_taken fun place body t => (State.takeSubmit_steady place body t).settled

theorem execIntakeReadServed_steady (s : State) : Result.Steady s (execIntakeReadServed s) := by
  unfold execIntakeReadServed
  refine Result.steady_next ?_
  split
  · exact ((State.serveHolding_quiet s _ _).progress.trans (State.completeSubmit_progress _ _ _ _ _)).steady.settled
  · exact Steady.refl s

theorem State.takeSubmitGroup_steady (place : Nat) (body : List Byte) (s : State) : Steady s (s.takeSubmitGroup place body) := by
  unfold State.takeSubmitGroup
  split
  · exact (Steady.refl s).replied _ _ _
  · dsimp only
    split
    · exact (Steady.refl s).replied _ _ _
    · exact (Steady.withStore s _).trans (State.nextMember_quiet _ _).steady

theorem execSubmitGroup_steady (s : State) : Result.Steady s (execSubmitGroup s) :=
  Result.steady_taken fun place body t => (State.takeSubmitGroup_steady place body t).settled

theorem execGroupMemberReadServed_steady (s : State) : Result.Steady s (execGroupMemberReadServed s) := by
  unfold execGroupMemberReadServed
  refine Result.steady_next ?_
  split
  · exact ((State.serveHolding_quiet s _ _).progress.trans (State.completeMember_progress _ _ _ _)).steady.settled
  · exact Steady.refl s

theorem State.takeCancel_steady (place : Nat) (body : List Byte) (s : State) : Steady s (s.takeCancel place body) := by
  unfold State.takeCancel
  split
  · exact (Steady.refl s).replied _ _ _
  · exact Steady.withIntake s _

theorem execCancel_steady (s : State) : Result.Steady s (execCancel s) := Result.steady_taken State.takeCancel_steady

theorem execCancelRequest_steady (s : State) : Result.Steady s (execCancelRequest s) := by
  unfold execCancelRequest
  refine Result.steady_next ?_
  split
  · split
    · exact Steady.refl s
    · exact (State.takeCancelRequest_quiet s _ _ _).steady.settled
  all_goals exact Steady.refl s

theorem setAdmissionAct_steady (v : Nat × Bool) (s : State) : Steady s (setAdmissionAct v s).2.2 :=
  ((Steady.withIntake s _).trans (State.releaseHeld_quiet _ _).steady).settled

theorem groupSetAct_steady (p : Operands.GroupPiece) (s : State) : Steady s (groupSetAct p s).2.2 := by
  unfold groupSetAct pieceTaken
  dsimp only
  split
  · exact Steady.refl s
  · split
    · split
      · exact Steady.refl s
      · exact Steady.withStore s _
    · split
      · exact Steady.refl s
      · split
        · exact Steady.withStore s _
        · exact Steady.refl s

/-! ### Record Cache -/

theorem State.takeReadSub_steady (place : Nat) (body : List Byte) (s : State) : Steady s (s.takeReadSub place body) := by
  unfold State.takeReadSub
  split
  · exact (Steady.refl s).replied _ _ _
  · exact (Steady.refl s).posted _ _

theorem execReadSub_steady (s : State) : Result.Steady s (execReadSub s) :=
  Result.steady_taken fun place body t => (State.takeReadSub_steady place body t).settled

theorem State.serveReadSub_steady (place n : Nat) (s : State) : Steady s (s.serveReadSub place n) := by
  unfold State.serveReadSub
  split
  · exact (Steady.withCache s _).trans (State.answerFromLine_quiet _ _ _ _).steady
  · split
    · exact Steady.withCache s _
    · exact Steady.withCache s _

theorem execReadSubServed_steady (n : Nat) (s : State) : Result.Steady s (execReadSubServed n s) := by
  refine Result.steady_guarded ?_
  split
  · exact Steady.refl s
  · exact (State.serveReadSub_steady _ n s).settled

theorem State.failHostRead_steady (place n : Nat) (source : FaultSource) (s : State) : Steady s (s.failHostRead place n source) :=
  (((State.reply_quiet _ _ _ s).trans (State.countCache_quiet _ _)).trans (State.noteFault_quiet _ _ _)).steady

theorem State.endHostRead_steady (place n : Nat) (s : State) : Steady s (s.endHostRead place n) := by
  unfold State.endHostRead
  dsimp only
  split
  · exact (Steady.withCache s _).replied _ _ _
  · exact (Steady.withCache s _).trans (State.failHostRead_steady _ _ _ _)

theorem execHostReadDone_steady (s : State) : Result.Steady s (execHostReadDone s) := by
  unfold execHostReadDone
  split
  · rename_i n rest completed
    refine Result.steady_completed completed ?_
    split
    · exact (State.endHostRead_steady _ n rest).settled
    · exact Steady.refl rest
  · exact Result.steady_next (Steady.refl s)

theorem State.takeWriteSub_steady (place : Nat) (body : List Byte) (s : State) : Steady s (s.takeWriteSub place body) := by
  unfold State.takeWriteSub
  split
  · exact (Steady.refl s).replied _ _ _
  · exact (Steady.refl s).posted _ _

theorem execWriteSub_steady (s : State) : Result.Steady s (execWriteSub s) :=
  Result.steady_taken fun place body t => (State.takeWriteSub_steady place body t).settled

theorem State.endWriteRead_steady (place n : Nat) (fields : HostFields) (s : State) : Steady s (s.endWriteRead place n fields) := by
  unfold State.endWriteRead
  split
  · exact Steady.withCache s _
  · exact (Steady.withCache s _).trans (State.failHostRead_steady _ _ _ _)

theorem execWriteSubReadDone_steady (s : State) : Result.Steady s (execWriteSubReadDone s) := by
  unfold execWriteSubReadDone
  split
  · rename_i n rest completed
    refine Result.steady_completed completed ?_
    split
    · exact (State.endWriteRead_steady _ n _ rest).settled
    · exact Steady.refl rest
  · exact Result.steady_next (Steady.refl s)

theorem State.takeRepairSub_steady (place : Nat) (body : List Byte) (s : State) : Steady s (s.takeRepairSub place body) := by
  unfold State.takeRepairSub
  split
  · exact (Steady.refl s).replied _ _ _
  · exact (Steady.refl s).posted _ _

theorem execRepairSub_steady (s : State) : Result.Steady s (execRepairSub s) :=
  Result.steady_taken fun place body t => (State.takeRepairSub_steady place body t).settled

theorem State.endHostWrite_steady (n : Nat) (r : Record) (s : State) : Steady s (s.endHostWrite n r) := by
  have written := State.writeRecord_steady n r s
  unfold State.endHostWrite
  dsimp only
  split
  · exact (written.trans (Steady.withCache _ _)).replied _ _ _
  · exact (written.trans (Steady.withCache _ _)).replied _ _ _
  · exact written

theorem execHostWriteDone_steady (s : State) : Result.Steady s (execHostWriteDone s) := by
  unfold execHostWriteDone
  split
  · rename_i n r rest completed
    exact Result.steady_completed completed (State.endHostWrite_steady n r rest).settled
  · exact Result.steady_next (Steady.refl s)

theorem State.takeInitRecords_steady (place : Nat) (body : List Byte) (s : State) : Steady s (s.takeInitRecords place body) := by
  unfold State.takeInitRecords
  split
  · exact (Steady.refl s).replied _ _ _
  · split
    · exact (Steady.refl s).replied _ _ _
    · split
      · exact (Steady.refl s).replied _ _ _
      · exact Steady.withCache s _

theorem execInitRecords_steady (s : State) : Result.Steady s (execInitRecords s) := Result.steady_taken State.takeInitRecords_steady

theorem execInitRecordWrite_steady (s : State) : Result.Steady s (execInitRecordWrite s) := by
  unfold execInitRecordWrite
  refine Result.steady_next ?_
  split
  · split
    · exact (Steady.withCache s _).settled
    · exact Steady.refl s
  all_goals exact Steady.refl s

theorem execInitRecordsDone_steady (s : State) : Result.Steady s (execInitRecordsDone s) := by
  unfold execInitRecordsDone
  split
  · rename_i n r rest completed
    have written := State.writeRecord_steady n r rest
    refine Result.steady_completed completed ?_
    split
    · exact ((written.trans (Steady.withCache _ _)).replied _ _ _).settled
    · exact written
    · exact written
  · exact Result.steady_next (Steady.refl s)

theorem flushTake_steady (place : Nat) (s : State) : Steady s (flushTake place s) := by
  unfold flushTake
  split
  · exact (Steady.refl s).replied _ _ _
  · split
    · exact (Steady.refl s).replied _ _ _
    · exact Steady.withCache s _

theorem execFlush_steady (s : State) : Result.Steady s (execFlush s) :=
  Result.steady_taken fun place _ t => flushTake_steady place t

theorem execFlushVisit_steady (s : State) : Result.Steady s (execFlushVisit s) := by
  unfold execFlushVisit
  refine Result.steady_next ?_
  split
  · split
    · exact (Steady.withCache s _).settled
    · exact Steady.refl s
  all_goals exact Steady.refl s

theorem execFlushDone_steady (s : State) : Result.Steady s (execFlushDone s) := by
  unfold execFlushDone
  refine Result.steady_next ?_
  split
  · rename_i ended
    exact ((State.sweepEnd_steady ended).replied _ _ _).settled
  all_goals exact Steady.refl s

theorem State.endFillRead_steady (n way : Nat) (s : State) : Steady s (s.endFillRead n way) := by
  unfold State.endFillRead
  dsimp only
  split
  · exact (Steady.withCache s _).trans (Steady.withCache _ _)
  · exact (Steady.withCache s _).trans (State.failFill_progress _ n way).steady

theorem execFillDone_steady (s : State) : Result.Steady s (execFillDone s) := by
  unfold execFillDone
  split
  · rename_i n way rest completed
    exact Result.steady_completed completed (State.endFillRead_steady n way rest).settled
  · exact Result.steady_next (Steady.refl s)

theorem execCastoutDone_steady (s : State) : Result.Steady s (execCastoutDone s) := by
  unfold execCastoutDone
  split
  · rename_i completed
    exact Result.steady_completed completed (State.writeRecord_steady _ _ _)
  · exact Result.steady_next (Steady.refl s)

theorem execWriteBackDone_steady (s : State) : Result.Steady s (execWriteBackDone s) := by
  unfold execWriteBackDone
  split
  · rename_i n r bySweep rest completed
    split
    · refine Result.steady_next ?_
      split
      · exact Steady.refl s
      · exact ((State.completion_steady completed).trans
          ((State.writeRecord_steady n r rest).trans (Steady.withCache _ _))).settled
    · exact Result.steady_fault s _
  · exact Result.steady_next (Steady.refl s)

theorem execThroughWriteDone_steady (s : State) : Result.Steady s (execThroughWriteDone s) := by
  unfold execThroughWriteDone
  split
  · rename_i completed
    exact Result.steady_completed completed (State.writeRecord_steady _ _ _)
  · exact Result.steady_next (Steady.refl s)

/-! ### Zone frames and derived occurrences -/

theorem execTaken_steady (link : Nat) (body : List Byte) (s : State) : Result.Steady s (execTaken link body s) := by
  refine Result.steady_guarded ?_
  split
  · exact State.badZoneFrame_steady _ _ s
  · exact State.changeZoneLink_steady _ _ s

theorem execReject_steady (link : Nat) (body : List Byte) (s : State) : Result.Steady s (execReject link body s) := by
  refine Result.steady_guarded ?_
  split
  · exact State.badZoneFrame_steady _ _ s
  · exact (State.changeZoneLink_steady _ _ s).trans (State.occurrence_steady _ _ _)

theorem State.takeReference_steady (link : Nat) (reference : ReferenceState) (s : State) :
    Steady s (s.takeReference link reference) := by
  unfold State.takeReference
  dsimp only
  split
  · exact (State.changeZoneLink_steady _ _ s).trans (State.occurrence_steady _ _ _)
  · exact State.changeZoneLink_steady _ _ s

theorem execStateReport_steady (link : Nat) (body : List Byte) (s : State) : Result.Steady s (execStateReport link body s) := by
  refine Result.steady_guarded ?_
  split
  · exact State.badZoneFrame_steady _ _ s
  · split
    · exact State.takeReference_steady _ _ s
    · exact State.countZone_steady _ _ s

theorem State.takeReport_steady (link : Nat) (windowCount : Word32) (items : List Operands.WindowItem) (s : State) :
    Steady s (s.takeReport link windowCount items) :=
  (((State.recordSilent_steady link s).trans (State.changeZone_steady link _ _)).trans (State.changeZoneLink_steady link _ _)).trans
    (Steady.foldl (fun s i => State.takeItem_steady link i s) items _)

theorem execWindow_steady (link : Nat) (body : List Byte) (s : State) : Result.Steady s (execWindow link body s) := by
  refine Result.steady_guarded ?_
  split
  · exact State.badZoneFrame_steady _ _ s
  · split
    · exact State.takeReport_steady _ _ _ s
    · exact State.countZone_steady _ _ s

theorem execZoneBadFrame_steady (link : Nat) (frame : ZoneFrameIn) (s : State) : Result.Steady s (execZoneBadFrame link frame s) := by
  refine Result.steady_guarded ?_
  split
  · exact Steady.refl s
  · exact State.badZoneFrame_steady _ _ s

/-! ### Retry Unit -/

theorem State.nextItem_steady {kind : ItemKind} {s t : State} {i : ReverseItem} (h : s.nextItem kind = some (i, t)) : Steady s t := by
  unfold State.nextItem at h
  split at h
  · cases h
  · split at h
    · cases h
      exact (Steady.withZoneLinks s _).trans (Steady.withRetry _ _)
    · cases h

theorem execAck_steady (s : State) : Result.Steady s (execAck s) := by
  unfold execAck
  refine Result.steady_next ?_
  split
  · exact Steady.refl s
  · rename_i next
    exact (((State.nextItem_steady next).posted _ _).trans (State.matchAck_quiet _ _).steady).settled

theorem execRegister_steady (s : State) : Result.Steady s (execRegister s) := by
  unfold execRegister
  refine Result.steady_next ?_
  split
  · exact Steady.refl s
  · rename_i next
    exact (((State.nextItem_steady next).posted _ _).trans (State.registerItem_quiet _ _).steady).settled

theorem execDeadlineMiss_steady (s : State) : Result.Steady s (execDeadlineMiss s) := by
  unfold execDeadlineMiss
  refine Result.steady_next ?_
  split
  · exact Steady.refl s
  · exact (State.takeAnnounced_quiet s).steady.settled

theorem execReachReadAnswer_steady (s : State) : Result.Steady s (execReachReadAnswer s) := by
  unfold execReachReadAnswer
  refine Result.steady_next ?_
  split
  · exact Steady.refl s
  · split
    · exact Steady.refl s
    · exact ((Steady.withRetry s _).trans (State.takeAnswer_quiet _ _).steady).settled

/-! ### Charging and Billing Log -/

theorem planSetAct_steady (v : Nat × Plan) (s : State) : Steady s (planSetAct v s).2.2 := by
  unfold planSetAct
  split <;> exact Steady.withCharging s _

theorem closePeriodAct_steady (body : List Byte) (s : State) : Steady s (closePeriodAct body s).2.2 := by
  unfold closePeriodAct
  split
  · exact Steady.refl s
  · exact Steady.withCharging s _

theorem State.takeTopUp_steady (place : Nat) (body : List Byte) (s : State) : Steady s (s.takeTopUp place body) := by
  unfold State.takeTopUp
  split
  · exact (Steady.refl s).replied _ _ _
  · exact (Steady.withCharging s _).posted _ _

theorem execTopUp_steady (s : State) : Result.Steady s (execTopUp s) :=
  Result.steady_taken fun place body t => (State.takeTopUp_steady place body t).settled

theorem execTopUpReadServed_steady (s : State) : Result.Steady s (execTopUpReadServed s) := by
  unfold execTopUpReadServed
  refine Result.steady_next ?_
  split
  · exact ((((State.serveHolding_quiet s _ _).trans (State.closingUpdate_quiet _ _ _ _)).steady.trans
      (Steady.withCharging _ _)).replied _ _ _).settled
  · exact Steady.refl s

theorem State.takeAdjust_steady (place : Nat) (body : List Byte) (s : State) : Steady s (s.takeAdjust place body) := by
  unfold State.takeAdjust
  split
  · exact (Steady.refl s).replied _ _ _
  · exact (Steady.withCharging s _).posted _ _

theorem execAdjust_steady (s : State) : Result.Steady s (execAdjust s) :=
  Result.steady_taken fun place body t => (State.takeAdjust_steady place body t).settled

theorem State.completeAdjust_steady (place sub way : Nat) (amount : Int) (s : State) :
    Steady s (s.completeAdjust place sub way amount) := by
  unfold State.completeAdjust
  dsimp only
  split
  · exact ((State.release_quiet s sub).steady.trans (Steady.withCharging _ _)).replied _ _ _
  · exact ((State.closingUpdate_quiet s sub way _).steady.trans (Steady.withCharging _ _)).replied _ _ _

theorem execAdjustReadServed_steady (s : State) : Result.Steady s (execAdjustReadServed s) := by
  unfold execAdjustReadServed
  refine Result.steady_next ?_
  split
  · exact ((State.serveHolding_quiet s _ _).steady.trans (State.completeAdjust_steady _ _ _ _ _)).settled
  · exact Steady.refl s

theorem execSettlement_steady (s : State) : Result.Steady s (execSettlement s) := by
  unfold execSettlement
  refine Result.steady_next ?_
  split
  · exact ((State.serveHolding_quiet s _ _).progress.trans (State.settleServed_progress _ _ _)).steady.settled
  · exact Steady.refl s

theorem collectAct_steady (body : List Byte) (s : State) : Steady s (collectAct body s).2.2 := by
  unfold collectAct
  dsimp only
  split <;> exact Steady.withLog s _

theorem execCollect_steady (s : State) : Result.Steady s (execCollect s) :=
  Result.steady_taken fun _ body t => ((collectAct_steady body t).replied _ _ _).settled

/-! ### Zone orders -/

theorem setZoneAct_steady (v : Nat × Bool × ZoneSet) (s : State) : Steady s (setZoneAct v s).2.2 := by
  have recorded : Steady s (s.beforeSetZone v.1 v.2.1) := by
    unfold State.beforeSetZone
    split
    · exact State.recordDue_steady _ s
    · exact Steady.refl s
  exact recorded.trans (Steady.withMonitor _ _)

theorem zoneRestoreAct_steady (z : Nat) (s : State) : Steady s (zoneRestoreAct z s).2.2 := by
  unfold zoneRestoreAct
  dsimp only
  split
  · exact Steady.refl s
  · exact Steady.refl s
  · split
    · exact Steady.refl s
    · exact Steady.withMonitor s _

/-! ### The host link -/

theorem Link.startSending_partState (l : Link) : l.startSending.partState = l.partState := (Link.startSending_quiet l).partState

theorem Link.refuse_partState (l : Link) (kind tag : Byte) (code : ReplyCode) : (l.refuse kind tag code).partState = l.partState := by
  unfold Link.refuse
  split
  · rfl
  · exact Link.startSending_partState _

theorem Link.sent_partState (l : Link) : l.sent.partState = l.partState := by
  unfold Link.sent
  split
  · rfl
  · exact Link.startSending_partState _
  · exact Link.startSending_partState _

theorem State.discard_steady (f : LinkCounts → LinkCounts) (s : State) : Steady s (s.withLink (s.link.discard f)) :=
  Steady.withLink rfl

theorem State.takeFrame_steady (kind tag : Byte) (body : List Byte) (s : State) : Steady s (s.takeFrame kind tag body) := by
  unfold State.takeFrame
  split
  · exact (Steady.withLink (v := s.link.accept _ tag body) rfl).trans (State.setPlaces_quiet _).steady
  · exact Steady.withLink (Link.refuse_partState _ _ _ _)
  · exact Steady.refl s

theorem execHostFrame_steady (kind tag : Byte) (body : List Byte) (check : Word16) (s : State) :
    Result.Steady s (execHostFrame kind tag body check s) := by
  refine Result.steady_guarded ?_
  split
  · exact Steady.refl s
  · unfold State.receive
    split
    · exact (State.discard_steady _ s).trans (State.takeFrame_steady _ _ _ _)
    · exact State.discard_steady _ s

theorem State.warnHigh_steady (s : State) : Steady s s.warnHigh := (State.notice_quiet _ s).steady.trans (Steady.withLog _ _)

theorem execLinkReset_steady (s : State) : Result.Steady s (execLinkReset s) := by
  unfold execLinkReset State.logReset
  refine Result.steady_next ?_
  have reset : Steady s ((s.withLink s.link.reset).withLog { s.log with lastReturned := 0 }) := ⟨rfl, rfl⟩
  split
  · exact Steady.refl s
  · dsimp only
    split
    · exact reset.trans (State.warnHigh_steady _)
    · exact reset

theorem execFrameSent_steady (s : State) : Result.Steady s (execFrameSent s) := by
  have sent : Steady s (s.withLink s.link.sent) := Steady.withLink (Link.sent_partState _)
  unfold execFrameSent
  refine Result.steady_next ?_
  split
  · exact sent.trans (State.setPlaces_quiet _).steady
  · exact sent

theorem execHostLengthDiscard_steady (length : Word16) (s : State) : Result.Steady s (execHostLengthDiscard length s) := by
  refine Result.steady_guarded ?_
  split
  · exact State.discard_steady _ s
  · exact Steady.refl s

end Sys2Proof.Machine
end

section
/-! SUPPORT. The laws of the Air Timer, the events that change the part state, and every step (O59). -/

namespace Sys2Proof.Machine

/-! ### The laws of the timer itself (R52, R54, R57, R62) -/

/-- What the Air Timer's laws say of the timer, whatever the part state. -/
structure Timer.Legal (t : Timer) : Prop where
  running : t.running.legal
  coming : ∀ c, t.coming = some c → c.legal
  staged : t.staged.legal
  lengthInForce : 8 ≤ t.lengthInForce ∧ t.lengthInForce ≤ 128
  frameNumber : t.frameNumber < t.running.length

theorem State.timerLegal_iff (s : State) : s.timerLegal ↔ s.timer.Legal ∧
    (s.link.partState ≠ .running → s.timer.state = .stopped ∧ s.timer.frameNumber = 0) := by
  constructor
  · rintro ⟨running, coming, staged, low, high, frameNumber, idle⟩
    exact ⟨⟨running, coming, staged, ⟨low, high⟩, frameNumber⟩, idle⟩
  · rintro ⟨⟨running, coming, staged, ⟨low, high⟩, frameNumber⟩, idle⟩
    exact ⟨running, coming, staged, low, high, frameNumber, idle⟩

theorem Timing.legal.length_pos {t : Timing} (h : t.legal) : 0 < t.length := Nat.lt_of_lt_of_le (by decide) h.1

/-- What holds of a value where there is one, and of its default, holds of the value or its default. -/
theorem Option.getD_of_forall {α : Type} {P : α → Prop} {o : Option α} {d : α} (h : ∀ a, o = some a → P a)
    (k : P d) : P (o.getD d) := by
  cases o with
  | none => exact k
  | some a => exact h a rfl

/-- Staged values in range over settings in range are in range. -/
theorem Staged.over_legal {g : Staged} {t : Timing} (hg : g.legal) (ht : t.legal) : (g.over t).legal := by
  obtain ⟨length, ackDelay, source⟩ := hg
  obtain ⟨low, high, short, long, fast, slow⟩ := ht
  have l := Option.getD_of_forall (P := fun n => 8 ≤ n ∧ n ≤ 128) length ⟨low, high⟩
  have a := Option.getD_of_forall (P := fun n => 1 ≤ n ∧ n ≤ 4) ackDelay ⟨short, long⟩
  have n := Option.getD_of_forall (P := fun x : Source => 100 ≤ x.nominal ∧ x.nominal ≤ 5000) source ⟨fast, slow⟩
  exact ⟨l.1, l.2, a.1, a.2, n.1, n.2⟩

theorem Staged.legal_empty : ({} : Staged).legal := ⟨by rintro _ ⟨⟩, by rintro _ ⟨⟩, by rintro _ ⟨⟩⟩

namespace Timer.Legal

variable {t : Timer}

/-- At a wrap the coming settings become the running ones, and the frame number is below their length (R52). -/
theorem advance (h : t.Legal) : t.advance.Legal := by
  unfold Timer.advance
  split
  · rename_i below
    exact { h with frameNumber := below }
  · have running : (t.coming.getD t.running).legal := Option.getD_of_forall h.coming h.running
    exact { running, coming := by rintro _ ⟨⟩, staged := h.staged, lengthInForce := h.lengthInForce, frameNumber := running.length_pos }

theorem turn (h : t.Legal) : t.turn.Legal := by
  have fixed := Staged.over_legal h.staged h.running
  refine { running := h.running, coming := ?_, staged := Staged.legal_empty, lengthInForce := ⟨fixed.1, fixed.2.1⟩,
           frameNumber := h.frameNumber }
  rintro c ⟨⟩
  exact fixed

theorem nextFrame (h : t.Legal) : t.nextFrame.Legal := by
  unfold Timer.nextFrame
  split
  · exact h.advance.turn
  · exact h.advance

theorem withState (h : t.Legal) (state : TimerState) : ({ t with state } : Timer).Legal :=
  ⟨h.running, h.coming, h.staged, h.lengthInForce, h.frameNumber⟩

theorem hold (h : t.Legal) : t.hold.Legal := ⟨h.running, h.coming, h.staged, h.lengthInForce, h.frameNumber⟩

theorem start (h : t.Legal) : t.start.Legal :=
  { running := h.running, coming := by rintro _ ⟨⟩, staged := h.staged, lengthInForce := ⟨h.running.1, h.running.2.1⟩,
    frameNumber := h.running.length_pos }

theorem stop (h : t.Legal) : t.stop.Legal := by
  have running := Staged.over_legal h.staged (Option.getD_of_forall h.coming h.running)
  exact { running, coming := by rintro _ ⟨⟩, staged := Staged.legal_empty, lengthInForce := ⟨running.1, running.2.1⟩,
          frameNumber := running.length_pos }

/-- A SET_TIMING applied at once, the timer being stopped at frame number 0 (R57). -/
theorem apply (h : t.Legal) {g : Staged} (hg : g.legal) (first : t.frameNumber = 0) : (t.apply g).Legal := by
  have running := Staged.over_legal hg h.running
  refine { running, coming := h.coming, staged := h.staged, lengthInForce := ?_, frameNumber := ?_ }
  · exact Option.getD_of_forall hg.1 h.lengthInForce
  · show t.frameNumber < (g.over t.running).length
    rw [first]
    exact running.length_pos

/-- A SET_TIMING staged (R58). -/
theorem stage (h : t.Legal) {g : Staged} (hg : g.legal) : ({ t with staged := t.staged.stage g } : Timer).Legal := by
  have either : ∀ {α : Type} {P : α → Prop} {o d : Option α}, (∀ a, o = some a → P a) → (∀ a, d = some a → P a) →
      ∀ a, o.or d = some a → P a := by
    intro α P o d ho hd
    cases o with
    | none => exact hd
    | some b => exact ho
  exact { h with staged := ⟨either hg.1 h.staged.1, either hg.2.1 h.staged.2.1, either hg.2.2 h.staged.2.2⟩ }

end Timer.Legal

/-! ### The fields of a SET_TIMING (R57) -/

theorem Operands.named_spec {α : Type} {isNamed : Bool} {value o : Option α} (h : Operands.named isNamed value = some o) (v : α)
    (ho : o = some v) : value = some v := by
  subst ho
  unfold Operands.named at h
  split at h
  · obtain ⟨w, hw, e⟩ := Option.map_eq_some_iff.1 h
    cases e
    exact hw
  · cases h

theorem Operands.source_range {kind nominal : Nat} {x : Source} (h : Operands.source kind nominal = some x) :
    100 ≤ x.nominal ∧ x.nominal ≤ 5000 := by
  simp only [Operands.source, Option.bind_eq_bind, Option.bind_eq_some_iff] at h
  obtain ⟨n, hn, h⟩ := h
  have range := Operands.within_spec hn
  split at h
  · cases h; exact range
  · cases h; exact range
  · cases h

theorem Operands.setTiming_legal {body : List Byte} {g : Staged} (h : Operands.setTiming body = some g) : g.legal := by
  simp only [Operands.setTiming, Option.bind_eq_bind, Option.bind_eq_some_iff, Option.pure_def, Option.some.injEq] at h
  obtain ⟨length, hl, ackDelay, ha, source, hs, rfl⟩ := h
  exact ⟨fun v e => Operands.within_spec (Operands.named_spec hl v e), fun v e => Operands.within_spec (Operands.named_spec ha v e),
    fun v e => Operands.source_range (Operands.named_spec hs v e)⟩

/-! ### Changes that keep the laws and the part state -/

/-- A change that keeps the laws of the Air Timer, in the part state as it was. -/
structure AirKept (s t : State) : Prop where
  legal : s.timerLegal → t.timerLegal
  partState : t.link.partState = s.link.partState

theorem Steady.airKept {s t : State} (h : Steady s t) : AirKept s t where
  legal k := by unfold State.timerLegal; rw [h.timer, h.partState]; exact k
  partState := h.partState

theorem AirKept.trans {s t u : State} (h : AirKept s t) (k : AirKept t u) : AirKept s u :=
  ⟨k.legal ∘ h.legal, k.partState.trans h.partState⟩

/-- A timer that is not stopped stands in RUNNING, so only its own laws are to be kept. -/
theorem AirKept.of_runs {s t : State} (runs : s.timer.state ≠ .stopped) (partState : t.link.partState = s.link.partState)
    (legal : s.timer.Legal → t.timer.Legal) : AirKept s t := by
  refine ⟨fun k => ?_, partState⟩
  obtain ⟨timer, idle⟩ := (State.timerLegal_iff s).1 k
  refine (State.timerLegal_iff t).2 ⟨legal timer, fun h => ?_⟩
  rw [partState] at h
  exact absurd (idle h).1 runs

/-- A frame start leaves the timer advanced and turned, and the part state alone (R52). -/
theorem State.startFrame_air (s : State) :
    s.startFrame.timer = s.timer.nextFrame ∧ s.startFrame.link.partState = s.link.partState := by
  have last := State.finishLastFrame_steady s
  have announced : Steady (s.finishLastFrame.withTimer s.finishLastFrame.timer.nextFrame) s.startFrame :=
    (State.announce_steady _ _ _).settled
  rw [announced.timer, announced.partState, State.withTimer_timer, State.withTimer_link, last.timer, last.partState]
  exact ⟨rfl, rfl⟩

theorem State.startFrame_airKept {s : State} (runs : s.timer.state ≠ .stopped) : AirKept s s.startFrame := by
  obtain ⟨timer, partState⟩ := State.startFrame_air s
  exact AirKept.of_runs runs partState (fun h => timer ▸ h.nextFrame)

theorem State.resume_airKept {s : State} (runs : s.timer.state ≠ .stopped) (heldMs : Nat) : AirKept s (s.resume heldMs) := by
  have last := State.finishLastFrame_steady s
  have announced : Steady (s.finishLastFrame.withTimer { s.finishLastFrame.timer.nextFrame with state := .running }) (s.resume heldMs) :=
    ((State.notice_quiet _ _).steady.trans (State.announce_steady _ _ _)).settled
  have partState := announced.partState
  rw [State.withTimer_link, last.partState] at partState
  refine AirKept.of_runs runs partState (fun h => ?_)
  rw [announced.timer, State.withTimer_timer, last.timer]
  exact h.nextFrame.withState .running

theorem setTimingAct_airKept {g : Staged} (hg : g.legal) (s : State) : AirKept s (setTimingAct g s).2.2 := by
  unfold setTimingAct
  split
  · rename_i config
    refine ⟨fun k => ?_, rfl⟩
    obtain ⟨timer, idle⟩ := (State.timerLegal_iff s).1 k
    have stopped := idle (by rw [config]; decide)
    exact (State.timerLegal_iff _).2 ⟨timer.apply hg stopped.2, fun _ => stopped⟩
  · split
    · exact (Steady.refl s).airKept
    · refine ⟨fun k => ?_, rfl⟩
      obtain ⟨timer, idle⟩ := (State.timerLegal_iff s).1 k
      exact (State.timerLegal_iff _).2 ⟨timer.stage hg, idle⟩

/-! ### What each command does to the Air Timer and the part state -/

/-- The part state changes at START, RESTART, the end of a restart and power-on alone (R167). -/
def MovesPart (c : Instr) (before after : PartState) : Prop :=
  (c = .start ∧ before = .config ∧ after = .running) ∨ (c = .restart ∧ before = .running ∧ after = .restarting) ∨
    (c = .restartComplete ∧ before = .restarting ∧ after = .config) ∨ (∃ host zone, c = .powerOn host zone ∧ after = .config)

/-- What a command answers keeps the laws of the Air Timer, and moves the part state only as its row says. -/
def Result.AirLawful (c : Instr) (s : State) (r : Result) : Prop :=
  ∀ t, r = .next t → (s.timerLegal → t.timerLegal) ∧
    (t.link.partState ≠ s.link.partState → MovesPart c s.link.partState t.link.partState)

theorem Result.airLawful_next {c : Instr} {s t : State} (h : AirKept s t) : Result.AirLawful c s (.next t) := by
  rintro _ ⟨⟩
  exact ⟨h.legal, fun moved => absurd h.partState moved⟩

theorem Result.airLawful_moved {c : Instr} {s t : State} (legal : s.timerLegal → t.timerLegal)
    (moves : MovesPart c s.link.partState t.link.partState) : Result.AirLawful c s (.next t) := by
  intro u e
  obtain rfl := Host.Outcome.next.inj e
  exact ⟨legal, fun _ => moves⟩

theorem Result.Steady.airLawful {s : State} {r : Result} (h : Result.Steady s r) (c : Instr) : Result.AirLawful c s r :=
  fun t e => Result.airLawful_next (c := c) (h t e).airKept t rfl

/-- A command that takes an order and answers it at once, its act being steady. -/
theorem Result.steady_answered {s : State} {kind : OrderKind} {act : List Byte → State → Answer}
    (h : ∀ body t, Machine.Steady t (act body t).2.2) : Result.Steady s (.next (s.answerOrder kind act)) :=
  Result.steady_next (State.answerOrder_steady kind h s)

theorem execSetTiming_airLawful (s : State) : Result.AirLawful .setTiming s (execSetTiming s) := by
  refine Result.airLawful_next ?_
  unfold State.answerOrder
  split
  · exact (Steady.refl s).airKept
  · rename_i place body t taken
    refine ((State.takeOrder_steady taken).airKept.trans ?_).trans (State.reply_quiet _ _ _ _).steady.airKept
    unfold outsideRestart withOperand
    split
    · exact (Steady.refl t).airKept
    · split
      · exact (Steady.refl t).airKept
      · rename_i fields
        exact setTimingAct_airKept (Operands.setTiming_legal fields) t

theorem Timer.runsOn_iff (t : Timer) (kind : SourceKind) :
    t.runsOn kind = true ↔ t.state = .running ∧ t.running.source.kind = kind := by
  simp [Timer.runsOn]

theorem Timer.runsOn.ne_stopped {t : Timer} {kind : SourceKind} (h : t.runsOn kind = true) : t.state ≠ .stopped := by
  rw [((Timer.runsOn_iff t kind).1 h).1]
  decide

theorem execFrameStart_airLawful (s : State) : Result.AirLawful .frameStart s (execFrameStart s) := by
  refine Result.airLawful_next ?_
  split
  · rename_i runs
    exact State.startFrame_airKept (Timer.runsOn.ne_stopped runs)
  · exact (Steady.refl s).airKept

theorem execCycleTurn_airLawful (s : State) : Result.AirLawful .cycleTurn s (execCycleTurn s) := by
  refine Result.airLawful_next ?_
  split
  · rename_i runs
    exact State.startFrame_airKept (Timer.runsOn.ne_stopped runs.1)
  · exact (Steady.refl s).airKept

theorem execStrobe_airLawful (elapsed : Nat) (s : State) : Result.AirLawful (.strobe elapsed) s (execStrobe elapsed s) := by
  have counted : ∀ ignored early, AirKept s (s.withTimer { s.timer with ignored, early }) := fun _ _ => ⟨id, rfl⟩
  refine Result.airLawful_next ?_
  split
  · exact counted _ _
  · rename_i hold
    exact State.resume_airKept (by rw [hold]; decide) _
  · rename_i running
    split
    · exact counted _ _
    · split
      · exact counted _ _
      · exact State.startFrame_airKept (by rw [running]; decide)

theorem execStrobeLoss_airLawful (s : State) : Result.AirLawful .strobeLoss s (execStrobeLoss s) := by
  refine Result.airLawful_next ?_
  split
  · rename_i runs
    have told : ∀ body, Steady (s.withTimer s.timer.hold) (((s.withTimer s.timer.hold).notice body).withdrawOffered).settleDown :=
      fun body => ((State.notice_quiet body _).steady.trans (State.withdrawOffered_steady _)).settled
    refine AirKept.of_runs (Timer.runsOn.ne_stopped runs) (told _).partState (fun h => ?_)
    rw [(told _).timer]
    exact h.hold
  · exact (Steady.refl s).airKept

/-! ### START, RESTART, the end of a restart, power-on -/

/-- Every check of START is passed (R168). -/
theorem State.startRefusal_none {s : State} (h : s.startRefusal = none) : s.link.partState = .config := by
  unfold State.startRefusal at h
  split at h
  · cases h
  · rename_i config
    exact not_not.1 config

theorem State.restartRefusal_none {s : State} (h : s.restartRefusal = none) : s.link.partState = .running := by
  unfold State.restartRefusal at h
  split at h
  · cases h
  · rename_i running
    exact not_not.1 running

theorem State.begin_steady (s : State) : Steady ((s.withPartState .running).withTimer s.timer.start) s.begin :=
  ((Steady.withRetry _ _).trans (State.announce_steady _ _ _)).settled

theorem execStart_airLawful (s : State) : Result.AirLawful .start s (execStart s) := by
  unfold execStart State.answerOrder
  split
  · exact Result.airLawful_next (Steady.refl s).airKept
  · rename_i place body t taken
    have taking := State.takeOrder_steady taken
    unfold startAct
    split
    · exact Result.airLawful_next (taking.replied _ _ _).airKept
    · rename_i passes
      have config := State.startRefusal_none passes
      have begun := (State.begin_steady t).replied place .ok
        (.started t.timer.running.length t.timer.running.ackDelay t.timer.running.source t.monitor.inService)
      have running := begun.partState
      rw [State.withTimer_link] at running
      refine Result.airLawful_moved (fun k => ?_) (.inl ⟨rfl, taking.partState.symm.trans config, running⟩)
      refine (State.timerLegal_iff _).2 ⟨?_, fun outside => absurd running outside⟩
      rw [begun.timer]
      exact ((State.timerLegal_iff t).1 (taking.airKept.legal k)).1.start

theorem State.beginRestart_steady (place : Nat) (s : State) : Steady ((s.withLink { s.link with
    partState := .restarting, restart := some { place, settledBefore := s.charging.counts.ended } }).withTimer s.timer.stop)
    (s.beginRestart place) :=
  ((((State.cancelRetries_quiet _).trans (State.cancelHeldWhenDue_quiet _)).steady.trans (State.cancelAssembly_steady _))).settled

theorem execRestart_airLawful (s : State) : Result.AirLawful .restart s (execRestart s) := by
  unfold execRestart
  split
  · exact Result.airLawful_next (Steady.refl s).airKept
  · rename_i place body t taken
    have taking := State.takeOrder_steady taken
    unfold State.takeRestart
    split
    · exact Result.airLawful_next (taking.replied _ _ _).airKept
    · rename_i passes
      have running := State.restartRefusal_none passes
      have begun := State.beginRestart_steady place t
      have restarting := begun.partState
      rw [State.withTimer_link] at restarting
      refine Result.airLawful_moved (fun k => ?_) (.inr (.inl ⟨rfl, taking.partState.symm.trans running, restarting⟩))
      have legal := ((State.timerLegal_iff t).1 (taking.airKept.legal k)).1.stop
      rw [State.timerLegal_iff, begun.timer]
      exact ⟨legal, fun _ => ⟨rfl, rfl⟩⟩

/-- The end of a restart leaves the timer as it stands and the part in CONFIG (R170). -/
theorem State.endRestart_steady (linesWritten : Nat) (s : State) : Steady (s.withPartState .config) (s.endRestart linesWritten) := by
  have timer := (State.recordAllDue_steady s).timer
  unfold State.endRestart
  split
  · constructor
    · simp only [State.withPartState, State.withLink_timer, State.withMonitor_timer]
      exact timer
    · simp only [State.withPartState, State.withLink_link]
  · refine Steady.replied (Steady.mk ?_ ?_) _ _ _
    · simp only [State.withPartState, State.withLink_timer, State.withMonitor_timer]
      exact timer
    · simp only [State.withPartState, State.withLink_link]

theorem execRestartComplete_airLawful (s : State) : Result.AirLawful .restartComplete s (execRestartComplete s) := by
  unfold execRestartComplete
  split
  · rename_i written u restarting ended
    have sweep := State.sweepEnd_steady ended
    have config := (State.endRestart_steady written u).settled
    refine Result.airLawful_moved (fun k => ?_) (.inr (.inr (.inl ⟨rfl, restarting, config.partState⟩)))
    obtain ⟨timer, idle⟩ := (State.timerLegal_iff s).1 k
    have stopped := idle (by rw [restarting]; decide)
    rw [State.timerLegal_iff, config.timer, State.withPartState, State.withLink_timer, sweep.timer]
    exact ⟨timer, fun _ => stopped⟩
  · exact Result.airLawful_next (Steady.refl s).airKept

theorem execPowerOn_airLawful (host zone : Nat) (s : State) : Result.AirLawful (.powerOn host zone) s (execPowerOn host zone s) := by
  unfold execPowerOn
  split
  · rintro _ ⟨⟩
    exact ⟨fun _ => State.reset_timerLegal, fun _ => .inr (.inr (.inr ⟨host, zone, rfl, rfl⟩))⟩
  · rintro _ ⟨⟩

/-! ### Every command, every step -/

theorem execBreakEnd_steady (s : State) : Result.Steady s (execBreakEnd s) :=
  Result.steady_where (Steady.withLink (Link.startSending_partState { s.link with inBreak := false, receiver := .hunting }))

/-- Every command keeps the laws of the Air Timer and moves the part state only as its row says. -/
theorem exec_airLawful (c : Instr) (s : State) : Result.AirLawful c s (exec c s) :=
  match c with
  | .powerOn host zone => execPowerOn_airLawful host zone s
  | .setTiming => execSetTiming_airLawful s
  | .frameStart => execFrameStart_airLawful s
  | .strobe elapsed => execStrobe_airLawful elapsed s
  | .strobeLoss => execStrobeLoss_airLawful s
  | .cycleTurn => execCycleTurn_airLawful s
  | .start => execStart_airLawful s
  | .restart => execRestart_airLawful s
  | .restartComplete => execRestartComplete_airLawful s
  | .submit => (execSubmit_steady s).airLawful _
  | .intakeReadServed => (execIntakeReadServed_steady s).airLawful _
  | .submitGroup => (execSubmitGroup_steady s).airLawful _
  | .groupMemberReadServed => (execGroupMemberReadServed_steady s).airLawful _
  | .cancel => (execCancel_steady s).airLawful _
  | .cancelRequest => (execCancelRequest_steady s).airLawful _
  | .setAdmission => (Result.steady_answered (outsideRestart_steady (withOperand_steady setAdmissionAct_steady))).airLawful _
  | .queryMessage => (Result.steady_answered (outsideRestart_steady fun body t => by
      rw [queryMessageAct_state]; exact Steady.refl t)).airLawful _
  | .groupSet => (Result.steady_answered (outsideRestart_steady (withOperand_steady groupSetAct_steady))).airLawful _
  | .groupRead => (Result.steady_answered (outsideRestart_steady (withOperand_steady fun v t =>
      by rw [groupReadAct_state]; exact Steady.refl t))).airLawful _
  | .readSub => (execReadSub_steady s).airLawful _
  | .readSubServed n => (execReadSubServed_steady n s).airLawful _
  | .hostReadDone => (execHostReadDone_steady s).airLawful _
  | .writeSub => (execWriteSub_steady s).airLawful _
  | .writeSubReadDone => (execWriteSubReadDone_steady s).airLawful _
  | .repairSub => (execRepairSub_steady s).airLawful _
  | .hostWriteDone => (execHostWriteDone_steady s).airLawful _
  | .initRecords => (execInitRecords_steady s).airLawful _
  | .initRecordWrite => (execInitRecordWrite_steady s).airLawful _
  | .initRecordsDone => (execInitRecordsDone_steady s).airLawful _
  | .flush => (execFlush_steady s).airLawful _
  | .flushVisit => (execFlushVisit_steady s).airLawful _
  | .flushDone => (execFlushDone_steady s).airLawful _
  | .setCache => (Result.steady_answered (outsideRestart_steady (withOperand_steady fun _ t => Steady.withCache t _))).airLawful _
  | .setAddressBase => (Result.steady_answered (inConfig_steady (withOperand_steady fun _ t => Steady.withCache t _))).airLawful _
  | .fillDone => (execFillDone_steady s).airLawful _
  | .castoutDone => (execCastoutDone_steady s).airLawful _
  | .writeBackDone => (execWriteBackDone_steady s).airLawful _
  | .throughWriteDone => (execThroughWriteDone_steady s).airLawful _
  | .taken link body => (execTaken_steady link body s).airLawful _
  | .reject link body => (execReject_steady link body s).airLawful _
  | .stateReport link body => (execStateReport_steady link body s).airLawful _
  | .window link body => (execWindow_steady link body s).airLawful _
  | .zoneBadFrame link frame => (execZoneBadFrame_steady link frame s).airLawful _
  | .zoneGapTimeout link kind => (Result.steady_guarded (State.badZoneFrame_steady link (Operands.attribution kind) s)).airLawful _
  | .ack => (execAck_steady s).airLawful _
  | .register => (execRegister_steady s).airLawful _
  | .deadlineMiss => (execDeadlineMiss_steady s).airLawful _
  | .reachReadAnswer => (execReachReadAnswer_steady s).airLawful _
  | .setPolicy => (Result.steady_answered (outsideRestart_steady (withOperand_steady fun _ t => Steady.withRetry t _))).airLawful _
  | .setReach => (Result.steady_answered (outsideRestart_steady (withOperand_steady fun _ t => Steady.withRetry t _))).airLawful _
  | .planSet => (Result.steady_answered (outsideRestart_steady (withOperand_steady planSetAct_steady))).airLawful _
  | .planRead => (Result.steady_answered (outsideRestart_steady (withOperand_steady fun _ t => Steady.refl t))).airLawful _
  | .closePeriod => (Result.steady_answered closePeriodAct_steady).airLawful _
  | .topUp => (execTopUp_steady s).airLawful _
  | .topUpReadServed => (execTopUpReadServed_steady s).airLawful _
  | .adjust => (execAdjust_steady s).airLawful _
  | .adjustReadServed => (execAdjustReadServed_steady s).airLawful _
  | .settlement => (execSettlement_steady s).airLawful _
  | .collect => (execCollect_steady s).airLawful _
  | .setNotices => (Result.steady_answered (outsideRestart_steady (withOperand_steady fun _ t => Steady.withLog t _))).airLawful _
  | .setZone => (Result.steady_answered (outsideRestart_steady (withOperand_steady setZoneAct_steady))).airLawful _
  | .zoneRestore => (Result.steady_answered (outsideRestart_steady (withOperand_steady zoneRestoreAct_steady))).airLawful _
  | .setFaultHandling =>
    (Result.steady_answered (outsideRestart_steady (withOperand_steady fun _ t => Steady.withMonitor t _))).airLawful _
  | .clearFaults => (Result.steady_answered (outsideRestart_steady (withOperand_steady fun _ t => Steady.withMonitor t _))).airLawful _
  | .readFaults => (Result.steady_answered fun _ t => Steady.refl t).airLawful _
  | .untaken zone => (Result.steady_guarded (State.recordUntaken_steady zone s)).airLawful _
  | .revSilent zone => (Result.steady_guarded (State.recordSilent_steady zone s)).airLawful _
  | .status => (Result.steady_answered (withOperand_steady fun _ t => Steady.refl t)).airLawful _
  | .restartDrainDone => (Result.steady_where (Steady.withCache s _)).airLawful _
  | .hostFrame kind tag body check => (execHostFrame_steady kind tag body check s).airLawful _
  | .hostGapTimeout => (Result.steady_where (State.discard_steady _ s)).airLawful _
  | .linkReset => (execLinkReset_steady s).airLawful _
  | .breakEnd => (execBreakEnd_steady s).airLawful _
  | .frameSent => (execFrameSent_steady s).airLawful _
  | .hostSync => (Result.steady_where (Steady.withLink (v := { s.link with receiver := .gathering }) rfl)).airLawful _
  | .hostLineError => (Result.steady_where (State.discard_steady _ s)).airLawful _
  | .hostLengthDiscard length => (execHostLengthDiscard_steady length s).airLawful _

/-- Settles O59: every command keeps the laws of the timer, and all but four leave the part state alone. -/
theorem stepKeepsAirTimeAndPartState : Obligations.StepKeepsAirTimeAndPartState := by
  intro s t h
  unfold step at h
  split at h
  · obtain rfl := Host.Outcome.next.inj h
    refine ⟨id, fun c rest e => ?_⟩
    rename_i none
    rw [none] at e
    cases e
  · rename_i c rest queue
    obtain ⟨legal, moves⟩ := exec_airLawful c _ t h
    refine ⟨legal, fun d others e moved => ?_⟩
    rw [queue] at e
    cases e
    exact moves moved

end Sys2Proof.Machine
end

section
/-! SUPPORT. What SET_TIMING reads and what it does (O5). -/

namespace Sys2Proof.Machine

/-! ### The fields of a SET_TIMING (R57) -/

/-- A parameter whose value is in range where it is named. -/
theorem Operands.named_of_value {α : Type} {isNamed : Bool} {value : Option α} {v : α} (h : isNamed = true → value = some v) :
    Operands.named isNamed value = some (if isNamed then some v else none) := by
  cases isNamed with
  | false => rfl
  | true => rw [h rfl]; rfl

/-- A parameter named with a value out of range. -/
theorem Operands.named_eq_none {α : Type} {isNamed : Bool} {value : Option α} (named : isNamed = true) (wrong : value = none) :
    Operands.named isNamed value = none := by
  rw [named, wrong]
  rfl

theorem Operands.source_of {kind nominal : Nat} (hk : kind ≤ 1) (hn : 100 ≤ nominal ∧ nominal ≤ 5000) :
    Operands.source kind nominal = some { kind := if kind = 0 then .internal else .external, nominal } := by
  unfold Operands.source
  rw [Operands.within_of hn]
  match kind, hk with
  | 0, _ => rfl
  | 1, _ => rfl

theorem Operands.source_eq_none {kind nominal : Nat} (h : 1 < kind ∨ ¬(100 ≤ nominal ∧ nominal ≤ 5000)) :
    Operands.source kind nominal = none := by
  unfold Operands.source
  by_cases range : 100 ≤ nominal ∧ nominal ≤ 5000
  · rw [Operands.within_of range]
    match kind, h with
    | 0, .inl low => exact absurd low (by decide)
    | 1, .inl low => exact absurd low (by decide)
    | _ + 2, _ => rfl
    | _, .inr out => exact absurd range out
  · rw [Operands.within_of_not range]
    rfl

/-- A SET_TIMING in which some named parameter is out of range reads as nothing. -/
theorem Operands.setTiming_eq_none {body : List Byte}
    (h : ((body.getD 0 0).getLsbD 0 = true ∧ ¬(8 ≤ Bytes.field body 1 1 ∧ Bytes.field body 1 1 ≤ 128)) ∨
      ((body.getD 0 0).getLsbD 1 = true ∧ ¬(1 ≤ Bytes.field body 2 1 ∧ Bytes.field body 2 1 ≤ 4)) ∨
      ((body.getD 0 0).getLsbD 2 = true ∧
        (1 < Bytes.field body 3 1 ∨ ¬(100 ≤ Bytes.field body 4 2 ∧ Bytes.field body 4 2 ≤ 5000)))) :
    Operands.setTiming body = none := by
  simp only [Operands.setTiming, Option.bind_eq_bind, Option.pure_def]
  obtain ⟨named, out⟩ | ⟨named, out⟩ | ⟨named, out⟩ := h
  · rw [Operands.named_eq_none named (Operands.within_of_not out)]
    rfl
  · rw [Operands.named_eq_none named (Operands.within_of_not out)]
    exact Option.bind_fun_none _
  · rw [Operands.named_eq_none named (Operands.source_eq_none out)]
    simp only [Option.bind_none, Option.bind_fun_none]

/-- A SET_TIMING whose named parameters are in range reads as those parameters. -/
theorem Operands.setTiming_of_range {body : List Byte}
    (length : (body.getD 0 0).getLsbD 0 = true → 8 ≤ Bytes.field body 1 1 ∧ Bytes.field body 1 1 ≤ 128)
    (ackDelay : (body.getD 0 0).getLsbD 1 = true → 1 ≤ Bytes.field body 2 1 ∧ Bytes.field body 2 1 ≤ 4)
    (source : (body.getD 0 0).getLsbD 2 = true →
      Bytes.field body 3 1 ≤ 1 ∧ 100 ≤ Bytes.field body 4 2 ∧ Bytes.field body 4 2 ≤ 5000) :
    Operands.setTiming body = some
      { length := if (body.getD 0 0).getLsbD 0 then some (Bytes.field body 1 1) else none
        ackDelay := if (body.getD 0 0).getLsbD 1 then some (Bytes.field body 2 1) else none
        source := if (body.getD 0 0).getLsbD 2 then
            some { kind := if Bytes.field body 3 1 = 0 then .internal else .external, nominal := Bytes.field body 4 2 }
          else none } := by
  simp only [Operands.setTiming, Option.bind_eq_bind, Option.pure_def]
  rw [Operands.named_of_value fun named => Operands.within_of (length named),
    Operands.named_of_value fun named => Operands.within_of (ackDelay named),
    Operands.named_of_value fun named => Operands.source_of (source named).1 (source named).2]
  rfl

/-! ### What it does (R57, R58) -/

/-- A value is pending for a parameter that is named again. -/
theorem Staged.clashes_iff (held g : Staged) : held.clashes g = true ↔
    (g.length ≠ none ∧ held.length ≠ none) ∨ (g.ackDelay ≠ none ∧ held.ackDelay ≠ none) ∨
      (g.source ≠ none ∧ held.source ≠ none) := by
  simp only [Staged.clashes, Bool.or_eq_true, Bool.and_eq_true, Option.isSome_iff_ne_none, or_assoc]
  tauto

theorem setTimingAct_config {t : State} (config : t.link.partState = .config) (g : Staged) :
    setTimingAct g t = (.ok, .timing (t.timer.apply g).figures, t.withTimer (t.timer.apply g)) := if_pos config

theorem setTimingAct_clash {t : State} (outside : t.link.partState ≠ .config) {g : Staged}
    (clash : t.timer.staged.clashes g = true) :
    setTimingAct g t = (.pending, .none, t) := (if_neg outside).trans (if_pos clash)

theorem setTimingAct_staged {t : State} (outside : t.link.partState ≠ .config) {g : Staged}
    (free : ¬t.timer.staged.clashes g = true) :
    setTimingAct g t = (.ok, .timing { t.timer with staged := t.timer.staged.stage g : Timer }.figures,
      t.withTimer { t.timer with staged := t.timer.staged.stage g }) := (if_neg outside).trans (if_neg free)

/-- A SET_TIMING that is served is answered BAD_VALUE where it reads as nothing, and by its act where it reads as parameters. -/
theorem exec_setTiming {s t : State} {place : Nat} {body : List Byte} (taken : s.takeOrder .setTiming = some (place, body, t))
    (served : t.link.partState ≠ .restarting) :
    exec .setTiming s = .next ((withOperand Operands.setTiming setTimingAct body t).2.2.reply place
      (withOperand Operands.setTiming setTimingAct body t).1 (withOperand Operands.setTiming setTimingAct body t).2.1) := by
  show Host.Outcome.next (s.answerOrder .setTiming (outsideRestart (withOperand Operands.setTiming setTimingAct))) = _
  rw [State.answerOrder_taken taken, outsideRestart_served served]

/-- Settles O5: the reading of the fields, and then the act by the part state and what is pending. -/
theorem setTimingAppliesOrStages : Obligations.SetTimingAppliesOrStages := by
  constructor
  · intro s t place body taken names outside wrong
    constructor
    · intro out served
      have unread : Operands.setTiming body = none := Operands.setTiming_eq_none (by
        simp only [not_and_or, Nat.not_le]
        exact out)
      rw [exec_setTiming taken served, withOperand_none unread]
    · intro right
      simp only [wrong, outside, not_or, not_and, Nat.not_lt] at right
      obtain ⟨length, ackDelay, source⟩ := right
      exact Operands.setTiming_of_range length ackDelay source
  · intro s t place body g taken read running applied staged clash
    have served (u : PartState) (hu : u ≠ .restarting) (h : t.link.partState = u) :
        exec .setTiming s = .next ((setTimingAct g t).2.2.reply place (setTimingAct g t).1 (setTimingAct g t).2.1) := by
      rw [exec_setTiming taken (h ▸ hu), withOperand_some read]
    refine ⟨fun config => ?_, fun isRunning free => ?_, fun isRunning clashing => ?_⟩
    · rw [served .config (by decide) config, setTimingAct_config config]
      rfl
    · rw [served .running (by decide) isRunning, setTimingAct_staged (by rw [isRunning]; decide)
        (fun h => free ((Staged.clashes_iff _ g).1 h))]
      rfl
    · rw [served .running (by decide) isRunning, setTimingAct_clash (by rw [isRunning]; decide)
        ((Staged.clashes_iff _ g).2 clashing)]

end Sys2Proof.Machine
end

section
/-! SUPPORT. Frame starts and cycle turns (O19). -/

namespace Sys2Proof.Machine

/-! ### The timer at a frame start (R52, R54) -/

theorem Timer.advance_below {t : Timer} (h : t.frameNumber + 1 < t.running.length) :
    t.advance = { t with frameCount := t.frameCount + 1, frameNumber := t.frameNumber + 1 } := if_pos h

theorem Timer.advance_wrap {t : Timer} (h : ¬t.frameNumber + 1 < t.running.length) :
    t.advance = { t with frameCount := t.frameCount + 1, frameNumber := 0, cycle := t.cycle + 1,
                         running := t.coming.getD t.running, coming := none } := if_neg h

theorem Timer.nextFrame_turns {t : Timer} (h : t.advance.atTurn = true) : t.nextFrame = t.advance.turn := if_pos h

theorem Timer.nextFrame_plain {t : Timer} (h : ¬t.advance.atTurn = true) : t.nextFrame = t.advance := if_neg h

/-- What an advance leaves alone, and that it counts a frame. -/
theorem Timer.advance_rest (t : Timer) : t.advance.state = t.state ∧ t.advance.frameCount = t.frameCount + 1 ∧
    t.advance.ignored = t.ignored ∧ t.advance.early = t.early ∧ t.advance.holds = t.holds ∧ t.advance.staged = t.staged ∧
    t.advance.lengthInForce = t.lengthInForce := by
  by_cases below : t.frameNumber + 1 < t.running.length
  · rw [Timer.advance_below below]
    exact ⟨rfl, rfl, rfl, rfl, rfl, rfl, rfl⟩
  · rw [Timer.advance_wrap below]
    exact ⟨rfl, rfl, rfl, rfl, rfl, rfl, rfl⟩

/-- A turn fixes settings, and neither moves the timer nor counts. -/
theorem Timer.nextFrame_rest (t : Timer) : t.nextFrame.state = t.advance.state ∧ t.nextFrame.frameCount = t.advance.frameCount ∧
    t.nextFrame.ignored = t.advance.ignored ∧ t.nextFrame.early = t.advance.early ∧ t.nextFrame.holds = t.advance.holds ∧
    t.nextFrame.frameNumber = t.advance.frameNumber ∧ t.nextFrame.cycle = t.advance.cycle ∧
    t.nextFrame.running = t.advance.running := by
  by_cases turns : t.advance.atTurn = true
  · rw [Timer.nextFrame_turns turns]
    exact ⟨rfl, rfl, rfl, rfl, rfl, rfl, rfl, rfl⟩
  · rw [Timer.nextFrame_plain turns]
    exact ⟨rfl, rfl, rfl, rfl, rfl, rfl, rfl, rfl⟩

theorem Timer.atTurn_iff (t : Timer) : t.atTurn = true ↔ t.frameNumber + 2 = t.running.length := decide_eq_true_iff

/-- The frame start reached is the cycle turn exactly where the advance says so. -/
theorem Timer.nextFrame_atTurn (t : Timer) : t.nextFrame.atTurn = t.advance.atTurn := by
  obtain ⟨-, -, -, -, -, frameNumber, -, running⟩ := t.nextFrame_rest
  unfold Timer.atTurn
  rw [frameNumber, running]

theorem Timer.comingCycle_eq (t : Timer) :
    t.comingCycle = if t.frameNumber + 2 = t.running.length then some (t.cycle + 1) else none := by
  unfold Timer.comingCycle
  simp only [Timer.atTurn_iff]

/-! ### The frame start (R52) -/

/-- A frame start in terms of the timer as it was: what is still due from the last one leaves the timer alone. -/
theorem State.startFrame_eq (s : State) : s.startFrame = ((({ s.finishLastFrame with timer := s.timer.nextFrame } : State).announce
    s.timer.nextFrame.comingCycle (decide (s.timer.nextFrame.lengthInForce ≠ s.timer.lengthInForce))).settleDown) := by
  unfold State.startFrame
  dsimp only
  rw [State.finishLastFrame_timer]
  rfl

theorem Timer.runsOn_of {t : Timer} {kind : SourceKind} (state : t.state = .running) (source : t.running.source.kind = kind) :
    t.runsOn kind = true := (Timer.runsOn_iff t kind).2 ⟨state, source⟩

theorem exec_frameStart {s : State} (runs : s.timer.runsOn .internal = true) : exec .frameStart s = .next s.startFrame := by
  show Host.Outcome.next (if s.timer.runsOn .internal then s.startFrame else s) = _
  rw [if_pos runs]

theorem exec_cycleTurn {s : State} (runs : s.timer.runsOn .internal = true) :
    exec .cycleTurn s = .next (if s.timer.advance.atTurn = true then s.startFrame else s) := by
  show Host.Outcome.next (if s.timer.runsOn .internal ∧ s.timer.advance.atTurn = true then s.startFrame else s) = _
  simp only [runs, true_and]

/-- Where the advance arrives: the next frame of the cycle, or the first of the next one. -/
theorem Timer.advance_place (t : Timer) :
    if t.frameNumber + 1 < t.running.length then
      t.advance.frameNumber = t.frameNumber + 1 ∧ t.advance.cycle = t.cycle ∧ t.advance.running = t.running
    else t.advance.frameNumber = 0 ∧ t.advance.cycle = t.cycle + 1 ∧ t.advance.running = t.coming.getD t.running := by
  by_cases below : t.frameNumber + 1 < t.running.length
  · rw [if_pos below, Timer.advance_below below]
    exact ⟨rfl, rfl, rfl⟩
  · rw [if_neg below, Timer.advance_wrap below]
    exact ⟨rfl, rfl, rfl⟩

theorem Timer.advance_coming (t : Timer) :
    t.advance.coming = if t.frameNumber + 1 < t.running.length then t.coming else none := by
  by_cases below : t.frameNumber + 1 < t.running.length
  · rw [if_pos below, Timer.advance_below below]
  · rw [if_neg below, Timer.advance_wrap below]

/-- What the next frame start does to the settings: they are fixed at the turn, and elsewhere stay as the advance left them. -/
theorem Timer.nextFrame_settings (t : Timer) :
    if t.nextFrame.frameNumber + 2 = t.nextFrame.running.length then
      t.nextFrame.coming = some (t.staged.over t.nextFrame.running) ∧ t.nextFrame.staged = {} ∧
        t.nextFrame.lengthInForce = (t.staged.over t.nextFrame.running).length
    else
      t.nextFrame.coming = (if t.frameNumber + 1 < t.running.length then t.coming else none) ∧ t.nextFrame.staged = t.staged ∧
        t.nextFrame.lengthInForce = t.lengthInForce := by
  obtain ⟨-, -, -, -, -, staged, length⟩ := t.advance_rest
  have turns := Timer.nextFrame_atTurn t
  by_cases turn : t.advance.atTurn = true
  · rw [if_pos ((Timer.atTurn_iff _).1 (turns.trans turn)), Timer.nextFrame_turns turn, ← staged]
    exact ⟨rfl, rfl, rfl⟩
  · rw [if_neg fun h => turn (turns ▸ (Timer.atTurn_iff _).2 h), Timer.nextFrame_plain turn]
    exact ⟨t.advance_coming, staged, length⟩

/-- Settles O19: the timer's advance and turn, and the frame start announced with them. -/
theorem frameStartAdvances : Obligations.FrameStartAdvances := by
  refine ⟨?_, ?_, ?_, ?_⟩
  · intro t moved turns fixed
    have staged : t.advance.staged = t.staged := t.advance_rest.2.2.2.2.2.1
    constructor
    · intro turn
      have atTurn : t.advance.atTurn = true := (Timer.atTurn_iff _).2 turn
      rw [Timer.nextFrame_turns atTurn]
      refine ⟨?_, if_pos atTurn⟩
      rw [Timer.turn, staged]
      rfl
    · intro plain
      have atTurn : ¬t.advance.atTurn = true := fun h => plain ((Timer.atTurn_iff _).1 h)
      rw [Timer.nextFrame_plain atTurn]
      exact ⟨rfl, if_neg atTurn⟩
  · intro s untaken silent
    exact ⟨fun z => rfl, rfl, rfl⟩
  · intro s state source
    obtain ⟨sameState, frameCount, ignored, early, holds, -, -⟩ := s.timer.advance_rest
    obtain ⟨sameState', frameCount', ignored', early', holds', frameNumber, cycle, running⟩ := s.timer.nextFrame_rest
    refine ⟨s.finishLastFrame, s.timer.nextFrame, rfl, State.finishLastFrame_timer s, ?_, (sameState'.trans sameState).trans state,
      frameCount'.trans frameCount, ignored'.trans ignored, early'.trans early, holds'.trans holds, ?_, s.timer.nextFrame_settings⟩
    · rw [exec_frameStart (Timer.runsOn_of state source), State.startFrame_eq, Timer.comingCycle_eq]
    · rw [frameNumber, cycle, running]
      exact s.timer.advance_place
  · intro s state source number length
    have runs := Timer.runsOn_of state source
    have atTurn : s.timer.advance.atTurn = true ↔ number + 2 = length := by
      rw [Timer.atTurn_iff]
      have place := s.timer.advance_place
      simp only [number, length]
      split at place
      · rename_i below
        rw [if_pos below, if_pos below, place.1, place.2.2]
      · rename_i below
        rw [if_neg below, if_neg below, place.1, place.2.2]
    constructor
    · intro turn
      have turns := atTurn.2 turn
      have next : s.timer.nextFrame.atTurn = true := s.timer.nextFrame_atTurn.trans turns
      have settings := s.timer.nextFrame_settings
      rw [if_pos ((Timer.atTurn_iff _).1 next)] at settings
      rw [exec_cycleTurn runs, exec_frameStart runs, if_pos turns]
      refine ⟨rfl, s.finishLastFrame, _, rfl, ?_, settings.1, settings.2.2⟩
      rw [State.startFrame_eq, Timer.comingCycle, if_pos next]
    · intro plain
      rw [exec_cycleTurn runs, if_neg (fun h => plain (atTurn.1 h))]

end Sys2Proof.Machine
end

section
/-! SUPPORT. Strobes, their loss, and the withdrawal of the offered frame (O20). -/

namespace Sys2Proof.Machine

/-! ### The withdrawal of the offers (R89) -/

/-- The launch count of the offer outstanding to a zone, if one is. -/
def ZoneLinks.outstanding (l : ZoneLinks) (z : Nat) : Option Word32 :=
  if (l.zone z).offer = .idle then none else (l.zone z).launch

/-- A zone link with its offer withdrawn. -/
def ZoneLink.withdrawn (v : ZoneLink) : ZoneLink :=
  { v with offer := .idle, launch := none, pages := 0, counts := { v.counts with withdrawals := v.counts.withdrawals + 1 } }

/-- The WITHDRAW a zone is sent, if its offer is outstanding. -/
def ZoneLinks.withdrawal (l : ZoneLinks) (z : Nat) : Option (Nat × ZoneFrameOut) :=
  (l.outstanding z).map (fun launch => (z, .withdraw launch))

theorem ZoneLinks.withdraw_none {l : ZoneLinks} {z : Nat} (h : l.outstanding z = none) : l.withdraw z = l := by
  unfold ZoneLinks.withdraw
  dsimp only
  split
  · rfl
  · rename_i launch
    split
    · rfl
    · rename_i offered
      rw [ZoneLinks.outstanding, if_neg offered, launch] at h
      cases h

theorem ZoneLinks.withdraw_some {l : ZoneLinks} {z : Nat} {launch : Word32} (h : l.outstanding z = some launch) :
    l.withdraw z = (l.setZone z (l.zone z).withdrawn).send z (.withdraw launch) := by
  have offered : ¬(l.zone z).offer = .idle := by
    intro idle
    rw [ZoneLinks.outstanding, if_pos idle] at h
    cases h
  rw [ZoneLinks.outstanding, if_neg offered] at h
  simp only [ZoneLinks.withdraw, h, if_neg offered]
  rfl

theorem ZoneLinks.zone_withdraw (l : ZoneLinks) (z w : Nat) :
    (l.withdraw z).zone w = if w = z ∧ l.outstanding z ≠ none then (l.zone z).withdrawn else l.zone w := by
  cases h : l.outstanding z with
  | none => rw [ZoneLinks.withdraw_none h, if_neg (fun k => k.2 rfl)]
  | some launch =>
    rw [ZoneLinks.withdraw_some h]
    show Table.get {} (Table.set {} l.zones z (l.zone z).withdrawn) w = _
    rw [Table.get_set]
    simp only [ne_eq, reduceCtorEq, not_false_eq_true, and_true, eq_comm]
    rfl

theorem ZoneLinks.zone_withdraw_other {l : ZoneLinks} {z w : Nat} (h : w ≠ z) : (l.withdraw z).zone w = l.zone w :=
  (ZoneLinks.zone_withdraw l z w).trans (if_neg fun k => h k.1)

/-- Frames are put on the links, and of the rest only the zone links change. -/
def ZoneLinks.Sends (l : ZoneLinks) (frames : List (Nat × ZoneFrameOut)) (m : ZoneLinks) : Prop :=
  m = { l with zones := m.zones, sent := l.sent ++ frames }

theorem ZoneLinks.Sends.refl (l : ZoneLinks) : l.Sends [] l := by
  simp [ZoneLinks.Sends]

theorem ZoneLinks.Sends.trans {l m n : ZoneLinks} {first second : List (Nat × ZoneFrameOut)} (h : l.Sends first m)
    (k : m.Sends second n) : l.Sends (first ++ second) n := by
  cases l
  cases m
  cases n
  simp_all [ZoneLinks.Sends]

/-- A withdrawal of one zone's offer sends its WITHDRAW and touches the zone links alone. -/
theorem ZoneLinks.withdraw_sends (l : ZoneLinks) (z : Nat) :
    l.Sends (l.withdrawal z).toList (l.withdraw z) := by
  unfold ZoneLinks.withdrawal
  cases h : l.outstanding z with
  | none =>
    rw [ZoneLinks.withdraw_none h]
    exact ZoneLinks.Sends.refl l
  | some launch =>
    rw [ZoneLinks.withdraw_some h]
    rfl

theorem ZoneLinks.outstanding_withdraw_other {l : ZoneLinks} {z w : Nat} (h : w ≠ z) :
    (l.withdraw z).outstanding w = l.outstanding w := by
  unfold ZoneLinks.outstanding
  rw [ZoneLinks.zone_withdraw_other h]

/-- Withdrawing the offers of zones, each once: the WITHDRAWs sent are those the links called for at the start. -/
theorem ZoneLinks.foldl_withdraw {zones : List Nat} (once : zones.Nodup) (l : ZoneLinks) :
    l.Sends (zones.filterMap l.withdrawal) (zones.foldl ZoneLinks.withdraw l) ∧
    ∀ w, (zones.foldl ZoneLinks.withdraw l).zone w =
      if w ∈ zones ∧ l.outstanding w ≠ none then (l.zone w).withdrawn else l.zone w := by
  induction zones generalizing l with
  | nil => exact ⟨ZoneLinks.Sends.refl l, fun w => (if_neg fun k => List.not_mem_nil k.1).symm⟩
  | cons z zones ih =>
    obtain ⟨fresh, once⟩ := List.nodup_cons.1 once
    have other : ∀ w ∈ zones, w ≠ z := fun w hw e => fresh (e ▸ hw)
    obtain ⟨whole, zone⟩ := ih once (l.withdraw z)
    have asked : zones.filterMap (l.withdraw z).withdrawal = zones.filterMap l.withdrawal :=
      List.filterMap_congr fun w hw => congrArg _ (ZoneLinks.outstanding_withdraw_other (other w hw))
    constructor
    · have sent : (z :: zones).filterMap l.withdrawal = (l.withdrawal z).toList ++ zones.filterMap l.withdrawal := by
        rw [List.filterMap_cons]
        cases l.withdrawal z <;> rfl
      rw [List.foldl_cons, sent, ← asked]
      exact (ZoneLinks.withdraw_sends l z).trans whole
    · intro w
      rw [List.foldl_cons, zone w]
      by_cases first : w = z
      · subst first
        rw [if_neg (fun k => fresh k.1), ZoneLinks.zone_withdraw]
        simp only [true_and, List.mem_cons, true_or]
      · rw [ZoneLinks.outstanding_withdraw_other first, ZoneLinks.zone_withdraw_other first]
        simp only [List.mem_cons, first, false_or]

/-- The whole effect of withdrawing every offer. -/
theorem ZoneLinks.withdrawAll_spec (l : ZoneLinks) :
    l.Sends ((List.range 16).filterMap l.withdrawal) l.withdrawAll ∧
    ∀ w, l.withdrawAll.zone w = if w < 16 ∧ l.outstanding w ≠ none then (l.zone w).withdrawn else l.zone w := by
  obtain ⟨whole, zone⟩ := ZoneLinks.foldl_withdraw (zones := List.range Config.zones) List.nodup_range l
  refine ⟨whole, fun w => ?_⟩
  rw [ZoneLinks.withdrawAll, zone w]
  simp only [List.mem_range, Config.zones]

/-! ### What becomes of the offered frame (R78, R79) -/

theorem State.withdrawOffered_none {s : State} (h : s.assembler.offered = none) :
    s.withdrawOffered = s.withZoneLinks s.zoneLinks.withdrawAll := by
  simp only [State.withdrawOffered, h]

theorem State.withdrawOffered_some {s : State} {o : OfferedFrame} (h : s.assembler.offered = some o) :
    s.withdrawOffered = o.frame.placed.foldl (fun u p => u.voidAttempt p.entry)
      ((s.withZoneLinks s.zoneLinks.withdrawAll).withAssembler { s.assembler with offered := none }) := by
  simp only [State.withdrawOffered, h]
  rfl

/-- A void attempt is counted, and settles its entry or files it. -/
theorem State.voidAttempt_live {s : State} {n : Nat} {e : Entry} (h : s.store.entry n = some e) :
    s.voidAttempt n = if e.cancelRequested then
        (s.countAssembly (fun c => { c with voidAttempts := c.voidAttempts + 1 })).settle n .cancelled 0
      else (s.countAssembly (fun c => { c with voidAttempts := c.voidAttempts + 1 })).file n := by
  simp only [State.voidAttempt, h]

/-! ### Strobes (R51, R59, R60) -/

theorem exec_strobe (elapsed : Nat) (s : State) : exec (.strobe elapsed) s = execStrobe elapsed s := rfl

theorem execStrobe_stopped {s : State} (h : s.timer.state = .stopped) (elapsed : Nat) :
    execStrobe elapsed s = .next (s.withTimer { s.timer with ignored := s.timer.ignored + 1 }) := by
  simp only [execStrobe, h]

theorem execStrobe_internal {s : State} (state : s.timer.state = .running) (source : s.timer.running.source.kind = .internal)
    (elapsed : Nat) : execStrobe elapsed s = .next (s.withTimer { s.timer with ignored := s.timer.ignored + 1 }) := by
  simp only [execStrobe, state, source]

theorem execStrobe_external {s : State} (state : s.timer.state = .running) (source : s.timer.running.source.kind = .external)
    (elapsed : Nat) : execStrobe elapsed s = .next (if elapsed < s.timer.running.source.nominal then
      s.withTimer { s.timer with early := s.timer.early + 1 } else s.startFrame) := by
  simp only [execStrobe, state, source]

theorem execStrobe_hold {s : State} (h : s.timer.state = .hold) (elapsed : Nat) :
    execStrobe elapsed s = .next (s.resume (s.timer.heldMs elapsed)) := by
  simp only [execStrobe, h]

/-- The end of a hold in terms of the timer as it was. -/
theorem State.resume_eq (s : State) (heldMs : Nat) :
    s.resume heldMs = (((({ s.finishLastFrame with timer := { s.timer.nextFrame with state := .running } } : State).notice
      (.airResume s.timer.nextFrame.frameCount s.timer.nextFrame.frameNumber s.timer.nextFrame.cycle (min Config.max32 heldMs))).announce
        ({ s.timer.nextFrame with state := .running } : Timer).comingCycle
        (decide (s.timer.nextFrame.lengthInForce ≠ s.timer.lengthInForce))).settleDown) := by
  unfold State.resume
  dsimp only
  rw [State.finishLastFrame_timer]
  rfl

/-- Settles O20: strobes by state and source, the loss of strobes, and the withdrawal by a fold over the zones. -/
theorem strobesJudgedAndLost : Obligations.StrobesJudgedAndLost := by
  refine ⟨?_, ?_, ?_, ?_, ?_⟩
  · intro s elapsed
    refine ⟨?_, fun state source soon => ?_, fun state source later => ?_, fun state => ?_⟩
    · rintro (state | ⟨state, source⟩)
      · exact execStrobe_stopped state elapsed
      · exact execStrobe_internal state source elapsed
    · rw [exec_strobe, execStrobe_external state source, if_pos soon]
      rfl
    · rw [exec_strobe, execStrobe_external state source, if_neg (Nat.not_lt.2 later), State.startFrame_eq]
    · intro next
      rw [exec_strobe, execStrobe_hold state, State.resume_eq]
      rfl
  · intro s state source
    show Host.Outcome.next (if s.timer.runsOn .external then _ else s) = _
    rw [if_pos (Timer.runsOn_of state source)]
    rfl
  · intro l out t
    obtain ⟨whole, zone⟩ := ZoneLinks.withdrawAll_spec l
    refine ⟨whole, fun z still => ?_, fun z place offered => ?_⟩
    · refine (zone z).trans (if_neg ?_)
      rintro ⟨place, offered⟩
      exact still.elim (Nat.not_le.2 place) offered
    · exact (zone z).trans (if_pos ⟨place, offered⟩)
  · intro s a withdrawn
    exact ⟨State.withdrawOffered_none, fun o offered => State.withdrawOffered_some offered⟩
  · intro s n e live a counted
    constructor
    · intro requested
      rw [State.voidAttempt_live live, if_pos requested]
      rfl
    · intro free
      rw [State.voidAttempt_live live, if_neg (by rw [free]; decide)]
      rfl

end Sys2Proof.Machine
end

section
/-! SUPPORT. START, RESTART, the drain and the end of a restart (O55). -/

namespace Sys2Proof.Machine

/-- What each step of a fold leaves alone, the fold leaves alone. -/
theorem List.foldl_unchanged {σ α β : Type} {f : σ → α → σ} (g : σ → β) (h : ∀ s a, g (f s a) = g s) (l : List α)
    (s : σ) : g (l.foldl f s) = g s := by
  induction l generalizing s with
  | nil => rfl
  | cons a l ih => exact (ih _).trans (h s a)

/-! ### START (R168) -/

theorem Monitor.inService_eq_zero_iff (m : Monitor) :
    m.inService = 0 ↔ ¬∃ z, z < 16 ∧ (m.zone z).state = .inService := by
  constructor
  · rintro none ⟨z, place, served⟩
    have bit := Monitor.has_inService m z place
    rw [none, served] at bit
    exact absurd bit (by simp [ZoneSet.has])
  · intro none
    refine BitVec.eq_of_getLsbD_eq fun z place => ?_
    have bit := Monitor.has_inService m z place
    rw [decide_eq_false fun served => none ⟨z, place, served⟩] at bit
    exact bit.trans BitVec.getLsbD_zero.symm

theorem Cache.initialising_iff (c : Cache) :
    c.initialising = true ↔ ∃ place next last written, c.sweep = some (.records place next last written) := by
  unfold Cache.initialising
  split <;> simp_all

theorem exec_start {s t : State} {place : Nat} {body : List Byte} (taken : s.takeOrder .start = some (place, body, t)) :
    exec .start s = .next ((startAct body t).2.2.reply place (startAct body t).1 (startAct body t).2.1) := by
  show Host.Outcome.next (s.answerOrder .start startAct) = _
  rw [State.answerOrder_taken taken]

theorem startAct_refused {t : State} {code : ReplyCode} (h : t.startRefusal = some code) (body : List Byte) :
    startAct body t = (code, .none, t) := by
  simp only [startAct, h, refuse]

theorem startAct_passed {t : State} (h : t.startRefusal = none) (body : List Byte) :
    startAct body t = (.ok, .started t.timer.running.length t.timer.running.ackDelay t.timer.running.source t.monitor.inService,
      t.begin) := by
  simp only [startAct, h]

/-- The checks of START after the part state's (R168). -/
theorem State.startRefusal_config {t : State} (config : t.link.partState = .config) :
    t.startRefusal = if t.cache.addressBase = none then some .badValue
      else if t.monitor.inService = 0 then some .badValue else if t.cache.initialising then some .busy else none :=
  if_neg (fun h => h config)

/-! ### Entries that settle CANCELLED together (R80, R114, R169) -/

/-- The entries of a list settle CANCELLED, in its order: they join the settle list, and no other entry changes. -/
structure Cancels (s : State) (entries : List Nat) (u : State) : Prop where
  cycle : u.timer.cycle = s.timer.cycle
  settleList : u.charging.settleList =
    s.charging.settleList ++ entries.map (fun n => { entry := n, outcomeCycle := s.timer.cycle })
  settles : ∀ n ∈ entries, ∀ e, s.store.entry n = some e →
    u.store.entry n = some { e with state := .settling, outcome := some .cancelled, replyCode := some 0 }
  others : ∀ n, n ∉ entries → u.store.entry n = s.store.entry n

namespace Cancels

theorem nothing {s u : State} (cycle : u.timer.cycle = s.timer.cycle) (settleList : u.charging.settleList = s.charging.settleList)
    (store : u.store = s.store) : Cancels s [] u where
  cycle
  settleList := by rw [settleList, List.map_nil, List.append_nil]
  settles := fun _ h => absurd h List.not_mem_nil
  others := fun n _ => by rw [store]

theorem trans {s t u : State} {first second : List Nat} (h : Cancels s first t) (k : Cancels t second u) :
    Cancels s (first ++ second) u where
  cycle := k.cycle.trans h.cycle
  settleList := by rw [k.settleList, h.settleList, h.cycle, List.map_append, List.append_assoc]
  settles n hn e live := by
    by_cases before : n ∈ first
    · have settled := h.settles n before e live
      by_cases again : n ∈ second
      · have twice := k.settles n again _ settled
        exact twice
      · exact (k.others n again).trans settled
    · exact k.settles n ((List.mem_append.1 hn).resolve_left before) e ((h.others n before).trans live)
  others n hn := by
    rw [List.mem_append, not_or] at hn
    exact (k.others n hn.2).trans (h.others n hn.1)

/-- What changes neither the clock, the settle list nor the store changes nothing of it. -/
theorem keptBy {s t u : State} {entries : List Nat} (h : Cancels s entries t) (cycle : u.timer.cycle = t.timer.cycle)
    (settleList : u.charging.settleList = t.charging.settleList) (store : u.store = t.store) : Cancels s entries u := by
  have both := h.trans (Cancels.nothing cycle settleList store)
  rwa [List.append_nil] at both

theorem withRetry {s t : State} {entries : List Nat} (h : Cancels s entries t) (v : Retry) : Cancels s entries (t.withRetry v) :=
  h.keptBy rfl rfl rfl

theorem withIntake {s t : State} {entries : List Nat} (h : Cancels s entries t) (v : Intake) : Cancels s entries (t.withIntake v) :=
  h.keptBy rfl rfl rfl

theorem withZoneLinks {s t : State} {entries : List Nat} (h : Cancels s entries t) (v : ZoneLinks) :
    Cancels s entries (t.withZoneLinks v) := h.keptBy rfl rfl rfl

theorem withAssembler {s t : State} {entries : List Nat} (h : Cancels s entries t) (v : Assembler) :
    Cancels s entries (t.withAssembler v) := h.keptBy rfl rfl rfl

theorem settle (s : State) (n : Nat) : Cancels s [n] (s.settle n .cancelled 0) where
  cycle := rfl
  settleList := rfl
  settles m hm e live := by
    obtain rfl := List.mem_singleton.1 hm
    show (s.store.changeEntry m _).entry m = _
    rw [Store.entry_changeEntry, if_pos rfl, live]
    rfl
  others m hm := Store.entry_changeEntry_other _ _ (fun e => hm (List.mem_singleton.2 e.symm))

end Cancels

/-- The entries of a list settle CANCELLED, in its order. -/
def State.cancelAll (entries : List Nat) (s : State) : State := entries.foldl (fun u n => u.settle n .cancelled 0) s

theorem State.cancelAll_cancels (entries : List Nat) (s : State) : Cancels s entries (s.cancelAll entries) := by
  induction entries generalizing s with
  | nil => exact Cancels.nothing rfl rfl rfl
  | cons n entries ih => exact (Cancels.settle s n).trans (ih _)

theorem State.cancelAll_unchanged {β : Type} (g : State → β) (h : ∀ s n, g (State.settle n .cancelled 0 s) = g s) (entries : List Nat)
    (s : State) : g (s.cancelAll entries) = g s := List.foldl_unchanged g h entries s

section
variable (entries : List Nat) (s : State)

@[simp] theorem State.cancelAll_link : (s.cancelAll entries).link = s.link :=
  State.cancelAll_unchanged State.link (fun _ _ => rfl) _ _
@[simp] theorem State.cancelAll_timer : (s.cancelAll entries).timer = s.timer :=
  State.cancelAll_unchanged State.timer (fun _ _ => rfl) _ _
@[simp] theorem State.cancelAll_intake : (s.cancelAll entries).intake = s.intake :=
  State.cancelAll_unchanged State.intake (fun _ _ => rfl) _ _
@[simp] theorem State.cancelAll_assembler : (s.cancelAll entries).assembler = s.assembler :=
  State.cancelAll_unchanged State.assembler (fun _ _ => rfl) _ _
@[simp] theorem State.cancelAll_zoneLinks : (s.cancelAll entries).zoneLinks = s.zoneLinks :=
  State.cancelAll_unchanged State.zoneLinks (fun _ _ => rfl) _ _
@[simp] theorem State.cancelAll_retry : (s.cancelAll entries).retry = s.retry :=
  State.cancelAll_unchanged State.retry (fun _ _ => rfl) _ _

end

/-! ### The units at RESTARTING -/

theorem State.cancelRetries_eq (s : State) : s.cancelRetries =
    (s.cancelAll (s.retry.awaitSet.map AwaitElement.entry ++ s.retry.list.map RetryElement.entry)).withRetry
      { s.retry with awaitSet := [], list := [], announced := [] } := by
  show (s.cancelAll _).withRetry { (s.cancelAll _).retry with awaitSet := [], list := [], announced := [] } = _
  rw [State.cancelAll_retry]

theorem State.cancelHeld_eq (s : State) :
    s.cancelHeld = (s.cancelAll s.intake.holdList).withIntake { s.intake with holdList := [] } := by
  show (s.cancelAll _).withIntake { (s.cancelAll _).intake with holdList := [] } = _
  rw [State.cancelAll_intake]

theorem State.cancelAssembly_eq (s : State) : s.cancelAssembly =
    ((s.cancelAll (placedIn (s.assembler.offered.map OfferedFrame.frame) ++ placedIn s.assembler.openFrame ++
      s.assembler.allQueued)).withZoneLinks s.zoneLinks.withdrawAll).withAssembler
        { s.assembler with queues := [], missSkip := [], openFrame := none, offered := none } := by
  show ((s.cancelAll _).withZoneLinks (s.cancelAll _).zoneLinks.withdrawAll).withAssembler
    { (s.cancelAll _).assembler with queues := [], missSkip := [], openFrame := none, offered := none } = _
  rw [State.cancelAll_zoneLinks, State.cancelAll_assembler]

/-- Held entries that have settled leave nothing held to settle again. -/
theorem State.cancelHeldWhenDue_cancelHeld (s : State) : s.cancelHeld.cancelHeldWhenDue = s.cancelHeld := by
  have again : s.cancelHeld.cancelHeld = s.cancelHeld := by
    rw [State.cancelHeld_eq s.cancelHeld, State.cancelHeld_eq s]
    rfl
  unfold State.cancelHeldWhenDue
  split
  · exact again
  · rfl

end Sys2Proof.Machine
end

section
/-! SUPPORT. RESTART and the end of a restart, command by command (O55). -/

namespace Sys2Proof.Machine

/-! ### The units at RESTARTING, together (R80, R114, R169) -/

/-- The entries of the Retry Unit, which settle first. -/
def State.inRetry (s : State) : List Nat := s.retry.awaitSet.map AwaitElement.entry ++ s.retry.list.map RetryElement.entry

/-- The held entries that settle at once: all of them, unless a submission in progress may still create an entry. -/
def State.heldNow (s : State) : List Nat := if s.intake.mayCreate = 0 then s.intake.holdList else []

/-- The entries of the Frame Assembler, which settle last. -/
def State.inAssembly (s : State) : List Nat :=
  placedIn (s.assembler.offered.map OfferedFrame.frame) ++ placedIn s.assembler.openFrame ++ s.assembler.allQueued

theorem State.cancelHeldWhenDue_restarting {s : State} (h : s.link.partState = .restarting) : s.cancelHeldWhenDue =
    (s.cancelAll s.heldNow).withIntake { s.intake with holdList := if s.intake.mayCreate = 0 then [] else s.intake.holdList } := by
  unfold State.cancelHeldWhenDue State.heldNow
  by_cases none : s.intake.mayCreate = 0
  · rw [if_pos ⟨h, none⟩, if_pos none, if_pos none, State.cancelHeld_eq]
  · rw [if_neg (fun k => none k.2), if_neg none, if_neg none]
    rfl

/-- The state after the units have given up their entries, in the order of log 9. -/
def State.emptyUnits (s : State) : State := s.cancelRetries.cancelHeldWhenDue.cancelAssembly

section
variable {s : State} (h : s.link.partState = .restarting)
include h

/-- The steps of the three units, one upon another. -/
theorem State.emptyUnits_eq : s.emptyUnits = (((((((s.cancelAll s.inRetry).withRetry
    { s.retry with awaitSet := [], list := [], announced := [] }).cancelAll s.heldNow).withIntake
    { s.intake with holdList := if s.intake.mayCreate = 0 then [] else s.intake.holdList }).cancelAll s.inAssembly).withZoneLinks
    s.zoneLinks.withdrawAll).withAssembler
    { s.assembler with queues := [], missSkip := [], openFrame := none, offered := none }) := by
  have restarting : s.cancelRetries.link.partState = .restarting := by
    rw [State.cancelRetries_eq, State.withRetry_link, State.cancelAll_link, h]
  unfold State.emptyUnits
  rw [State.cancelAssembly_eq, State.cancelHeldWhenDue_restarting restarting, State.cancelRetries_eq]
  simp only [State.heldNow, State.inRetry, State.inAssembly, State.withIntake_assembler, State.withIntake_zoneLinks,
    State.cancelAll_assembler, State.cancelAll_zoneLinks, State.cancelAll_intake, State.withRetry_assembler,
    State.withRetry_zoneLinks, State.withRetry_intake]

/-- What stands in each unit then. -/
theorem State.emptyUnits_rest : s.emptyUnits.link = s.link ∧ s.emptyUnits.timer = s.timer ∧
    s.emptyUnits.intake = { s.intake with holdList := if s.intake.mayCreate = 0 then [] else s.intake.holdList } ∧
    s.emptyUnits.assembler = { s.assembler with queues := [], missSkip := [], openFrame := none, offered := none } ∧
    s.emptyUnits.zoneLinks = s.zoneLinks.withdrawAll ∧
    s.emptyUnits.retry = { s.retry with awaitSet := [], list := [], announced := [] } := by
  rw [State.emptyUnits_eq h]
  simp

theorem State.emptyUnits_cancels : Cancels s (s.inRetry ++ s.heldNow ++ s.inAssembly) s.emptyUnits := by
  rw [State.emptyUnits_eq h]
  have retry := (State.cancelAll_cancels s.inRetry s).withRetry { s.retry with awaitSet := [], list := [], announced := [] }
  have held := (retry.trans (State.cancelAll_cancels s.heldNow _)).withIntake
    { s.intake with holdList := if s.intake.mayCreate = 0 then [] else s.intake.holdList }
  exact ((held.trans (State.cancelAll_cancels s.inAssembly _)).withZoneLinks _).withAssembler _

end

/-! ### RESTART (R62, R169) -/

/-- The part in RESTARTING with its timer stopped, before the units give up their entries. -/
def State.stopForRestart (place : Nat) (t : State) : State :=
  (t.withLink { t.link with
    partState := .restarting, restart := some { place, settledBefore := t.charging.counts.ended } }).withTimer t.timer.stop

theorem exec_restart {s t : State} {place : Nat} {body : List Byte} (taken : s.takeOrder .restart = some (place, body, t)) :
    exec .restart s = .next (t.takeRestart place) := by
  show Host.Outcome.next (match s.takeOrder .restart with | none => s | some (place, _, taken) => taken.takeRestart place) = _
  rw [taken]

theorem State.takeRestart_refused {t : State} {code : ReplyCode} (h : t.restartRefusal = some code) (place : Nat) :
    t.takeRestart place = t.reply place code (.noLogRoom t.log.available t.store.occupancy) := by
  simp only [State.takeRestart, h]

theorem State.takeRestart_passed {t : State} (h : t.restartRefusal = none) (place : Nat) :
    t.takeRestart place = (t.stopForRestart place).emptyUnits.settleDown := by
  simp only [State.takeRestart, h]
  rfl

/-- The orders in progress that may still create an entry (R169). -/
theorem Intake.mayCreate_eq (i : Intake) : i.mayCreate = (match i.order with
    | some (.submit ..) => 1
    | some (.group _) => 1
    | _ => 0) := by
  unfold Intake.mayCreate
  cases i.order with
  | none => rfl
  | some o => cases o <;> rfl

theorem State.restartRefusal_running {t : State} (running : t.link.partState = .running) :
    t.restartRefusal = if t.log.available < t.store.occupancy + t.intake.mayCreate then some .logFull else none :=
  if_neg (fun h => h running)

/-! ### The drain and the end of the restart (R156, R170) -/

theorem State.drained_iff (s : State) : s.drained = true ↔ s.link.partState = .restarting ∧ s.store.occupancy = 0 ∧
    s.charging.settleList = [] ∧ s.intake.order = none ∧ s.cache.sweep = none := by
  simp [State.drained, and_assoc]

theorem exec_restartDrainDone (s : State) :
    exec .restartDrainDone s = .next (if s.drained then s.withCache { s.cache with sweep := some (.lines none 0 0 0) } else s) := rfl

theorem exec_restartComplete {s u : State} {written : Nat} (restarting : s.link.partState = .restarting)
    (ended : s.sweepEnd = some (none, written, u)) : exec .restartComplete s = .next (u.endRestart written).settleDown := by
  show Host.Outcome.next (match s.link.partState, s.sweepEnd with
    | .restarting, some (none, written, ended) => (ended.endRestart written).settleDown
    | _, _ => s) = _
  rw [restarting, ended]

theorem State.endRestart_some {s : State} {r : RestartOrder} (h : s.link.restart = some r) (written : Nat) :
    s.endRestart written = (({ s.recordAllDue with
      monitor := s.recordAllDue.monitor.afterRestart
      link := { s.recordAllDue.link with partState := .config, restart := none } } : State).reply r.place .ok
        (.restarted (s.charging.counts.ended - r.settledBefore) s.log.nextSequence written)) := by
  unfold State.endRestart
  rw [h]
  dsimp only
  generalize s.recordAllDue = due
  generalize due.monitor.afterRestart = m
  rfl

/-! ### What recording leaves of the fault settings -/

theorem State.record_settings (z : Nat) (c : Condition) (s : State) : (s.record z c).monitor.settings = s.monitor.settings := by
  unfold State.record
  dsimp only
  split
  · rw [(State.notice_quiet _ _).settled.monitor]
    rfl
  · rfl

theorem State.occurrence_settings (z : Nat) (c : Condition) (s : State) :
    (s.occurrence z c).monitor.settings = s.monitor.settings := by
  unfold State.occurrence
  split
  · rfl
  · dsimp only
    split
    · exact State.record_settings _ _ _
    · rfl

theorem State.recordDue_settings (z : Nat) (s : State) : (s.recordDue z).monitor.settings = s.monitor.settings := by
  have untaken : (s.recordUntaken z).monitor.settings = s.monitor.settings := by
    unfold State.recordUntaken
    split
    · exact State.occurrence_settings _ _ _
    · rfl
  refine Eq.trans ?_ untaken
  unfold State.recordDue State.recordSilent
  split
  · exact State.occurrence_settings _ _ _
  · rfl

theorem State.recordAllDue_settings (s : State) : s.recordAllDue.monitor.settings = s.monitor.settings := by
  unfold State.recordAllDue
  exact List.foldl_unchanged (fun u : State => u.monitor.settings) (fun u z => State.recordDue_settings z u) _ s

theorem Zone.afterRestart_eq (v : Zone) : v.afterRestart = { v with
    state := if v.state = .unconfigured then .unconfigured else .inService
    faults := 0, untakenRun := 0, silence := 0, arrival := false, untakenDue := false, silentDue := false } := rfl

/-- The Zone Monitor at the end of a restart: its settings stand, and every zone is taken through it. -/
theorem Monitor.afterRestart_spec (m : Monitor) : m.afterRestart.settings = m.settings ∧
    ∀ z, z < 16 → m.afterRestart.zone z = (m.zone z).afterRestart := by
  have mem : ∀ z, z < 16 → z ∈ List.range Config.zones := fun z h => List.mem_range.2 h
  have fold := Monitor.foldl_afterRestart (List.range Config.zones) List.nodup_range m
  unfold Monitor.afterRestart
  generalize List.range Config.zones = zones at mem fold
  obtain ⟨settings, zone⟩ := fold
  exact ⟨settings, fun z h => (zone z).trans (if_pos (mem z h))⟩

/-! ### The part states change (O55) -/

/-- START by its checks in order, and what it begins (R61, R168). -/
theorem exec_start_checked {s t : State} {place : Nat} {body : List Byte} (taken : s.takeOrder .start = some (place, body, t)) :
    let served : Prop := ∃ z, z < 16 ∧ (t.monitor.zone z).state = .inService
    let initialising : Prop := ∃ p next last written, t.cache.sweep = some (.records p next last written)
    (t.link.partState ≠ .config → exec .start s = .next (t.reply place .wrongState .none)) ∧
    (t.link.partState = .config → (t.cache.addressBase = none ∨ ¬served) → exec .start s = .next (t.reply place .badValue .none)) ∧
    (t.link.partState = .config → t.cache.addressBase ≠ none → served → initialising →
      exec .start s = .next (t.reply place .busy .none)) ∧
    (t.link.partState = .config → t.cache.addressBase ≠ none → served → ¬initialising →
      exec .start s = .next (t.begin.reply place .ok
        (.started t.timer.running.length t.timer.running.ackDelay t.timer.running.source t.monitor.inService))) := by
  intro served initialising
  have refused {code : ReplyCode} (h : t.startRefusal = some code) : exec .start s = .next (t.reply place code .none) := by
    rw [exec_start taken, startAct_refused h]
  have idle := Monitor.inService_eq_zero_iff t.monitor
  have sweeping := Cache.initialising_iff t.cache
  refine ⟨fun outside => ?_, fun config => ?_, fun config based someone busy => ?_, fun config based someone free => ?_⟩
  · exact refused (if_pos outside)
  · rintro (unset | noone)
    · exact refused (by rw [State.startRefusal_config config, if_pos unset])
    · exact refused (by rw [State.startRefusal_config config, if_pos (idle.2 noone), ite_self])
  · exact refused (by
      rw [State.startRefusal_config config, if_neg based, if_neg (fun none => idle.1 none someone), if_pos (sweeping.2 busy)])
  · have passed : t.startRefusal = none := by
      rw [State.startRefusal_config config, if_neg based, if_neg (fun none => idle.1 none someone),
        if_neg (fun h => free (sweeping.1 h))]
    rw [exec_start taken, startAct_passed passed]

/-- The end of a restart, its sweep having ended and touched neither the orders, the counts, the log nor the zones (R156, R170). -/
theorem exec_restartComplete_ended {s u : State} {written : Nat} {r : RestartOrder} (restarting : s.link.partState = .restarting)
    (order : s.link.restart = some r) (ended : s.sweepEnd = some (none, written, u)) (link : u.link = s.link)
    (charging : u.charging = s.charging) (log : u.log = s.log) (monitor : u.monitor = s.monitor) :
    let due : State := u.recordAllDue;
    ∃ m : Monitor, exec .restartComplete s = .next ((({ due with
        monitor := m
        link := { due.link with partState := .config, restart := none } } : State).reply r.place .ok
          (.restarted (s.charging.counts.ended - r.settledBefore) s.log.nextSequence written)).settleDown) ∧
      m.settings = s.monitor.settings ∧ m.summary = 0 ∧ m.first = none ∧
      (∀ z, z < 16 →
        let v := due.monitor.zone z;
        m.zone z = { v with
          state := if v.state = .unconfigured then .unconfigured else .inService
          faults := 0, untakenRun := 0, silence := 0, arrival := false, untakenDue := false, silentDue := false }) := by
  intro due
  obtain ⟨settings, zones⟩ := Monitor.afterRestart_spec due.monitor
  refine ⟨due.monitor.afterRestart, ?_, ?_, rfl, rfl, fun z place => (zones z place).trans (Zone.afterRestart_eq _)⟩
  · rw [exec_restartComplete restarting ended, State.endRestart_some (link ▸ order), charging, log]
  · rw [settings, State.recordAllDue_settings, monitor]

/-- Settles O55: the checks of START and RESTART, the entries the units give up, and the end of the sweep. -/
theorem partStatesChange : Obligations.PartStatesChange := by
  refine ⟨?_, ?_, ?_, ?_, ?_⟩
  · intro s t place body taken served initialising begun
    exact exec_start_checked taken
  · intro s t place body taken mayCreate places g last running placed cancelled
    have order := exec_restart taken
    have create : t.intake.mayCreate = mayCreate := Intake.mayCreate_eq t.intake
    refine ⟨fun outside => ?_, fun isRunning short => ?_, fun isRunning room => ?_⟩
    · rw [order, State.takeRestart_refused (if_pos outside)]
      rfl
    · rw [order, State.takeRestart_refused (by rw [State.restartRefusal_running isRunning, create]; exact if_pos short)]
      rfl
    · have passed : t.restartRefusal = none := by
        rw [State.restartRefusal_running isRunning, create]
        exact if_neg (Nat.not_lt.2 room)
      have restarting : (t.stopForRestart place).link.partState = .restarting := rfl
      obtain ⟨link, timer, intake, assembler, zoneLinks, retry⟩ := State.emptyUnits_rest restarting
      have cancels := State.emptyUnits_cancels restarting
      have all : (t.stopForRestart place).inRetry ++ (t.stopForRestart place).heldNow ++ (t.stopForRestart place).inAssembly =
          cancelled := by
        have held : (t.stopForRestart place).heldNow = if mayCreate = 0 then t.intake.holdList else [] := by
          rw [← create]
          rfl
        have inFrame : placed = placedIn := by
          funext f
          cases f <;> rfl
        rw [held, State.inRetry, State.inAssembly]
        simp only [cancelled, inFrame, List.append_assoc]
        rfl
      rw [all] at cancels
      refine ⟨(t.stopForRestart place).emptyUnits, ?_, ?_, ?_, ?_, ?_, ?_, ?_, ?_, ?_, ?_, ?_, ?_, ?_, cancels.settleList,
        cancels.settles, cancels.others⟩
      · rw [order, State.takeRestart_passed passed]
      · rw [link]; rfl
      · rw [link]; rfl
      · rw [timer]; rfl
      · rw [intake, ← create]; rfl
      · rw [assembler]; intro k; rfl
      · rw [assembler]
      · rw [assembler]
      · rw [assembler]
      · rw [zoneLinks]; rfl
      · rw [retry]
      · rw [retry]
      · rw [retry]
  · intro s restarting none cancelled
    have due : s.cancelHeldWhenDue = s.cancelHeld := if_pos ⟨restarting, none⟩
    have held : ({ cancelled with intake := { cancelled.intake with holdList := [] } } : State) = s.cancelHeld := rfl
    rw [held, State.settleDown, State.settleDown, State.cancelHeldWhenDue_cancelHeld, due]
  · intro s drained
    refine ⟨fun done => ?_, fun live => ?_⟩
    · rw [exec_restartDrainDone, if_pos ((State.drained_iff s).2 done)]
      rfl
    · rw [exec_restartDrainDone, if_neg (fun done => live ((State.drained_iff s).1 done))]
  · intro s u next written r restarting visited order ended
    rcases ended with ⟨sweep, hu⟩ | ⟨sweep, n, record, rest, inside, port, hu⟩
    · have swept : s.sweepEnd = some (none, written, u) := hu ▸ State.sweepEnd_none visited sweep
      exact exec_restartComplete_ended restarting order swept (by rw [hu]) (by rw [hu]) (by rw [hu]) (by rw [hu])
    · have swept : s.sweepEnd = some (none, written, u) :=
        hu ▸ State.sweepEnd_last visited sweep inside ⟨[], by simp, port, rfl⟩
      exact exec_restartComplete_ended restarting order swept (by rw [hu]) (by rw [hu]) (by rw [hu]) (by rw [hu])

end Sys2Proof.Machine
end

section
/-! SUPPORT. Sets of zones by their members, and the zone mask (O46). -/

namespace Sys2Proof.Machine

/-! ### Sets of zones by their members -/

namespace ZoneSet

theorem has_and (a b : ZoneSet) (w : Nat) : has (a &&& b) w = (has a w && has b w) := BitVec.getLsbD_and

theorem has_or (a b : ZoneSet) (w : Nat) : has (a ||| b) w = (has a w || has b w) := BitVec.getLsbD_or

@[simp] theorem has_zero (w : Nat) : has 0 w = false := BitVec.getLsbD_zero

theorem lt_of_has {set : ZoneSet} {w : Nat} (h : has set w = true) : w < 16 := BitVec.lt_of_getLsbD h

theorem ne_zero_iff (set : ZoneSet) : set ≠ 0 ↔ ∃ w, w < 16 ∧ has set w = true := by
  constructor
  · intro some
    by_contra none
    refine some (BitVec.eq_of_getLsbD_eq fun w hw => ?_)
    exact (Bool.eq_false_iff.2 fun h => none ⟨w, hw, h⟩).trans (has_zero w).symm
  · rintro ⟨w, -, h⟩ rfl
    rw [has_zero] at h
    exact absurd h (by decide)

theorem eq_zero_iff (set : ZoneSet) : set = 0 ↔ ∀ w, w < 16 → has set w = false := by
  rw [← not_iff_not, ← ne_eq, ne_zero_iff]
  simp

/-- Two sets meet in some zone. -/
theorem and_ne_zero_iff (a b : ZoneSet) : a &&& b ≠ 0 ↔ ∃ w, w < 16 ∧ has a w = true ∧ has b w = true := by
  simp only [ne_zero_iff, has_and, Bool.and_eq_true]

/-- What a fold that gathers the zones of a list passing a test holds. -/
theorem has_foldl (p : Nat → Prop) [DecidablePred p] (l : List Nat) (set : ZoneSet) {w : Nat} (hw : w < 16) :
    has (l.foldl (fun set z => if p z then set ||| single z else set) set) w = true ↔
      has set w = true ∨ (w ∈ l ∧ p w) := by
  induction l generalizing set with
  | nil => simp
  | cons z l ih =>
    have one : has (if p z then set ||| single z else set) w = true ↔ has set w = true ∨ (w = z ∧ p w) := by
      split
      · rename_i h
        rw [has_or, has_single z w hw, Bool.or_eq_true, decide_eq_true_eq]
        exact or_congr_right ⟨fun e => ⟨e.symm, e ▸ h⟩, fun e => e.1.symm⟩
      · rename_i h
        exact ⟨.inl, fun k => k.elim id fun e => absurd (e.1 ▸ e.2) h⟩
    rw [List.foldl_cons, ih, one, List.mem_cons, or_assoc, ← or_and_right]

end ZoneSet

/-! ### The zone mask (R69) -/

section
variable {z : Nat} {neighbours inService : ZoneSet} {step : Nat}

/-- Z with its neighbours, as far as they are in service. -/
theorem ZoneSet.has_near (hz : z < 16) {w : Nat} :
    ZoneSet.has ((ZoneSet.single z ||| neighbours) &&& inService) w = true ↔
      (w = z ∨ ZoneSet.has neighbours w = true) ∧ ZoneSet.has inService w = true := by
  have single : ZoneSet.has (ZoneSet.single z) w = true ↔ w = z := by
    constructor
    · intro h
      rw [ZoneSet.has_single z w (ZoneSet.lt_of_has h)] at h
      exact (of_decide_eq_true h).symm
    · rintro rfl
      rw [ZoneSet.has_single w w hz]
      exact decide_eq_true rfl
  rw [ZoneSet.has_and, ZoneSet.has_or, Bool.and_eq_true, Bool.or_eq_true, single]

theorem ZoneSet.single_and_ne_zero_iff (hz : z < 16) :
    ZoneSet.single z &&& inService ≠ 0 ↔ ZoneSet.has inService z = true := by
  rw [ZoneSet.and_ne_zero_iff]
  constructor
  · rintro ⟨w, hw, own, served⟩
    rw [ZoneSet.has_single z w hw, decide_eq_true_eq] at own
    exact own ▸ served
  · exact fun served => ⟨z, hz, by rw [ZoneSet.has_single z z hz]; exact decide_eq_true rfl, served⟩

theorem zoneMask_alone (hz : z < 16) (first : step = 0) (served : ZoneSet.has inService z = true) :
    zoneMask z neighbours inService step = ZoneSet.single z &&& inService :=
  if_pos ⟨first, (ZoneSet.single_and_ne_zero_iff hz).2 served⟩

theorem zoneMask_not_alone (hz : z < 16) (h : ¬(step = 0 ∧ ZoneSet.has inService z = true)) :
    zoneMask z neighbours inService step =
      if step ≤ 1 ∧ (ZoneSet.single z ||| neighbours) &&& inService ≠ 0 then (ZoneSet.single z ||| neighbours) &&& inService
      else inService :=
  if_neg fun k => h ⟨k.1, (ZoneSet.single_and_ne_zero_iff hz).1 k.2⟩

/-- The mask is empty only with no zone in service. -/
theorem zoneMask_eq_zero_iff : zoneMask z neighbours inService step = 0 ↔ inService = 0 := by
  constructor
  · intro h
    unfold zoneMask at h
    dsimp only at h
    split at h
    · rename_i first
      exact absurd h first.2
    · split at h
      · rename_i second
        exact absurd h second.2
      · exact h
  · rintro rfl
    simp [zoneMask]

end

/-- Settles O46: the mask by the step it comes from. -/
theorem zoneMaskWidens : Obligations.ZoneMaskWidens := by
  constructor
  · intro z neighbours inService step hz mask near alone
    refine ⟨zoneMask_eq_zero_iff, ?_, ?_, ?_⟩
    · rintro ⟨first, served⟩ w hw
      simp only [mask]
      rw [zoneMask_alone hz first served, ZoneSet.has_and, ZoneSet.has_single z w hw, Bool.and_eq_true, decide_eq_true_eq]
      exact ⟨fun h => h.1.symm, fun e => ⟨e.symm, e ▸ served⟩⟩
    · rintro not low ⟨v, hv, some⟩ w -
      have second : (ZoneSet.single z ||| neighbours) &&& inService ≠ 0 :=
        (ZoneSet.ne_zero_iff _).2 ⟨v, hv, (ZoneSet.has_near hz).2 some⟩
      simp only [mask]
      rw [zoneMask_not_alone hz not, if_pos ⟨low, second⟩]
      exact ZoneSet.has_near hz
    · intro not far
      refine (zoneMask_not_alone hz not).trans (if_neg ?_)
      rintro ⟨low, second⟩
      obtain ⟨w, hw, h⟩ := (ZoneSet.ne_zero_iff _).1 second
      exact far.elim (fun high => absurd (high.trans low) (by decide)) fun none => none w hw ((ZoneSet.has_near hz).1 h)
  · intro level attempts
    rw [escalationStep, Nat.min_def]

end Sys2Proof.Machine
end

section
/-! SUPPORT. Block counts of a frame, and the displacement of placed entries by a level 0 page (for O47). -/

namespace Sys2Proof.Machine

/-! ### Sorting by insertion -/

/-- An element put between those it does not precede and those it precedes keeps a list in order. -/
theorem List.pairwise_insert_between {α : Type} {le : α → α → Prop} {a : α} {before after : List α}
    (trans : ∀ x ∈ after, ∀ y, le a x → le x y → le a y) (sorted : (before ++ after).Pairwise le)
    (behind : ∀ x ∈ before, le x a) (ahead : ∀ x ∈ after.head?, le a x) : (before ++ a :: after).Pairwise le := by
  obtain ⟨left, right, across⟩ := List.pairwise_append.1 sorted
  have aheadAll : ∀ x ∈ after, le a x := by
    cases after with
    | nil => exact fun x hx => absurd hx List.not_mem_nil
    | cons y after =>
      have first : le a y := ahead y rfl
      intro x hx
      rcases List.mem_cons.1 hx with rfl | hx
      · exact first
      · exact trans y List.mem_cons_self x first ((List.pairwise_cons.1 right).1 x hx)
  refine List.pairwise_append.2 ⟨left, List.pairwise_cons.2 ⟨aheadAll, right⟩, fun x hx y hy => ?_⟩
  rcases List.mem_cons.1 hy with rfl | hy
  · exact behind x hx
  · exact across x hx y hy

/-! ### Block counts (R70, R74) -/

/-- Changing the values under a list of keys, each standing once, changes those and no other. -/
theorem Table.get_foldl_set {α : Type} [DecidableEq α] (d : α) (g : α → α) (l : List Nat) (once : l.Nodup) (t : Table α) (n : Nat) :
    Table.get d (l.foldl (fun t k => Table.set d t k (g (Table.get d t k))) t) n =
      if n ∈ l then g (Table.get d t n) else Table.get d t n := by
  induction l generalizing t with
  | nil => rfl
  | cons k l ih =>
    obtain ⟨fresh, once⟩ := List.nodup_cons.1 once
    rw [List.foldl_cons, ih once, Table.get_set]
    by_cases own : k = n
    · subst own
      rw [if_pos rfl, if_neg fresh, if_pos List.mem_cons_self]
    · rw [if_neg own]
      exact if_congr (by simp [Ne.symm own]) rfl rfl

namespace Frame

variable (f : Frame) (mask : ZoneSet) (size : Nat)

/-- A page's size is added to the block count of every zone of its placed set and to no other (R70). -/
theorem block_addBlocks {z : Nat} (hz : z < 16) :
    (f.addBlocks mask size).block z = f.block z + (if ZoneSet.has mask z then size else 0) := by
  refine (Table.get_foldl_set 0 (· + size) _ (ZoneSet.nodup_toList mask) f.blocks z).trans ?_
  simp only [ZoneSet.mem_toList, hz, true_and]
  split <;> rfl

theorem block_remove (p : Placed) {z : Nat} (hz : z < 16) :
    (f.remove p).block z = f.block z - (if ZoneSet.has p.zones z then p.size else 0) := by
  refine (Frame.block_takeBlocks f p.zones p.size z).trans ?_
  simp only [hz, true_and]
  split <;> rfl

/-! ### Zones that lack room (R73) -/

theorem has_lacking {w : Nat} (hw : w < 16) : ZoneSet.has (f.lacking mask size) w = true ↔
    ZoneSet.has mask w = true ∧ 64 < f.block w + size := by
  refine (ZoneSet.has_foldl (fun z => Config.blocksPerZone < f.block z + size) _ 0 hw).trans ?_
  simp only [ZoneSet.has_zero, Bool.false_eq_true, false_or, ZoneSet.mem_toList, hw, true_and, Config.blocksPerZone]

theorem fits_iff : f.fits mask size = true ↔ ∀ w, w < 16 → ZoneSet.has (f.lacking mask size) w = false := by
  rw [Frame.fits, decide_eq_true_eq, ZoneSet.eq_zero_iff]

variable {f mask size}

/-- A page that leaves makes no zone lack room. -/
theorem lacking_of_remove {p : Placed} {w : Nat} (h : ZoneSet.has ((f.remove p).lacking mask size) w = true) :
    ZoneSet.has (f.lacking mask size) w = true := by
  have hw := ZoneSet.lt_of_has h
  rw [has_lacking _ _ _ hw] at h ⊢
  obtain ⟨own, short⟩ := h
  rw [block_remove f p hw] at short
  exact ⟨own, by omega⟩

/-! ### Displacing entries in their order (R73) -/

/-- A frame with placed entries removed one after another. -/
def removeAll (f : Frame) (gone : List Placed) : Frame := gone.foldl Frame.remove f

theorem lacking_of_removeAll {gone : List Placed} {w : Nat} (h : ZoneSet.has ((f.removeAll gone).lacking mask size) w = true) :
    ZoneSet.has (f.lacking mask size) w = true := by
  induction gone generalizing f with
  | nil => exact h
  | cons p gone ih => exact lacking_of_remove (ih h)

/-- An entry of no zone that lacks room is of none after others have left. -/
theorem spared_of_removeAll {gone : List Placed} {zones : ZoneSet} (h : zones &&& f.lacking mask size = 0) :
    zones &&& (f.removeAll gone).lacking mask size = 0 := by
  by_contra meets
  obtain ⟨w, hw, own, lacks⟩ := (ZoneSet.and_ne_zero_iff _ _).1 meets
  exact (ZoneSet.and_ne_zero_iff _ _).2 ⟨w, hw, own, lacking_of_removeAll lacks⟩ h

variable (mask size)

/-- Those of a list of placed entries that leave the frame, taken in order: an entry stands in a zone that still lacks room as its turn
comes. -/
def displaced (f : Frame) : List Placed → List Placed
  | [] => []
  | p :: l => if p.zones &&& f.lacking mask size = 0 then f.displaced l else p :: (f.remove p).displaced l

variable {mask size}

theorem displaced_spared {p : Placed} (h : p.zones &&& f.lacking mask size = 0) (l : List Placed) :
    f.displaced mask size (p :: l) = f.displaced mask size l := if_pos h

theorem displaced_leaves {p : Placed} (h : ¬p.zones &&& f.lacking mask size = 0) (l : List Placed) :
    f.displaced mask size (p :: l) = p :: (f.remove p).displaced mask size l := if_neg h

theorem displaced_sublist (l : List Placed) : (f.displaced mask size l).Sublist l := by
  induction l generalizing f with
  | nil => exact List.Sublist.refl _
  | cons p l ih =>
    by_cases h : p.zones &&& f.lacking mask size = 0
    · rw [displaced_spared h]
      exact ih.cons p
    · rw [displaced_leaves h]
      exact ih.cons_cons p

/-- Each that leaves stands in a zone that lacks room as it leaves. -/
theorem displaced_in_lacking {l before rest : List Placed} {p : Placed} (h : f.displaced mask size l = before ++ p :: rest) :
    p.zones &&& (f.removeAll before).lacking mask size ≠ 0 := by
  induction l generalizing f before with
  | nil => simp [displaced] at h
  | cons x l ih =>
    by_cases spared : x.zones &&& f.lacking mask size = 0
    · exact ih ((displaced_spared spared l).symm.trans h)
    · rw [displaced_leaves spared] at h
      cases before with
      | nil =>
        obtain ⟨rfl, -⟩ := List.cons.inj h
        exact spared
      | cons y before =>
        obtain ⟨rfl, others⟩ := List.cons.inj h
        exact ih (f := f.remove x) others

/-- One passed over before another leaves is in no zone that still lacks room: it stands earlier in the order, `first` of the two. -/
theorem displaced_passed_over {first : Placed → Placed → Prop} {l before rest : List Placed} {p q : Placed}
    (sorted : l.Pairwise (fun x y => ¬first y x)) (own : ¬first p p) (h : f.displaced mask size l = before ++ p :: rest)
    (hq : q ∈ l) (kept : q ∉ before) (earlier : first q p) : q.zones &&& (f.removeAll before).lacking mask size = 0 := by
  induction l generalizing f before with
  | nil => exact absurd hq List.not_mem_nil
  | cons x l ih =>
    obtain ⟨head, tail⟩ := List.pairwise_cons.1 sorted
    by_cases spared : x.zones &&& f.lacking mask size = 0
    · rcases List.mem_cons.1 hq with rfl | hq
      · exact spared_of_removeAll spared
      · exact ih tail ((displaced_spared spared l).symm.trans h) hq kept
    · rw [displaced_leaves spared] at h
      cases before with
      | nil =>
        obtain ⟨rfl, -⟩ := List.cons.inj h
        rcases List.mem_cons.1 hq with rfl | hq
        · exact absurd earlier own
        · exact absurd earlier (head q hq)
      | cons y before =>
        obtain ⟨rfl, others⟩ := List.cons.inj h
        rw [List.mem_cons, not_or] at kept
        exact ih (f := f.remove x) tail others ((List.mem_cons.1 hq).resolve_left kept.1) kept.2

theorem sizesIn_cons (p : Placed) (l : List Placed) (w : Nat) :
    sizesIn (p :: l) w = (if ZoneSet.has p.zones w then p.size else 0) + sizesIn l w := by
  unfold sizesIn
  rw [List.filter_cons]
  split <;> simp

/-- A zone that lacks room to the end has lost every page of the list placed in it. -/
theorem block_of_lacking_at_end {l : List Placed} {w : Nat}
    (h : ZoneSet.has ((f.removeAll (f.displaced mask size l)).lacking mask size) w = true) :
    (f.removeAll (f.displaced mask size l)).block w = f.block w - sizesIn l w := by
  have hw := ZoneSet.lt_of_has h
  induction l generalizing f with
  | nil => rfl
  | cons x l ih =>
    rw [sizesIn_cons]
    by_cases spared : x.zones &&& f.lacking mask size = 0
    · rw [displaced_spared spared] at h ⊢
      have out : ¬ZoneSet.has x.zones w = true := fun own =>
        (ZoneSet.and_ne_zero_iff _ _).2 ⟨w, hw, own, lacking_of_removeAll h⟩ spared
      rw [if_neg out, Nat.zero_add]
      exact ih h
    · rw [displaced_leaves spared] at h ⊢
      have rest := ih (f := f.remove x) h
      rw [block_remove f x hw, Nat.sub_sub] at rest
      exact rest

/-- Where the page would fit with the whole list gone, it fits once the displacement has gone through it (R73). -/
theorem fits_after_displaced {l : List Placed}
    (room : ∀ w, w < 16 → ZoneSet.has (f.lacking mask size) w = true → f.block w - sizesIn l w + size ≤ 64) :
    (f.removeAll (f.displaced mask size l)).fits mask size = true := by
  rw [fits_iff]
  intro w hw
  by_contra lacks
  rw [Bool.not_eq_false] at lacks
  have short := ((has_lacking _ _ _ hw).1 lacks).2
  rw [block_of_lacking_at_end lacks] at short
  exact absurd (room w hw (lacking_of_removeAll lacks)) (Nat.not_le.2 short)

end Frame

/-! ### The eviction order (R73) -/

theorem evictBefore_iff (t : Store) (p q : Placed) : evictBefore t p q = true ↔
    t.levelOf q.entry < t.levelOf p.entry ∨
      (t.levelOf p.entry = t.levelOf q.entry ∧ t.admissionOf q.entry < t.admissionOf p.entry) := by
  simp only [evictBefore, Bool.or_eq_true, Bool.and_eq_true, decide_eq_true_eq]

/-- Not to be evicted before another is to be of a lower level, or of the same and no higher admission sequence. -/
theorem not_evictBefore_iff (t : Store) (p q : Placed) : ¬evictBefore t q p = true ↔
    t.levelOf q.entry < t.levelOf p.entry ∨
      (t.levelOf q.entry = t.levelOf p.entry ∧ t.admissionOf q.entry ≤ t.admissionOf p.entry) := by
  rw [evictBefore_iff, ← BitVec.not_lt, not_or, not_and, Nat.not_lt, Nat.le_iff_lt_or_eq]
  constructor
  · rintro ⟨low | same, not⟩
    · exact .inl low
    · exact .inr ⟨same, not same⟩
  · rintro (low | ⟨same, not⟩)
    · exact ⟨.inl low, fun same => absurd same (Nat.ne_of_lt low)⟩
    · exact ⟨.inr same, fun _ => not⟩

theorem not_evictBefore_trans {t : Store} {p q r : Placed} (h : ¬evictBefore t q p = true) (k : ¬evictBefore t r q = true) :
    ¬evictBefore t r p = true := by
  rw [not_evictBefore_iff] at h k ⊢
  rcases h with h | ⟨h, ha⟩ <;> rcases k with k | ⟨k, ka⟩
  · exact .inl (k.trans h)
  · exact .inl (k ▸ h)
  · exact .inl (h ▸ k)
  · exact .inr ⟨k.trans h, BitVec.le_trans ka ha⟩

theorem not_evictBefore_of_before {t : Store} {p q : Placed} (h : evictBefore t p q = true) : ¬evictBefore t q p = true := by
  rw [evictBefore_iff] at h
  rw [not_evictBefore_iff]
  exact h.imp id fun k => ⟨k.1.symm, BitVec.le_of_lt k.2⟩

theorem insertEviction_split (t : Store) (p : Placed) (l : List Placed) : ∃ before after, l = before ++ after ∧
    insertEviction t p l = before ++ p :: after ∧ (∀ q ∈ before, ¬evictBefore t p q = true) ∧
    ∀ q ∈ after.head?, evictBefore t p q = true := by
  induction l with
  | nil => exact ⟨[], [], rfl, rfl, by simp, by simp⟩
  | cons q l ih =>
    by_cases hq : evictBefore t p q = true
    · exact ⟨[], q :: l, rfl, if_pos hq, by simp, by simpa using hq⟩
    · obtain ⟨before, after, rfl, joined, behind, ahead⟩ := ih
      refine ⟨q :: before, after, rfl, ?_, List.forall_mem_cons.2 ⟨hq, behind⟩, ahead⟩
      rw [insertEviction, if_neg hq, joined, List.cons_append]

/-- The order of the eviction: none stands behind one it is to be evicted before. -/
def Store.EvictionSorted (t : Store) (l : List Placed) : Prop := l.Pairwise (fun p q => ¬evictBefore t q p = true)

theorem insertEviction_sorted {t : Store} {p : Placed} {l : List Placed} (sorted : t.EvictionSorted l) :
    (insertEviction t p l).Perm (p :: l) ∧ t.EvictionSorted (insertEviction t p l) := by
  obtain ⟨before, after, rfl, joined, behind, ahead⟩ := insertEviction_split t p l
  rw [joined]
  exact ⟨List.perm_middle, List.pairwise_insert_between (fun _ _ _ => not_evictBefore_trans) sorted behind
    fun q hq => not_evictBefore_of_before (ahead q hq)⟩

/-- The eviction order holds the entries given, in that order. -/
theorem evictionOrder_spec (t : Store) (l : List Placed) : (evictionOrder t l).Perm l ∧ t.EvictionSorted (evictionOrder t l) := by
  have fold : ∀ (l acc : List Placed), t.EvictionSorted acc →
      (l.foldl (fun acc p => insertEviction t p acc) acc).Perm (l ++ acc) ∧
        t.EvictionSorted (l.foldl (fun acc p => insertEviction t p acc) acc) := by
    intro l
    induction l with
    | nil => exact fun acc sorted => ⟨List.Perm.refl _, sorted⟩
    | cons p l ih =>
      intro acc sorted
      obtain ⟨perm, sorted⟩ := insertEviction_sorted (p := p) sorted
      obtain ⟨whole, order⟩ := ih _ sorted
      exact ⟨(whole.trans (perm.append_left l)).trans List.perm_middle, order⟩
  have whole := fold l [] List.Pairwise.nil
  rw [List.append_nil] at whole
  exact whole

theorem sizesIn_perm {l m : List Placed} (h : l.Perm m) (w : Nat) : sizesIn l w = sizesIn m w :=
  ((h.filter _).map _).sum_eq

/-! ### Displacement carried out (R73, R74) -/

theorem State.fileQuietly_openFrame (n : Nat) (s : State) : (s.fileQuietly n).assembler.openFrame = s.assembler.openFrame := by
  unfold State.fileQuietly
  split
  · rfl
  · split <;> rfl

theorem State.displace_open {s : State} {f : Frame} (open_ : s.assembler.openFrame = some f) (p : Placed) :
    s.displace p = ((s.withOpen (some (f.remove p))).fileQuietly p.entry).countAssembly
      (fun c => { c with displacements := c.displacements + 1 }) := by
  simp only [State.displace, open_]

theorem State.displace_openFrame {s : State} {f : Frame} (open_ : s.assembler.openFrame = some f) (p : Placed) :
    (s.displace p).assembler.openFrame = some (f.remove p) := by
  rw [State.displace_open open_]
  exact State.fileQuietly_openFrame _ _

/-- Displaces placed entries one after another. -/
def State.displaceAll (gone : List Placed) (s : State) : State := gone.foldl (fun u p => u.displace p) s

theorem State.displaceAll_openFrame {s : State} {f : Frame} (open_ : s.assembler.openFrame = some f) (gone : List Placed) :
    (s.displaceAll gone).assembler.openFrame = some (f.removeAll gone) := by
  induction gone generalizing s f with
  | nil => exact open_
  | cons p gone ih => exact ih (State.displace_openFrame open_ p)

/-- A page that fits leaves no zone lacking, so that one test decides an eviction. -/
theorem State.evictFor_open {s : State} {f : Frame} (open_ : s.assembler.openFrame = some f) (mask : ZoneSet) (size : Nat)
    (p : Placed) : s.evictFor mask size p = if p.zones &&& f.lacking mask size = 0 then s else s.displace p := by
  simp only [State.evictFor, open_, Frame.fits, Bool.or_eq_true, decide_eq_true_eq]
  refine if_congr ⟨fun h => h.elim (fun fits => ?_) id, .inr⟩ rfl rfl
  rw [fits]
  exact BitVec.and_zero

/-- The eviction displaces exactly those the frame's block counts call for. -/
theorem State.foldl_evictFor {s : State} {f : Frame} (open_ : s.assembler.openFrame = some f) (mask : ZoneSet) (size : Nat)
    (l : List Placed) : l.foldl (fun u p => u.evictFor mask size p) s = s.displaceAll (f.displaced mask size l) := by
  induction l generalizing s f with
  | nil => rfl
  | cons p l ih =>
    rw [List.foldl_cons, State.evictFor_open open_]
    by_cases spared : p.zones &&& f.lacking mask size = 0
    · rw [if_pos spared, Frame.displaced_spared spared, ih open_]
    · rw [if_neg spared, Frame.displaced_leaves spared, ih (State.displace_openFrame open_ p)]
      rfl

end Sys2Proof.Machine
end

section
/-! SUPPORT. Entries tried, placed, deferred and displaced, and the walk of the open frame (O47). -/

namespace Sys2Proof.Machine

/-! ### An entry slot read after it is written -/

theorem Store.entry_setEntry_same (t : Store) (n : Nat) (v : Option Entry) : (t.setEntry n v).entry n = v :=
  (Store.entry_setEntry t n n v).trans (if_pos rfl)

theorem Store.entry_setEntry_other (t : Store) {n m : Nat} (v : Option Entry) (h : m ≠ n) : (t.setEntry n v).entry m = t.entry m :=
  (Store.entry_setEntry t n m v).trans (if_neg (Ne.symm h))

/-! ### Placing an entry (R70) -/

/-- The open frame once it has taken an entry up. -/
def Frame.place (f : Frame) (n : Nat) (e : Entry) (r : Record) (mask : ZoneSet) : Frame :=
  let tag := f.nextTag e.sub r.airTag
  { (f.addBlocks mask e.size).countTag e.sub tag with
    placed := f.placed ++ [{ entry := n, sub := e.sub, zones := mask, size := e.size, tag, mode := r.host.mode }] }

theorem Frame.block_place (f : Frame) (n : Nat) (e : Entry) (r : Record) (mask : ZoneSet) {z : Nat} (hz : z < 16) :
    (f.place n e r mask).block z = f.block z + (if ZoneSet.has mask z then 1 + e.blocks else 0) :=
  f.block_addBlocks mask e.size hz

theorem Frame.tally_place (f : Frame) (n : Nat) (e : Entry) (r : Record) (mask : ZoneSet) :
    (f.place n e r mask).tally.find? (fun x => x.sub == e.sub) =
      some { sub := e.sub, drawn := f.drawn e.sub + 1, last := f.nextTag e.sub r.airTag } :=
  List.find?_cons_of_pos (beq_iff_eq.2 rfl)

theorem Frame.nextTag_undrawn {f : Frame} {sub : Nat} (h : f.tally.find? (fun x => x.sub == sub) = none) (airTag : BitVec 4) :
    f.nextTag sub airTag = airTag + 1 := by
  simp only [Frame.nextTag, Frame.tallyOf, h]

theorem Frame.nextTag_drawn {f : Frame} {sub : Nat} {x : Tally} (h : f.tally.find? (fun x => x.sub == sub) = some x)
    (airTag : BitVec 4) : f.nextTag sub airTag = x.last + 1 := by
  simp only [Frame.nextTag, Frame.tallyOf, h]

/-- Leaving a queue changes the queues alone. -/
theorem State.leaveQueue_frame (s : State) (n : Nat) :
    s.leaveQueue n = s.withAssembler { s.assembler with queues := (s.leaveQueue n).assembler.queues } := by
  unfold State.leaveQueue
  split <;> rfl

theorem State.leaveQueue_unfound {s : State} {n : Nat} (h : s.assembler.queues.find? (fun x => x.2.contains n) = none) :
    s.leaveQueue n = s := by
  simp only [State.leaveQueue, h]

theorem State.leaveQueue_found {s : State} {n : Nat} {q : Nat × List Nat}
    (h : s.assembler.queues.find? (fun x => x.2.contains n) = some q) :
    s.leaveQueue n = s.withAssembler (s.assembler.setQueue q.1 (q.2.erase n)) := by
  simp only [State.leaveQueue, h]

/-- The state as an entry is placed, its placement update still to be posted. -/
theorem State.place_open {s : State} {f : Frame} (open_ : s.assembler.openFrame = some f) (n : Nat) (e : Entry) (r : Record)
    (mask : ZoneSet) : s.place n e r mask =
      ({ s with
        store := s.store.changeEntry n (fun e' => { e' with state := .placed, airTag := some (f.nextTag e.sub r.airTag) })
        assembler := { s.assembler with
          queues := (s.leaveQueue n).assembler.queues, openFrame := some (f.place n e r mask) } } : State).post e.sub
        (.update (.placement (f.nextTag e.sub r.airTag)
          (if r.unreachable then some (f.cycle + BitVec.ofNat 32 s.retry.probeInterval) else none))) := by
  simp only [State.place, open_]
  rw [State.leaveQueue_frame]
  rfl

/-! ### Steps c and d (R67, R71, R72) -/

section
variable {s : State} {n : Nat} {e : Entry} {f : Frame} {r : Record} (late : Bool)

theorem State.tryWithRecord_unmasked (h : s.maskFor e r = 0) : s.tryWithRecord late n e f r =
    s.countAssembly (fun c => { c with emptyMaskSkips := c.emptyMaskSkips + 1 }) := if_pos h

theorem State.tryWithRecord_fits (masked : s.maskFor e r ≠ 0) (fits : f.fits (s.maskFor e r) e.size = true) :
    s.tryWithRecord late n e f r = s.place n e r (s.maskFor e r) :=
  (if_neg masked).trans (if_pos fits)

/-- A page that lacks room somewhere has a mask. -/
theorem State.maskFor_ne_zero_of_lacks (lacks : ¬f.fits (s.maskFor e r) e.size = true) : s.maskFor e r ≠ 0 := by
  intro empty
  refine lacks ((f.fits_iff _ _).2 fun w hw => Bool.eq_false_iff.2 fun h => ?_)
  have own := ((f.has_lacking _ _ hw).1 h).1
  rw [empty, ZoneSet.has_zero] at own
  exact absurd own (by decide)

theorem State.tryWithRecord_defers (lacks : ¬f.fits (s.maskFor e r) e.size = true)
    (stays : ¬(late = true ∧ e.level = 0 ∧ f.canDisplace s.store (s.maskFor e r) e.size = true)) :
    s.tryWithRecord late n e f r = s.defer n := by
  refine ((if_neg (State.maskFor_ne_zero_of_lacks lacks)).trans (if_neg lacks)).trans (if_neg fun h => ?_)
  simp only [Bool.and_eq_true, decide_eq_true_eq] at h
  exact stays ⟨h.1.1, h.1.2, h.2⟩

/-- A late arrival of level 0 displaces what stands in its way, in eviction order, and is placed (R72, R73). -/
theorem State.tryWithRecord_displaces (open_ : s.assembler.openFrame = some f) (lacks : ¬f.fits (s.maskFor e r) e.size = true)
    (level : e.level = 0) (makesRoom : f.canDisplace s.store (s.maskFor e r) e.size = true) :
    s.tryWithRecord true n e f r = (s.displaceAll (f.displaced (s.maskFor e r) e.size
      (evictionOrder s.store (f.eligible s.store (f.lacking (s.maskFor e r) e.size))))).place n e r (s.maskFor e r) := by
  refine ((if_neg (State.maskFor_ne_zero_of_lacks lacks)).trans (if_neg lacks)).trans ((if_pos ?_).trans ?_)
  · simp only [Bool.and_eq_true, decide_eq_true_eq]
    exact ⟨⟨trivial, level⟩, makesRoom⟩
  · rw [State.foldl_evictFor open_]

/-! ### An entry tried (R67, R68) -/

theorem State.tryEntry_tagLimit (live : s.store.entry n = some e) (open_ : s.assembler.openFrame = some f) (spent : 4 ≤ f.drawn e.sub)
    (report : Option Record) : s.tryEntry late report n =
      s.countAssembly (fun c => { c with tagLimitSkips := c.tagLimitSkips + 1 }) := by
  simp only [State.tryEntry, live, open_, if_pos spent]

theorem State.tryEntry_report (live : s.store.entry n = some e) (open_ : s.assembler.openFrame = some f) (tags : f.drawn e.sub < 4)
    (r : Record) : s.tryEntry late (some r) n = (s.leaveMissSkip n).tryWithRecord late n e f r := by
  simp only [State.tryEntry, live, open_, if_neg (Nat.not_le.2 tags)]

theorem State.tryEntry_ready (live : s.store.entry n = some e) (open_ : s.assembler.openFrame = some f) (tags : f.drawn e.sub < 4)
    {u : State} (read : s.nonWaitingRead e.sub = (some r, u)) :
    s.tryEntry late none n = (u.leaveMissSkip n).tryWithRecord late n e f r := by
  simp only [State.tryEntry, live, open_, if_neg (Nat.not_le.2 tags), read]

theorem State.tryEntry_notReady (live : s.store.entry n = some e) (open_ : s.assembler.openFrame = some f) (tags : f.drawn e.sub < 4)
    {u : State} (read : s.nonWaitingRead e.sub = (none, u)) : s.tryEntry late none n = u.withAssembler { u.assembler with
      missSkip := u.assembler.missSkip.filter (fun m => decide (m.entry ≠ n)) ++ [{ entry := n, sub := e.sub, launch := f.launch }]
      counts := { u.assembler.counts with missSkips := u.assembler.counts.missSkips + 1 } } := by
  simp only [State.tryEntry, live, open_, if_neg (Nat.not_le.2 tags), read]
  rfl

end

/-! ### Room and its lack, as the rules say it (R67, R73) -/

section
variable (f : Frame) (t : Store) (mask : ZoneSet) (size : Nat)

/-- A zone of the mask that lacks room for the page (R73). -/
def Frame.lacksAt (f : Frame) (mask : ZoneSet) (size w : Nat) : Bool := ZoneSet.has mask w && decide (64 < f.block w + size)

theorem Frame.has_lacking_eq {w : Nat} (hw : w < 16) : ZoneSet.has (f.lacking mask size) w = f.lacksAt mask size w := by
  rw [Bool.eq_iff_iff, f.has_lacking mask size hw, Frame.lacksAt, Bool.and_eq_true, decide_eq_true_eq]

theorem Frame.fits_iff_lacksAt : f.fits mask size = true ↔ ∀ w, w < 16 → f.lacksAt mask size w = false :=
  (f.fits_iff mask size).trans (forall₂_congr fun w hw => by rw [f.has_lacking_eq mask size hw])

/-- A placed entry stands in a zone that lacks room. -/
theorem Frame.meets_lacking_iff (zones : ZoneSet) : zones &&& f.lacking mask size ≠ 0 ↔
    ∃ w, w < 16 ∧ ZoneSet.has zones w = true ∧ f.lacksAt mask size w = true :=
  (ZoneSet.and_ne_zero_iff _ _).trans (exists_congr fun w => and_congr_right fun hw => by rw [f.has_lacking_eq mask size hw])

/-- May be displaced: level 2 or 3, in a zone that lacks room (R73). -/
def Frame.mayDisplace (f : Frame) (t : Store) (mask : ZoneSet) (size : Nat) (p : Placed) : Bool :=
  decide (2 ≤ t.levelOf p.entry) && (List.range 16).any (fun w => ZoneSet.has p.zones w && f.lacksAt mask size w)

theorem Frame.eligible_eq : f.eligible t (f.lacking mask size) = f.placed.filter (f.mayDisplace t mask size) := by
  refine List.filter_congr fun p _ => congrArg _ ?_
  rw [Bool.eq_iff_iff, decide_eq_true_eq, f.meets_lacking_iff]
  simp only [List.any_eq_true, List.mem_range, Bool.and_eq_true]

/-- The test of R73: with all that may be displaced gone, the page has room in every zone that lacks it. -/
theorem Frame.canDisplace_iff : f.canDisplace t mask size = true ↔ ∀ w, w < 16 → f.lacksAt mask size w = true →
    f.block w - ((f.placed.filter (fun p => f.mayDisplace t mask size p && ZoneSet.has p.zones w)).map Placed.size).sum + size ≤ 64 := by
  have sizes : ∀ w, sizesIn (f.eligible t (f.lacking mask size)) w =
      ((f.placed.filter (fun p => f.mayDisplace t mask size p && ZoneSet.has p.zones w)).map Placed.size).sum := by
    intro w
    rw [f.eligible_eq, sizesIn, List.filter_filter]
    simp only [Bool.and_comm]
  simp only [Frame.canDisplace, List.all_eq_true, ZoneSet.mem_toList, decide_eq_true_eq, and_imp, sizes, Config.blocksPerZone]
  exact forall₂_congr fun w hw => by rw [f.has_lacking_eq mask size hw]

end

/-! ### Deferral and aging (R71) -/

section
variable {s : State} {n : Nat} {e : Entry} (live : s.store.entry n = some e)
include live

/-- An entry deferred and not aged: its deferral alone changes, and the count. -/
theorem State.defer_counts {deferral : Nat}
    (h : (e.deferral = 0 ∧ deferral = 1) ∨ (e.deferral ≠ 0 ∧ e.level ≤ 1 ∧ deferral = 0)) :
    s.defer n = { s with
      store := s.store.setEntry n (some { e with deferral })
      assembler := { s.assembler with
        counts := { s.assembler.counts with deferrals := s.assembler.counts.deferrals + 1 } } } := by
  have counted : ∀ c : AssemblyCounts → AssemblyCounts, (s.countAssembly c).store.entry n = some e := fun _ => live
  simp only [State.defer, counted]
  rcases h with ⟨first, rfl⟩ | ⟨second, low, rfl⟩
  · rw [if_pos (by omega), State.changeEntry, Store.changeEntry_of_some (counted _), first]
    rfl
  · rw [if_neg (by omega), if_pos low, State.changeEntry, Store.changeEntry_of_some (counted _)]
    rfl

/-- The second deferral of an entry of level 2 or 3 lowers its level, and it joins its queue anew. -/
theorem State.defer_ages (second : e.deferral ≠ 0) (high : 2 ≤ e.level) {q : Nat × List Nat}
    (found : s.assembler.queues.find? (fun x => x.2.contains n) = some q) :
    let store := s.store.setEntry n (some { e with deferral := 0, level := e.level - 1 })
    s.defer n = { s with
      store
      assembler := { s.assembler with
        queues := Table.set [] (Table.set [] s.assembler.queues q.1 (q.2.erase n)) q.1 (insertQueued store n (q.2.erase n))
        counts := { s.assembler.counts with
          deferrals := s.assembler.counts.deferrals + 1, agings := s.assembler.counts.agings + 1 } } } := by
  intro store
  have counted : ∀ c : AssemblyCounts → AssemblyCounts, (s.countAssembly c).store.entry n = some e := fun _ => live
  have queued : ∀ c : AssemblyCounts → AssemblyCounts,
      (s.countAssembly c).assembler.queues.find? (fun x => x.2.contains n) = some q := fun _ => found
  simp only [State.defer, counted, queued]
  rw [if_neg (by omega), if_neg (by omega), State.leaveQueue_found (queued _), State.changeEntry,
    Store.changeEntry_of_some (by exact live)]
  simp only [State.joinQueue, Assembler.queue, Assembler.setQueue, State.withAssembler_assembler, State.withStore_assembler,
    State.withStore_store, Table.get_set_same]
  rfl

end

/-- One entry does not stand behind another in frame-queue order: a lower level, or the same and no higher admission sequence (R64). -/
def Store.QueueLe (t : Store) (m n : Nat) : Prop := ∀ d e, t.entry m = some d → t.entry n = some e →
  d.level < e.level ∨ (d.level = e.level ∧ d.admission ≤ e.admission)

theorem Store.queueLe_of_not_before {t : Store} {m n : Nat} (h : queueBefore t n m = false) : t.QueueLe m n := by
  intro d e hd he
  have not := mt (queueBefore_iff he hd).2 (by rw [h]; decide)
  rcases Nat.lt_trichotomy d.level e.level with low | same | high
  · exact .inl low
  · exact .inr ⟨same, BitVec.not_lt.1 fun later => not (.inr ⟨same.symm, later⟩)⟩
  · exact absurd (.inl high) not

theorem Store.queueLe_of_before {t : Store} {m n : Nat} (h : queueBefore t n m = true) : t.QueueLe n m := by
  intro e d he hd
  exact ((queueBefore_iff he hd).1 h).imp id fun k => ⟨k.1, BitVec.le_of_lt k.2⟩

/-- An entry joins a queue behind those that do not stand behind it, and before the first it precedes (R64). -/
theorem insertQueued_place {t : Store} {n : Nat} {e : Entry} (own : t.entry n = some e) (l : List Nat) : ∃ before after,
    l = before ++ after ∧ insertQueued t n l = before ++ n :: after ∧
    (∀ m ∈ before, ∀ d, t.entry m = some d → d.level < e.level ∨ (d.level = e.level ∧ d.admission ≤ e.admission)) ∧
    ∀ m ∈ after.head?, ∀ d, t.entry m = some d → e.level < d.level ∨ (e.level = d.level ∧ e.admission < d.admission) := by
  obtain ⟨before, after, split, joined, behind, ahead⟩ := insertQueued_split t n l
  exact ⟨before, after, split, joined, fun m hm d hd => Store.queueLe_of_not_before (behind m hm) d e hd own,
    fun m hm d hd => (queueBefore_iff own hd).1 (ahead m hm)⟩

/-! ### Opening and walking a frame, filing into it, READY reports (R66, R68, R72) -/

theorem Timer.frameToOpen_below {t : Timer} (h : ¬t.running.length ≤ t.frameNumber + 2) :
    t.frameToOpen = emptyFrame (t.frameCount + 2) (t.frameNumber + 2) t.cycle := if_pos (Nat.not_le.1 h)

theorem Timer.frameToOpen_wraps {t : Timer} (h : t.running.length ≤ t.frameNumber + 2) :
    t.frameToOpen = emptyFrame (t.frameCount + 2) (t.frameNumber + 2 - t.running.length) (t.cycle + 1) := if_neg (Nat.not_lt.2 h)

/-- The frame opened at a frame start is empty and launches two frame starts later (R66). -/
theorem Timer.frameToOpen_fresh (t : Timer) : t.frameToOpen.launch = t.frameCount + 2 ∧ t.frameToOpen.placed = [] ∧
    t.frameToOpen.blocks = [] ∧ t.frameToOpen.tally = [] := by
  by_cases wraps : t.running.length ≤ t.frameNumber + 2
  · rw [Timer.frameToOpen_wraps wraps]
    exact ⟨rfl, rfl, rfl, rfl⟩
  · rw [Timer.frameToOpen_below wraps]
    exact ⟨rfl, rfl, rfl, rfl⟩

section
variable {s : State} {n : Nat} {e : Entry} {f : Frame} (live : s.store.entry n = some e) (open_ : s.assembler.openFrame = some f)
include live open_

theorem State.filingOutcome_none_iff :
    s.filingOutcome n = none ↔ s.link.partState ≠ .restarting ∧ f.cycle ≤ e.expiryCycle := by
  by_cases restarting : s.link.partState = .restarting
  · rw [State.filingOutcome_restarting restarting]
    simp [restarting]
  · obtain ⟨late, early⟩ := State.filingOutcome_served restarting live
    rw [and_iff_right restarting, ← BitVec.not_lt]
    constructor
    · intro none expired
      rw [late ⟨f, open_, expired⟩] at none
      cases none
    · refine fun inTime => early ?_
      rintro ⟨g, hg, expired⟩
      obtain rfl := Option.some.inj (open_.symm.trans hg)
      exact inTime expired

/-- An entry filed into the queue of the open frame is tried at once (R72). -/
theorem State.file_open : s.file n = if s.filingOutcome n = none ∧ f.number = s.homeFrame e.sub
    then (s.fileQuietly n).tryEntry true none n else s.fileQuietly n := by
  simp only [State.file, live, open_]
  cases s.filingOutcome n with
  | none => simp only [true_and]
  | some outcome => simp

end

theorem State.readyReport_closed {s : State} (h : s.assembler.openFrame = none) (sub : Nat) (r : Record) :
    s.readyReport sub r = s.withAssembler
      { s.assembler with missSkip := s.assembler.missSkip.filter (fun m => decide (m.sub ≠ sub)) } := by
  simp only [State.readyReport, h]

/-- At a READY report the entries the open frame skipped are tried on the record reported (R68). -/
theorem State.readyReport_open {s : State} {f : Frame} (h : s.assembler.openFrame = some f) (sub : Nat) (r : Record) :
    s.readyReport sub r = ((s.assembler.queue f.number).filter (fun n =>
        s.assembler.missSkip.any (fun m => m.sub == sub && m.entry == n && m.launch == f.launch))).foldl
      (fun u n => u.tryEntry true (some r) n)
      (s.withAssembler { s.assembler with missSkip := s.assembler.missSkip.filter (fun m => decide (m.sub ≠ sub)) }) := by
  simp only [State.readyReport, h, List.any_filter, Bool.and_assoc, Bool.beq_eq_decide_eq]

/-! ### The statement's parts, and O47 -/

/-- Placing an entry (R70). -/
theorem State.place_spec {s : State} {f : Frame} {n : Nat} {e : Entry} (open_ : s.assembler.openFrame = some f)
    (live : s.store.entry n = some e) (r : Record) (mask : ZoneSet) {tag : BitVec 4} (drawn : tag = f.nextTag e.sub r.airTag) :
    ∃ (t : State) (g : Frame),
      s.place n e r mask = t.post e.sub
        (.update (.placement tag (if r.unreachable then some (f.cycle + BitVec.ofNat 32 s.retry.probeInterval) else none))) ∧
      t = { s with store := { s.store with entries := t.store.entries }
                   assembler := { s.assembler with queues := (s.leaveQueue n).assembler.queues, openFrame := some g } } ∧
      t.store.entry n = some { e with state := .placed, airTag := some tag } ∧ (∀ m, m ≠ n → t.store.entry m = s.store.entry m) ∧
      g.placed = f.placed ++ [{ entry := n, sub := e.sub, zones := mask, size := 1 + e.blocks, tag, mode := r.host.mode }] ∧
      g.launch = f.launch ∧ g.number = f.number ∧ g.cycle = f.cycle ∧
      g.tally.find? (fun x => x.sub == e.sub) = some { sub := e.sub, drawn := f.drawn e.sub + 1, last := tag } ∧
      (∀ z, z < 16 → g.block z = f.block z + (if ZoneSet.has mask z then 1 + e.blocks else 0)) := by
  subst drawn
  refine ⟨_, f.place n e r mask, State.place_open open_ n e r mask, ?_, ?_, fun m hm => ?_, rfl, rfl, rfl, rfl,
    f.tally_place n e r mask, fun z hz => f.block_place n e r mask hz⟩
  · dsimp only
    rw [← Store.changeEntry_frame]
  · dsimp only
    rw [Store.entry_changeEntry, if_pos rfl, live]
    rfl
  · exact Store.entry_changeEntry_other _ _ (Ne.symm hm)

/-- The entries a late level 0 page displaces: which they are, in which order, and until when (R73). -/
theorem State.displaced_spec {s : State} {f : Frame} (open_ : s.assembler.openFrame = some f) {mask : ZoneSet} {size : Nat}
    (makesRoom : f.canDisplace s.store mask size = true) :
    let out := f.displaced mask size (evictionOrder s.store (f.eligible s.store (f.lacking mask size)))
    (∀ p ∈ out, p ∈ f.placed ∧ f.mayDisplace s.store mask size p = true) ∧
    out.Pairwise (fun p q => ¬evictBefore s.store q p = true) ∧
    (∀ before p rest, out = before ++ p :: rest → ∃ g w, (s.displaceAll before).assembler.openFrame = some g ∧ w < 16 ∧
      ZoneSet.has p.zones w = true ∧ g.lacksAt mask size w = true) ∧
    (∀ before p rest, out = before ++ p :: rest → ∀ g, (s.displaceAll before).assembler.openFrame = some g → ∀ q ∈ f.placed,
      f.mayDisplace s.store mask size q = true → q ∉ before → evictBefore s.store q p = true →
      ∀ w, w < 16 → ZoneSet.has q.zones w = true → g.lacksAt mask size w = false) ∧
    (∃ g, (s.displaceAll out).assembler.openFrame = some g ∧ ∀ w, w < 16 → g.lacksAt mask size w = false) := by
  intro out
  obtain ⟨perm, sorted⟩ := evictionOrder_spec s.store (f.eligible s.store (f.lacking mask size))
  have mem : ∀ p, p ∈ evictionOrder s.store (f.eligible s.store (f.lacking mask size)) ↔
      p ∈ f.placed ∧ f.mayDisplace s.store mask size p = true := fun p => by
    rw [perm.mem_iff, f.eligible_eq, List.mem_filter]
  have sublist : out.Sublist _ := Frame.displaced_sublist _
  have opened := fun gone : List Placed => State.displaceAll_openFrame open_ gone
  refine ⟨fun p hp => (mem p).1 (sublist.subset hp), sorted.sublist sublist, fun before p rest split => ?_,
    fun before p rest split g hg q placed may kept earlier w hw own => ?_, f.removeAll out, opened out, ?_⟩
  · obtain ⟨w, hw, own, lacks⟩ := (Frame.meets_lacking_iff _ mask size p.zones).1 (Frame.displaced_in_lacking split)
    exact ⟨_, w, opened before, hw, own, lacks⟩
  · obtain rfl := Option.some.inj ((opened before).symm.trans hg)
    have irreflexive : ¬evictBefore s.store p p = true := fun h => not_evictBefore_of_before h h
    have spared := Frame.displaced_passed_over (first := fun x y => evictBefore s.store x y = true) sorted irreflexive split
      ((mem q).2 ⟨placed, may⟩) kept earlier
    by_contra lacks
    exact (Frame.meets_lacking_iff _ mask size q.zones).2 ⟨w, hw, own, Bool.not_eq_false _ ▸ lacks⟩ spared
  · rw [← Frame.fits_iff_lacksAt]
    refine Frame.fits_after_displaced fun w hw lacks => ?_
    have room := (f.canDisplace_iff s.store mask size).1 makesRoom w hw ((f.has_lacking_eq mask size hw) ▸ lacks)
    rw [sizesIn_perm perm, f.eligible_eq, sizesIn, List.filter_filter]
    simpa only [Bool.and_comm] using room

/-- Settles O47: each outcome of a trial by the branch of the model that gives it. -/
theorem entryPlaced : Obligations.EntryPlaced := by
  refine ⟨?_, ?_, ?_, ?_, ?_, ?_⟩
  · intro s n e r mask f open_ live tag
    refine State.place_spec open_ live r mask ?_
    simp only [tag]
    cases drawn : f.tally.find? (fun x => x.sub == e.sub) with
    | none => exact (Frame.nextTag_undrawn drawn _).symm
    | some x => exact (Frame.nextTag_drawn drawn _).symm
  · intro s n a left
    refine ⟨State.leaveQueue_frame s n, State.leaveQueue_unfound, fun q found => ?_⟩
    simp only [left]
    rw [State.leaveQueue_found found]
    exact ⟨Table.get_set_same _ _ _ _, fun m hm => Table.get_set_other _ _ _ (Ne.symm hm)⟩
  · intro s n e f open_ live a k z mask size lacks room eligible makesRoom tried
    have fits : ∀ r, f.fits (s.maskFor e r) e.size = true ↔ room r f := fun r => f.fits_iff_lacksAt (s.maskFor e r) e.size
    have displaces : ∀ r, f.canDisplace s.store (s.maskFor e r) e.size = true ↔ makesRoom r := fun r =>
      f.canDisplace_iff s.store (s.maskFor e r) e.size
    refine ⟨fun spent late report => State.tryEntry_tagLimit late live open_ spent report, fun tags late => ⟨?_, ?_, ?_⟩,
      fun late r empty => State.tryWithRecord_unmasked late empty,
      fun late r masked fit => State.tryWithRecord_fits late masked ((fits r).2 fit), fun late r short stays => ?_,
      fun r short level makes => ?_, fun first => ?_, fun second low => ?_, fun second high q found => ?_⟩
    · exact fun r => State.tryEntry_report late live open_ tags r
    · exact fun r u read => State.tryEntry_ready late live open_ tags read
    · exact fun u read => State.tryEntry_notReady late live open_ tags read
    · refine State.tryWithRecord_defers late (fun fit => short ((fits r).1 fit)) ?_
      exact fun h => stays ⟨h.1, h.2.1, (displaces r).1 h.2.2⟩
    · have able := (displaces r).2 makes
      obtain ⟨members, sorted, needed, passedOver, fit⟩ := State.displaced_spec open_ able
      refine ⟨_, State.tryWithRecord_displaces open_ (fun fit => short ((fits r).1 fit)) level able, members, ?_, needed, ?_, fit⟩
      · exact sorted.imp fun h => (not_evictBefore_iff s.store _ _).1 h
      · exact fun before p rest split g hg q placed may kept earlier =>
          passedOver before p rest split g hg q placed may kept
            ((evictBefore_iff s.store q p).2 (earlier.imp id fun same => ⟨same.1.symm, same.2⟩))
    · exact State.defer_counts live (.inl ⟨first, rfl⟩)
    · exact State.defer_counts live (.inr ⟨second, low, rfl⟩)
    · let store := s.store.setEntry n (some { e with deferral := 0, level := e.level - 1 })
      have own : store.entry n = some { e with deferral := 0, level := e.level - 1 } := Store.entry_setEntry_same _ _ _
      have other : ∀ m d, m ≠ n → s.store.entry m = some d → store.entry m = some d := fun m d hm hd =>
        (Store.entry_setEntry_other _ _ hm).trans hd
      obtain ⟨before, after, split, joined, behind, ahead⟩ := insertQueued_place own (q.2.erase n)
      refine ⟨_, before, after, State.defer_ages live second high found, split, (Table.get_set_same _ _ _ _).trans joined,
        fun m hm => ?_, fun m hm d ne hd => behind m hm d (other m d ne hd), fun m hm d ne hd => ahead m hm d (other m d ne hd)⟩
      rw [Table.get_set_other _ _ _ (Ne.symm hm), Table.get_set_other _ _ _ (Ne.symm hm)]
  · intro s p f open_
    exact ⟨f.remove p, State.displace_open open_ p, rfl, fun z hz => f.block_remove p hz⟩
  · intro s t wraps
    constructor
    · obtain ⟨launch, placed, blocks, tally⟩ := s.timer.frameToOpen_fresh
      refine ⟨s.timer.frameToOpen, rfl, launch, placed, blocks, tally, fun below => ?_, fun wrapped => ?_⟩
      · rw [Timer.frameToOpen_below below]
        exact ⟨rfl, rfl⟩
      · rw [Timer.frameToOpen_wraps wrapped]
        exact ⟨rfl, rfl⟩
    · intro n e f live open_ arrives
      have tried : s.filingOutcome n = none ∧ f.number = s.homeFrame e.sub ↔ arrives := by
        rw [State.filingOutcome_none_iff live open_, and_assoc]
        rfl
      rw [State.file_open live open_]
      exact ⟨fun h => if_pos (tried.2 h), fun h => if_neg (mt tried.1 h)⟩
  · intro s sub r a left
    exact ⟨fun closed => State.readyReport_closed closed sub r, fun f open_ => State.readyReport_open open_ sub r⟩

end Sys2Proof.Machine
end

section
/-! SUPPORT. Offers judged, the offered frame launched, the next frame closed and offered (for O26). -/

namespace Sys2Proof.Machine

/-! ### Offers judged (R88, R95, R151) -/

/-- The zones that answered TAKEN to the offer due (R88). -/
theorem ZoneLinks.has_takenSet (l : ZoneLinks) (g : Word32) {z : Nat} (hz : z < 16) :
    ZoneSet.has (l.takenSet g) z = true ↔ (l.zone z).offer = .taken ∧ (l.zone z).launch = some g := by
  refine (ZoneSet.has_foldl (fun z => (l.zone z).offer = .taken ∧ (l.zone z).launch = some g) _ 0 hz).trans ?_
  simp only [ZoneSet.has_zero, Bool.false_eq_true, false_or, List.mem_range, Config.zones, hz, true_and]

/-- A zone link once its offer is judged (R88, R95). -/
theorem ZoneLink.judged_eq (v : ZoneLink) : v.countJudged.idle = { v with
    offer := .idle, launch := none, pages := 0
    counts := { v.counts with
      taken := if v.offer = .taken then v.counts.taken + 1 else v.counts.taken
      rejected := if v.offer = .rejected then v.counts.rejected + 1 else v.counts.rejected
      noAnswer := if v.offer = .sent then v.counts.noAnswer + 1 else v.counts.noAnswer } } := by
  obtain ⟨offer, launch, pages, reference, lastWindow, counts⟩ := v
  cases offer <;> rfl

section
variable {s : State} {g : Word32} {z : Nat}

theorem State.judgeOffer_undue (h : ¬((s.zoneLinks.zone z).offer ≠ .idle ∧ (s.zoneLinks.zone z).launch = some g)) :
    s.judgeOffer g z = s := if_neg h

theorem State.judgeOffer_unconfigured (due : (s.zoneLinks.zone z).offer ≠ .idle ∧ (s.zoneLinks.zone z).launch = some g)
    (h : (s.monitor.zone z).state = .unconfigured) :
    s.judgeOffer g z = s.changeZoneLink z (fun v => v.countJudged.idle) := by
  refine (if_pos due).trans (if_neg ?_)
  rw [Monitor.configured, decide_eq_true_eq]
  exact fun configured => configured h

theorem State.judgeOffer_configured (due : (s.zoneLinks.zone z).offer ≠ .idle ∧ (s.zoneLinks.zone z).launch = some g)
    (h : (s.monitor.zone z).state ≠ .unconfigured) : s.judgeOffer g z =
      (s.changeZoneLink z (fun v => v.countJudged.idle)).withMonitor
        (s.monitor.judged z (decide ((s.zoneLinks.zone z).offer = .taken))) := by
  refine (if_pos due).trans (if_pos ?_)
  exact decide_eq_true h

end

/-- The judgement acts on the zone's untaken run (R151). -/
theorem Monitor.judged_eq (m : Monitor) (z : Nat) (p : Prop) [Decidable p] : m.judged z (decide p) = m.setZone z
    (if p then { m.zone z with untakenRun := 0 }
     else { m.zone z with
       untakenRun := (m.zone z).untakenRun + 1
       untakenDue := (m.zone z).untakenDue || decide (m.settings.untakenLimit ≤ (m.zone z).untakenRun + 1) }) := by
  by_cases h : p <;> simp only [Monitor.judged, h, decide_true, decide_false, if_true, if_false, Bool.false_eq_true]

/-! ### The offered frame launched (R76 to R78, R97, R98) -/

section
variable {s : State} {p : Placed} {e : Entry} (live : s.store.entry p.entry = some e) {launch : Word32} {took : ZoneSet}
include live

/-- An entry none of whose zones answered TAKEN is a void attempt (R78). -/
theorem State.launchEntry_void (none : p.zones &&& took = 0) :
    let u : State := { s with
      store := s.store.setEntry p.entry (some { e with takenSet := 0 })
      assembler := { s.assembler with
        counts := { s.assembler.counts with voidAttempts := s.assembler.counts.voidAttempts + 1 } } }
    s.launchEntry launch took p = if e.cancelRequested then u.settle p.entry .cancelled 0 else u.file p.entry := by
  intro u
  have written : s.changeEntry p.entry (fun e => { e with takenSet := p.zones &&& took }) =
      { s with store := s.store.setEntry p.entry (some { e with takenSet := 0 }) } := by
    rw [State.changeEntry, Store.changeEntry_of_some live, none]
    rfl
  simp only [State.launchEntry, if_pos none, written]
  exact State.voidAttempt_live (e := { e with takenSet := 0 }) (Store.entry_setEntry_same _ _ _)

/-- An entry some zone of which answered TAKEN is handed to the Retry Unit (R76, R77). -/
theorem State.launchEntry_taken (some_ : p.zones &&& took ≠ 0) :
    let answered := s.store.setEntry p.entry (some { e with takenSet := p.zones &&& took })
    let u : State := { s with
      store := answered.setEntry p.entry (some { e with takenSet := p.zones &&& took, attempts := e.attempts + 1 })
      assembler := { s.assembler with
        counts := { s.assembler.counts with placements := s.assembler.counts.placements + 1 } } }
    s.launchEntry launch took p = u.takeLaunched p launch := by
  intro answered u
  have written : answered.entry p.entry = some { e with takenSet := p.zones &&& took } :=
    Store.entry_setEntry_same _ _ _
  have first : s.changeEntry p.entry (fun e => { e with takenSet := p.zones &&& took }) = { s with store := answered } := by
    rw [State.changeEntry, Store.changeEntry_of_some live]
    rfl
  have second : ({ s with store := answered } : State).changeEntry p.entry (fun e => { e with attempts := e.attempts + 1 }) =
      { s with
        store := answered.setEntry p.entry (some { e with takenSet := p.zones &&& took, attempts := e.attempts + 1 }) } := by
    rw [State.changeEntry, Store.changeEntry_of_some written]
    rfl
  simp only [State.launchEntry, if_neg some_, first, second]
  rfl

/-- A TWO_WAY entry joins the tail of the await set with its deadline (R97, R98). -/
theorem State.takeLaunched_twoWay (mode : p.mode = .twoWay) : s.takeLaunched p launch = { s with
    store := s.store.setEntry p.entry (some { e with state := .awaiting })
    retry := { s.retry with awaitSet := s.retry.awaitSet ++
      [{ entry := p.entry, sub := p.sub, tag := p.tag, launch
         deadline := launch + BitVec.ofNat 32 s.timer.running.ackDelay + 2 }] } } := by
  simp only [State.takeLaunched, mode, State.changeEntry, Store.changeEntry_of_some live]
  rfl

end

theorem State.takeLaunched_oneWay {s : State} {p : Placed} (mode : p.mode = .oneWay) (launch : Word32) :
    s.takeLaunched p launch = s.resolveOneWay p.entry launch s.timer.cycle := by
  simp only [State.takeLaunched, mode]

/-! ### The next frame closed and offered (R75, R86) -/

/-- A zone link that has been sent an OFFER (R86). -/
def ZoneLink.offered (v : ZoneLink) (launch : Word32) (pages : Nat) : ZoneLink :=
  { v with offer := .sent, launch := some launch, pages, counts := { v.counts with offersSent := v.counts.offersSent + 1 } }

theorem ZoneLinks.zone_offer (l : ZoneLinks) (z w : Nat) (launch : Word32) (number : Nat) (pages : List Page) :
    (l.offer z launch number pages).zone w = if z = w then (l.zone z).offered launch pages.length else l.zone w := by
  show Table.get {} (Table.set {} l.zones z ((l.zone z).offered launch pages.length)) w = _
  rw [Table.get_set]
  rfl

/-- Each zone of a list, standing in it once, is sent its OFFER, and no other link changes. -/
theorem ZoneLinks.foldl_offer {zones : List Nat} (once : zones.Nodup) (launch : Word32) (number : Nat) (pages : Nat → List Page)
    (l : ZoneLinks) :
    l.Sends (zones.map (fun z => (z, ZoneFrameOut.offer launch number (pages z))))
      (zones.foldl (fun l z => l.offer z launch number (pages z)) l) ∧
    ∀ w, (zones.foldl (fun l z => l.offer z launch number (pages z)) l).zone w =
      if w ∈ zones then (l.zone w).offered launch (pages w).length else l.zone w := by
  induction zones generalizing l with
  | nil => exact ⟨ZoneLinks.Sends.refl l, fun w => rfl⟩
  | cons z zones ih =>
    obtain ⟨fresh, once⟩ := List.nodup_cons.1 once
    obtain ⟨whole, zone⟩ := ih once (l.offer z launch number (pages z))
    have own : l.Sends [(z, .offer launch number (pages z))] (l.offer z launch number (pages z)) := rfl
    refine ⟨own.trans whole, fun w => ?_⟩
    rw [List.foldl_cons, zone w, ZoneLinks.zone_offer]
    by_cases first : z = w
    · subst first
      rw [if_neg fresh, if_pos rfl, if_pos List.mem_cons_self]
    · rw [if_neg first]
      exact if_congr (by simp [Ne.symm first]) rfl rfl

/-- The entries of the frame are OFFERED, and no other entry changes (R75). -/
theorem Store.foldl_changeEntry {g : Entry → Entry} (again : ∀ e, g (g e) = g e) (placed : List Placed) (t : Store) :
    let u := placed.foldl (fun t p => t.changeEntry p.entry g) t
    u = { t with entries := u.entries } ∧
      ∀ n, u.entry n = if n ∈ placed.map Placed.entry then (t.entry n).map g else t.entry n := by
  induction placed generalizing t with
  | nil => exact ⟨rfl, fun n => rfl⟩
  | cons p placed ih =>
    obtain ⟨whole, entry⟩ := ih (t.changeEntry p.entry g)
    constructor
    · have first := Store.changeEntry_frame t p.entry g
      rw [first] at whole
      rw [List.foldl_cons, first]
      exact whole
    · intro n
      rw [List.foldl_cons, List.map_cons, entry n, Store.entry_changeEntry]
      by_cases own : p.entry = n
      · subst own
        rw [if_pos rfl, if_pos List.mem_cons_self]
        split
        · rw [Option.map_map]
          exact congrArg (fun h => (t.entry p.entry).map h) (funext again)
        · rfl
      · rw [if_neg own]
        exact if_congr (by simp [Ne.symm own]) rfl rfl

theorem State.foldl_changeEntry (g : Entry → Entry) (placed : List Placed) (s : State) :
    placed.foldl (fun s p => s.changeEntry p.entry g) s =
      s.withStore (placed.foldl (fun t p => t.changeEntry p.entry g) s.store) := by
  induction placed generalizing s with
  | nil => rfl
  | cons p placed ih => exact ih _

/-- The zones in service, as the list the close goes through. -/
theorem Monitor.toList_inService (m : Monitor) :
    ZoneSet.toList m.inService = (List.range 16).filter (fun z => decide ((m.zone z).state = .inService)) :=
  List.filter_congr fun z hz => m.has_inService z (List.mem_range.1 hz)

theorem Monitor.mem_inService (m : Monitor) (z : Nat) : ZoneSet.has m.inService z = true ↔
    z ∈ (List.range 16).filter (fun z => decide ((m.zone z).state = .inService)) := by
  rw [← m.toList_inService, ZoneSet.mem_toList]
  exact ⟨fun h => ⟨ZoneSet.lt_of_has h, h⟩, fun h => h.2⟩

/-- What the close of a frame leaves: the OFFERs sent, the links of the zones in service, and its entries OFFERED (R75, R86). -/
theorem State.closeFrame_spec (s : State) (f : Frame) :
    let t := s.closeFrame f
    let served := (List.range 16).filter (fun z => decide ((s.monitor.zone z).state = .inService))
    t = { s with
      store := { s.store with entries := t.store.entries }
      zoneLinks := { s.zoneLinks with
        zones := t.zoneLinks.zones
        sent := s.zoneLinks.sent ++ served.map (fun z => (z, ZoneFrameOut.offer f.launch f.number (s.pagesFor f z))) }
      assembler := { s.assembler with openFrame := none, offered := some { frame := f, handed := s.monitor.inService } } } ∧
    (∀ n, t.store.entry n = if n ∈ f.placed.map Placed.entry then (s.store.entry n).map (fun e => { e with state := .offered })
      else s.store.entry n) ∧
    (∀ z, t.zoneLinks.zone z = if z ∈ served then (s.zoneLinks.zone z).offered f.launch (s.pagesFor f z).length
      else s.zoneLinks.zone z) := by
  intro t served
  obtain ⟨entries, entry⟩ := Store.foldl_changeEntry (g := fun e => { e with state := .offered }) (fun _ => rfl) f.placed s.store
  obtain ⟨sends, zone⟩ := ZoneLinks.foldl_offer (zones := served) (List.nodup_range.filter _) f.launch f.number (s.pagesFor f)
    s.zoneLinks
  have closed : t = { s with
      store := f.placed.foldl (fun t p => t.changeEntry p.entry (fun e => { e with state := .offered })) s.store
      zoneLinks := served.foldl (fun l z => l.offer z f.launch f.number (s.pagesFor f z)) s.zoneLinks
      assembler := { s.assembler with openFrame := none, offered := some { frame := f, handed := s.monitor.inService } } } := by
    simp only [t, served, State.closeFrame]
    rw [State.foldl_changeEntry, s.monitor.toList_inService]
    rfl
  rw [closed]
  refine ⟨?_, entry, zone⟩
  dsimp only
  rw [← entries]
  exact congrArg (fun l => ({ s with store := _, zoneLinks := l, assembler := _ } : State)) sends

/-- A placed entry is offered as its body's page, a downgraded one as TONE with no symbols (R75). -/
theorem State.pageOf_live {s : State} {p : Placed} {e : Entry} {b : Body} (live : s.store.entry p.entry = some e)
    (body : s.store.body e.body = some b) : s.pageOf p =
      { address := s.cache.unitAddress p.sub, tag := p.tag
        encoding := if e.downgraded then .tone else b.encoding, content := if e.downgraded then [] else b.content } := by
  simp only [State.pageOf, live, body]
  split <;> rfl

end Sys2Proof.Machine
end

section
/-! SUPPORT. The cycle turn's expiry and re-filing of queued entries, and the acts of a frame start in their order (O26). -/

namespace Sys2Proof.Machine

/-! ### Expiry at a cycle turn (R65) -/

@[simp] theorem State.leaveQueue_store (s : State) (n : Nat) : (s.leaveQueue n).store = s.store := by
  rw [State.leaveQueue_frame]
  rfl

/-- The queued entries past their lifetime, and no others, leave their queues and settle (R65). -/
theorem State.expireQueued_walk (coming : Word32) (s : State) :
    s.expireQueued coming = (s.assembler.allQueued.filter (s.store.expired coming)).foldl (fun u n =>
      (((u.leaveMissSkip n).leaveQueue n).settle n .expiredLifetime 0).countAssembly
        (fun c => { c with lifetimeExpiries := c.lifetimeExpiries + 1 })) s := by
  refine State.foldl_filter_of_stable (test := fun s n => s.store.expired coming n) (fun s n => ?_) (fun s n _ => funext fun m => ?_)
    s.assembler.allQueued s
  · unfold Store.expired
    cases s.store.entry n with
    | none => rfl
    | some e => by_cases h : e.expiryCycle < coming <;> simp [h]
  · refine (State.expired_settle ((s.leaveMissSkip n).leaveQueue n) coming n m _ _).trans ?_
    rw [State.leaveQueue_store]
    rfl

/-! ### Re-filing under a new cycle length (R65) -/

theorem Store.queueLe_trans {t : Store} {k m n : Nat} {e : Entry} (live : t.entry m = some e) (h : t.QueueLe k m)
    (j : t.QueueLe m n) : t.QueueLe k n := by
  intro d f hd hf
  rcases h d e hd live with h | ⟨h, low⟩ <;> rcases j e f live hf with j | ⟨j, lower⟩
  · exact .inl (h.trans j)
  · exact .inl (j ▸ h)
  · exact .inl (h ▸ j)
  · exact .inr ⟨h.trans j, BitVec.le_trans low lower⟩

/-- An entry that joins a queue in key order keeps it in key order (R64). -/
theorem insertQueued_sorted {t : Store} {l : List Nat} (n : Nat) (live : ∀ m ∈ l, (t.entry m).isSome) (sorted : l.Pairwise t.QueueLe) :
    (insertQueued t n l).Perm (n :: l) ∧ (insertQueued t n l).Pairwise t.QueueLe := by
  obtain ⟨before, after, rfl, joined, behind, ahead⟩ := insertQueued_split t n l
  rw [joined]
  refine ⟨List.perm_middle, List.pairwise_insert_between (fun m hm k first => ?_) sorted
    (fun m hm => Store.queueLe_of_not_before (behind m hm)) fun m hm => Store.queueLe_of_before (ahead m hm)⟩
  obtain ⟨e, he⟩ := Option.isSome_iff_exists.1 (live m (List.mem_append_right _ hm))
  exact Store.queueLe_trans he first

/-- The home frame of a live entry, under the cycle length in force. -/
def State.homeOf (s : State) (n : Nat) : Option Nat := (s.store.entry n).map (fun e => s.homeFrame e.sub)

/-- One entry filed anew (R65). -/
def State.refileOne (s : State) (n : Nat) : State :=
  match s.store.entry n with
  | none => s
  | some e => s.joinQueue n (s.homeFrame e.sub)

theorem State.refileOne_homeless {s : State} {n : Nat} (h : s.homeOf n = none) : s.refileOne n = s := by
  rw [State.homeOf, Option.map_eq_none_iff] at h
  simp only [State.refileOne, h]

theorem State.refileOne_home {s : State} {n k : Nat} (h : s.homeOf n = some k) : s.refileOne n = s.joinQueue n k := by
  obtain ⟨e, live, rfl⟩ := Option.map_eq_some_iff.1 h
  simp only [State.refileOne, live]

/-- What the filing anew of a list of entries comes to: the queues alone change, and each holds those of the list whose home frame it is,
in key order. -/
structure Refiled (s : State) (l : List Nat) (t : State) : Prop where
  frame : t = s.withAssembler { s.assembler with queues := t.assembler.queues }
  perm : ∀ j, (t.assembler.queue j).Perm (l.filter (fun n => decide (s.homeOf n = some j)))
  sorted : ∀ j, (t.assembler.queue j).Pairwise s.store.QueueLe

theorem Refiled.nothing (s : State) : Refiled s [] (s.withAssembler { s.assembler with queues := [] }) :=
  ⟨rfl, fun _ => List.Perm.refl _, fun _ => List.Pairwise.nil⟩

theorem Refiled.live {s t : State} {l : List Nat} (h : Refiled s l t) (j : Nat) :
    ∀ m ∈ t.assembler.queue j, (s.store.entry m).isSome := by
  intro m hm
  have home := of_decide_eq_true (List.mem_filter.1 ((h.perm j).mem_iff.1 hm)).2
  obtain ⟨e, live, -⟩ := Option.map_eq_some_iff.1 home
  exact Option.isSome_iff_exists.2 ⟨e, live⟩

/-- One more entry is filed anew. -/
theorem Refiled.concat {s t : State} {l : List Nat} (h : Refiled s l t) (n : Nat) : Refiled s (l ++ [n]) (t.refileOne n) := by
  have same : t.homeOf n = s.homeOf n := by
    rw [h.frame]
    rfl
  have store : t.store = s.store := by
    rw [h.frame]
    rfl
  cases home : s.homeOf n with
  | none =>
    rw [State.refileOne_homeless (same.trans home)]
    refine ⟨h.frame, fun j => ?_, h.sorted⟩
    simpa [List.filter_append, home] using h.perm j
  | some k =>
    rw [State.refileOne_home (same.trans home)]
    have queue : ∀ j, (t.joinQueue n k).assembler.queue j =
        if k = j then insertQueued s.store n (t.assembler.queue k) else t.assembler.queue j := by
      intro j
      rw [← store]
      exact Table.get_set _ _ _ _ _
    obtain ⟨perm, sorted⟩ := insertQueued_sorted n (h.live k) (h.sorted k)
    refine ⟨?_, fun j => ?_, fun j => ?_⟩
    · obtain ⟨queues, rfl⟩ : ∃ queues, t = s.withAssembler { s.assembler with queues } := ⟨_, h.frame⟩
      rfl
    · have more : (l ++ [n]).filter (fun n => decide (s.homeOf n = some j)) =
          l.filter (fun n => decide (s.homeOf n = some j)) ++ if k = j then [n] else [] := by
        simp [List.filter_append, List.filter_cons, home]
      rw [queue, more]
      by_cases own : k = j
      · subst own
        rw [if_pos rfl, if_pos rfl]
        exact perm.trans (((h.perm k).cons n).trans (List.perm_append_singleton _ _).symm)
      · rw [if_neg own, if_neg own, List.append_nil]
        exact h.perm j
    · rw [queue]
      split
      · exact sorted
      · exact h.sorted j

/-- The filing anew of every queued entry (R65). -/
theorem State.refile_refiled (s : State) : Refiled s s.assembler.allQueued s.refile := by
  have fold : ∀ l : List Nat, Refiled s l (l.foldl State.refileOne (s.withAssembler { s.assembler with queues := [] })) := by
    intro l
    induction l using List.reverseRecOn with
    | nil => exact Refiled.nothing s
    | append_singleton l n ih =>
      rw [List.foldl_append]
      exact ih.concat n
  exact fold s.assembler.allQueued

/-! ### The acts of a frame start in their order (R66; logs 8 and 50) -/

theorem State.frameToClose_of {s : State} {f : Frame} (h : s.assembler.openFrame = some f ∨ (s.assembler.openFrame = none ∧
    f = emptyFrame (s.timer.frameCount + 1) (s.timer.frameNumber + 1) s.timer.cycle)) : s.frameToClose = f := by
  rcases h with h | ⟨h, rfl⟩ <;> simp only [State.frameToClose, h]

/-- The judging of offers leaves the timer alone. -/
theorem State.judgeOffers_timer (g : Word32) (s : State) : (s.judgeOffers g).timer = s.timer :=
  (Steady.foldl (fun s z => State.judgeOffer_steady g z s) _ s).timer

/-- The Frame Assembler's acts, from the state in which the offered frame is launched (R66). -/
theorem State.assembleFrame_launched {u launched : State} {took : ZoneSet} {f : Frame}
    (h : u.launchOffered u.timer.frameCount took = launched) (closes : launched.frameToClose = f) (relength : Bool) :
    u.assembleFrame took none relength = (launched.closeFrame f).openAndWalk ∧
    ∀ k, u.assembleFrame took (some k) relength = (if relength then ((launched.closeFrame f).expireQueued k).refile
      else (launched.closeFrame f).expireQueued k).openAndWalk := by
  subst h closes
  exact ⟨rfl, fun k => rfl⟩

/-- A frame start: judging, silence and launch leave the timer alone, and then the frame in hand is closed, the cycle turn dealt with, the
next frame opened, and last the other units act. -/
theorem State.announce_launched {s counted launched : State} {f : Frame}
    (counts : counted = (s.judgeOffers s.timer.frameCount).withMonitor (s.judgeOffers s.timer.frameCount).monitor.countAllSilence)
    (launches : launched = counted.launchOffered s.timer.frameCount (s.zoneLinks.takenSet s.timer.frameCount))
    (inHand : launched.assembler.openFrame = some f ∨ (launched.assembler.openFrame = none ∧
      f = emptyFrame (s.timer.frameCount + 1) (s.timer.frameNumber + 1) s.timer.cycle)) (relength : Bool) :
    s.announce none relength = ((launched.closeFrame f).openAndWalk).announceFrame s.timer.frameCount s.timer.cycle ∧
    ∀ k, s.announce (some k) relength = ((((if relength then ((launched.closeFrame f).expireQueued k).refile
      else (launched.closeFrame f).expireQueued k).openAndWalk).expireHeld k).announceTurn k).announceFrame
        s.timer.frameCount s.timer.cycle := by
  have timer : counted.timer = s.timer := by rw [counts, State.withMonitor_timer, State.judgeOffers_timer]
  have launchedTimer : launched.timer = s.timer := by rw [launches, (State.launchOffered_quiet _ _ counted).settled.timer, timer]
  rw [← launchedTimer] at inHand
  have launch : counted.launchOffered counted.timer.frameCount (s.zoneLinks.takenSet s.timer.frameCount) = launched := by
    rw [timer, launches]
  obtain ⟨plain, turning⟩ := State.assembleFrame_launched launch (State.frameToClose_of inHand) relength
  rw [counts] at plain turning
  refine ⟨?_, fun k => ?_⟩
  · rw [← plain]
    rfl
  · rw [← turning]
    rfl

/-- Settles O26: the judging by its three cases, the launch entry by entry, the close by its folds over zones and entries, the cycle turn
by its walks, and the frame start as those acts in turn. -/
theorem offerJudgedAtLaunch : Obligations.OfferJudgedAtLaunch := by
  refine ⟨?_, ?_, ?_, ?_, ?_⟩
  · intro s g z l v c due judged links run
    have linked : s.changeZoneLink z (fun v => v.countJudged.idle) = { s with zoneLinks := links } := by
      rw [State.changeZoneLink, ZoneLink.judged_eq]
      rfl
    refine ⟨State.judgeOffer_undue, fun isDue unconfigured => ?_, fun isDue configured => ?_⟩
    · rw [State.judgeOffer_unconfigured isDue unconfigured, linked]
    · rw [State.judgeOffer_configured isDue configured, linked, Monitor.judged_eq]
      rfl
  · intro s launch took
    refine ⟨fun z hz => ZoneLinks.has_takenSet _ _ hz, fun none => ?_, fun o offered => ?_, fun p e live => ?_,
      fun p e live => ⟨State.takeLaunched_twoWay live, fun mode => State.takeLaunched_oneWay mode launch⟩⟩
    · simp only [State.launchOffered, none]
    · simp only [State.launchOffered, offered]
      rfl
    · intro mine n changed
      refine ⟨fun none => ⟨_, ?_, State.launchEntry_void live none⟩, fun some_ => ⟨_, ?_, State.launchEntry_taken live some_⟩⟩
      · exact ⟨rfl, Store.entry_setEntry_same _ _ _, fun m hm => Store.entry_setEntry_other _ _ hm⟩
      · refine ⟨rfl, Store.entry_setEntry_same _ _ _, fun m hm => ?_⟩
        dsimp only
        rw [Store.entry_setEntry_other _ _ hm, Store.entry_setEntry_other _ _ hm]
  · intro s f t served pages
    obtain ⟨frame, entries, zones⟩ := State.closeFrame_spec s f
    refine ⟨frame, s.monitor.mem_inService, entries, fun z out => (zones z).trans (if_neg out),
      fun z inside => (zones z).trans (if_pos inside), fun p e b live body => State.pageOf_live live body⟩
  · -- Each state of the frame start is known by its equation alone; with its value in sight the folds over the zones are unfolded.
    intro s relength g judged
    have judges : judged = s.judgeOffers g := rfl
    clear_value judged
    intro counted
    have counts : counted = judged.withMonitor judged.monitor.countAllSilence := rfl
    clear_value counted
    intro launched
    have launches : launched = counted.launchOffered g (s.zoneLinks.takenSet g) := rfl
    clear_value launched
    intro closed f inHand
    exact State.announce_launched (counts.trans (by rw [judges])) launches inHand relength
  · intro s k queued expires home filed
    have test : expires = s.store.expired k := rfl
    obtain ⟨frame, perm, sorted⟩ := s.refile_refiled
    refine ⟨?_, frame, fun j => ⟨perm j, sorted j⟩⟩
    rw [test]
    exact s.expireQueued_walk k

end Sys2Proof.Machine
end

section
/-! SUPPORT. The bodies of the frames from a zone, good and bad (O24). -/

namespace Sys2Proof.Machine

/-! ### The bodies of the four KINDs (12.6) -/

namespace Operands

theorem taken_isSome_iff (link : Nat) (body : List Byte) :
    (taken link body).isSome = true ↔ body.length = 8 ∧ Bytes.field body 0 1 = link := by
  unfold taken
  split <;> simp_all

theorem reject_isSome_iff (link : Nat) (body : List Byte) : (reject link body).isSome = true ↔
    body.length = 8 ∧ Bytes.field body 0 1 = link ∧ Bytes.field body 1 1 = 1 := by
  unfold reject
  split <;> simp_all

theorem stateReport_isSome_iff (link : Nat) (body : List Byte) : (stateReport link body).isSome = true ↔
    (body.length = 4 ∧ Bytes.field body 0 1 = link) ∧ (Bytes.field body 1 1 = 1 ∨ Bytes.field body 1 1 = 2) := by
  unfold stateReport
  split
  · rename_i names
    split <;> simp_all
  · rename_i other
    simp [other]

theorem stateReport_locked {link : Nat} {body : List Byte} (names : body.length = 4 ∧ Bytes.field body 0 1 = link)
    (state : Bytes.field body 1 1 = 1) : stateReport link body = some .locked := by
  simp only [stateReport, if_pos names, state]

theorem stateReport_unlocked {link : Nat} {body : List Byte} (names : body.length = 4 ∧ Bytes.field body 0 1 = link)
    (state : Bytes.field body 1 1 = 2) : stateReport link body = some .unlocked := by
  simp only [stateReport, if_pos names, state]

/-- An item of a WINDOW body is in range: its kind, and an ACK's tag and code (R91). -/
def ItemFits (body : List Byte) (k : Nat) : Prop :=
  Bytes.field body k 1 = 2 ∨ (Bytes.field body k 1 = 1 ∧ Bytes.field body (k + 4) 1 < 16 ∧ Bytes.field body (k + 5) 1 < 16)

/-- The item that stands at an offset of a WINDOW body, where it is in range (12.6). -/
def itemAt (body : List Byte) (k : Nat) : WindowItem :=
  if Bytes.field body k 1 = 1 then
    { kind := .ack, address := Bytes.field body (k + 1) 3, tag := BitVec.ofNat 4 (Bytes.field body (k + 4) 1)
      code := Bytes.field body (k + 5) 1 }
  else { kind := .register, address := Bytes.field body (k + 1) 3, tag := 0, code := 0 }

theorem windowItem_fits {body : List Byte} {k : Nat} (h : ItemFits body k) : windowItem body k = some (itemAt body k) := by
  rcases h with register | ⟨ack, tag, code⟩
  · simp only [windowItem, itemAt, register] <;> rfl
  · simp only [windowItem, itemAt, ack, below_of_lt tag, below_of_lt code] <;> rfl

theorem windowItem_misfit {body : List Byte} {k : Nat} (h : ¬ItemFits body k) : windowItem body k = none := by
  unfold windowItem
  dsimp only
  split
  · rename_i ack
    by_cases tag : Bytes.field body (k + 4) 1 < 16
    · have code : 16 ≤ Bytes.field body (k + 5) 1 := Nat.not_lt.1 fun code => h (.inr ⟨ack, tag, code⟩)
      rw [below_of_lt tag, below_of_le code] <;> rfl
    · rw [below_of_le (Nat.not_lt.1 tag)] <;> rfl
  · rename_i register
    exact absurd (.inl register) h
  · rfl

/-- A list whose every element is read is read whole. -/
theorem mapM_of_forall {α β : Type} {f : α → Option β} {g : α → β} {l : List α} (h : ∀ a ∈ l, f a = some (g a)) :
    l.mapM f = some (l.map g) := by
  induction l with
  | nil => rfl
  | cons a l ih =>
    rw [List.mapM_cons, h a List.mem_cons_self, ih fun b hb => h b (List.mem_cons_of_mem a hb)]
    rfl

/-- A list one of whose elements is not read is not read. -/
theorem mapM_of_exists {α β : Type} {f : α → Option β} {l : List α} {a : α} (ha : a ∈ l) (h : f a = none) : l.mapM f = none := by
  induction l with
  | nil => cases ha
  | cons b l ih =>
    rw [List.mapM_cons]
    rcases List.mem_cons.1 ha with rfl | ha
    · rw [h]
      rfl
    · rw [ih ha]
      cases f b <;> rfl

/-- The envelope of a WINDOW body: its zone, and as many items as it counts (R91). -/
def WindowFits (link : Nat) (body : List Byte) : Prop :=
  Bytes.field body 0 1 = link ∧ Bytes.field body 1 1 ≤ 32 ∧ body.length = 8 + 6 * Bytes.field body 1 1

theorem window_eq {link : Nat} {body : List Byte} (h : WindowFits link body) : window link body =
    ((List.range (Bytes.field body 1 1)).mapM (fun i => windowItem body (8 + 6 * i))).map
      (fun items => (BitVec.ofNat 32 (Bytes.field body 2 4), items)) := by
  obtain ⟨names, count, length⟩ := h
  exact if_pos ⟨by omega, names, count, length⟩

theorem window_fits {link : Nat} {body : List Byte} (h : WindowFits link body)
    (items : ∀ i, i < Bytes.field body 1 1 → ItemFits body (8 + 6 * i)) : window link body =
      some (BitVec.ofNat 32 (Bytes.field body 2 4), (List.range (Bytes.field body 1 1)).map (fun i => itemAt body (8 + 6 * i))) := by
  rw [window_eq h, mapM_of_forall fun i hi => windowItem_fits (items i (List.mem_range.1 hi))]
  rfl

theorem window_isSome_iff (link : Nat) (body : List Byte) : (window link body).isSome = true ↔
    WindowFits link body ∧ ∀ i, i < Bytes.field body 1 1 → ItemFits body (8 + 6 * i) := by
  constructor
  · intro good
    have envelope : WindowFits link body := by
      by_contra misfit
      rw [window, if_neg fun h => misfit h.2] at good
      cases good
    refine ⟨envelope, fun i hi => ?_⟩
    by_contra misfit
    rw [window_eq envelope, mapM_of_exists (f := fun i => windowItem body (8 + 6 * i)) (List.mem_range.2 hi)
      (windowItem_misfit misfit)] at good
    cases good
  · rintro ⟨envelope, items⟩
    rw [window_fits envelope items]
    rfl

/-! ### A body that fits its KIND (R83, R84, R91) -/

/-- The body is read as one of its KIND; no other KIND has a body. -/
def bodyReads (link : Nat) (kind : Byte) (body : List Byte) : Bool :=
  if kind = 0x43 then (taken link body).isSome
  else if kind = 0x44 then (reject link body).isSome
  else if kind = 0x45 then (stateReport link body).isSome
  else if kind = 0x46 then (window link body).isSome
  else false

/-- A body fits its KIND: its length, its zone, and what it holds. -/
def BodyFits (link : Nat) (kind : Byte) (body : List Byte) : Prop :=
  (body.getD 0 0).toNat = link ∧
    ((kind = 0x43 ∧ body.length = 8) ∨
      (kind = 0x44 ∧ body.length = 8 ∧ (body.getD 1 0).toNat = 1) ∨
      (kind = 0x45 ∧ body.length = 4 ∧ ((body.getD 1 0).toNat = 1 ∨ (body.getD 1 0).toNat = 2)) ∨
      (kind = 0x46 ∧ body.length = 8 + 6 * (body.getD 1 0).toNat ∧ (body.getD 1 0).toNat ≤ 32 ∧
        ∀ i, i < (body.getD 1 0).toNat → (body.getD (8 + 6 * i) 0).toNat = 2 ∨
          ((body.getD (8 + 6 * i) 0).toNat = 1 ∧ (body.getD (8 + 6 * i + 4) 0).toNat < 16 ∧
            (body.getD (8 + 6 * i + 5) 0).toNat < 16)))

theorem bodyReads_iff (link : Nat) (kind : Byte) (body : List Byte) : bodyReads link kind body = true ↔ BodyFits link kind body := by
  unfold bodyReads BodyFits
  simp only [← Bytes.field_one]
  by_cases isTaken : kind = 0x43
  · simp [isTaken, taken_isSome_iff, and_comm]
  by_cases isReject : kind = 0x44
  · simp [isReject, reject_isSome_iff, and_left_comm]
  by_cases isState : kind = 0x45
  · simp [isState, stateReport_isSome_iff, and_assoc, and_left_comm]
  simp only [isTaken, isReject, isState, if_false, false_and, false_or]
  by_cases isWindow : kind = 0x46
  · simp only [isWindow, if_true, true_and]
    rw [window_isSome_iff, WindowFits, and_assoc, and_assoc, and_left_comm (a := Bytes.field body 1 1 ≤ 32)]
    rfl
  · simp only [isWindow, if_false, false_and, and_false, Bool.false_eq_true]

theorem badFrame_eq (link : Nat) (f : ZoneFrameIn) : badFrame link f =
    if 508 < f.length.toNat then some .unattributed
    else if f.check ≠ frameCheck f.kind f.tag f.body then some (attribution (some f.kind))
    else if bodyReads link f.kind f.body then none else some (attribution (some f.kind)) := rfl

end Operands

end Sys2Proof.Machine
end

section
/-! SUPPORT. Frames from a zone: bad frames charged, and answers to an offer (O24, O21). -/

namespace Sys2Proof.Machine

/-! ### What a frame from a zone does (R83, R84) -/

theorem zoneFrameFits_of {link : Nat} {body : List Byte} (place : link < 16) (length : body.length ≤ 508) :
    zoneFrameFits link body = true := by
  simp only [zoneFrameFits, Config.zones, Config.maxBody, place, length, decide_true, Bool.and_true]

section
variable {link : Nat} {body : List Byte} (fits : zoneFrameFits link body = true) (s : State)
include fits

theorem exec_taken_bad (h : Operands.taken link body = none) : exec (.taken link body) s = .next (s.badZoneFrame link .forward) := by
  show execTaken link body s = _
  simp only [execTaken, if_pos fits, h]

theorem exec_taken_good {launch : Word32} (h : Operands.taken link body = some launch) :
    exec (.taken link body) s = .next (s.answerOffer link launch true) := by
  show execTaken link body s = _
  simp only [execTaken, if_pos fits, h]

theorem exec_reject_bad (h : Operands.reject link body = none) :
    exec (.reject link body) s = .next (s.badZoneFrame link .forward) := by
  show execReject link body s = _
  simp only [execReject, if_pos fits, h]

theorem exec_reject_good {launch : Word32} (h : Operands.reject link body = some launch) :
    exec (.reject link body) s = .next ((s.answerOffer link launch false).occurrence link .fwdFrameError) := by
  show execReject link body s = _
  simp only [execReject, if_pos fits, h]

theorem exec_stateReport_bad (h : Operands.stateReport link body = none) :
    exec (.stateReport link body) s = .next (s.badZoneFrame link .forward) := by
  show execStateReport link body s = _
  simp only [execStateReport, if_pos fits, h]

theorem exec_stateReport_good {reference : ReferenceState} (h : Operands.stateReport link body = some reference) :
    exec (.stateReport link body) s = .next (if (s.monitor.zone link).state = .unconfigured then s.discardUnconfigured link
      else s.takeReference link reference) := by
  show execStateReport link body s = _
  simp only [execStateReport, if_pos fits, h, Monitor.configured, decide_eq_true_eq, ne_eq, ite_not]

theorem exec_window_bad (h : Operands.window link body = none) :
    exec (.window link body) s = .next (s.badZoneFrame link .reverse) := by
  show execWindow link body s = _
  simp only [execWindow, if_pos fits, h]

theorem exec_window_good {count : Word32} {items : List Operands.WindowItem} (h : Operands.window link body = some (count, items)) :
    exec (.window link body) s = .next (if (s.monitor.zone link).state = .unconfigured then s.discardUnconfigured link
      else s.takeReport link count items) := by
  show execWindow link body s = _
  simp only [execWindow, if_pos fits, h, Monitor.configured, decide_eq_true_eq, ne_eq, ite_not]

end

/-! ### Bad frames (R83, R84, R91; logs 18, 19 and 55) -/

theorem exec_zoneGapTimeout {link : Nat} (place : link < 16) (kind : Option Byte) (s : State) :
    exec (.zoneGapTimeout link kind) s = .next (s.badZoneFrame link (Operands.attribution kind)) := if_pos place

theorem Instr.wellFormed_zoneBadFrame {link : Nat} {f : ZoneFrameIn} (place : link < 16)
    (arrived : 508 < f.length.toNat ∨ f.body.length = f.length.toNat) : (Instr.zoneBadFrame link f).wellFormed = true :=
  Bool.and_eq_true_iff.2 ⟨decide_eq_true place, Bool.or_eq_true_iff.2 (arrived.imp decide_eq_true decide_eq_true)⟩

section
variable {link : Nat} {f : ZoneFrameIn} (wellFormed : (Instr.zoneBadFrame link f).wellFormed = true) (s : State)
include wellFormed

theorem exec_zoneBadFrame_good (h : Operands.badFrame link f = none) : exec (.zoneBadFrame link f) s = .next s := by
  show execZoneBadFrame link f s = _
  simp only [execZoneBadFrame, if_pos wellFormed, h]

theorem exec_zoneBadFrame_bad {charge : Operands.BadFrame} (h : Operands.badFrame link f = some charge) :
    exec (.zoneBadFrame link f) s = .next (s.badZoneFrame link charge) := by
  show execZoneBadFrame link f s = _
  simp only [execZoneBadFrame, if_pos wellFormed, h]

end

namespace Operands

/-- A body that does not fit its KIND is not read as one of it. -/
theorem bodyReads_misfit {link : Nat} {kind : Byte} {body : List Byte} (misfit : ¬BodyFits link kind body) :
    ¬bodyReads link kind body = true := mt (bodyReads_iff _ _ _).1 misfit

section
variable {link : Nat} {f : ZoneFrameIn}

theorem badFrame_tooLong (long : 508 < f.length.toNat) : badFrame link f = some .unattributed := if_pos long

variable (short : f.length.toNat ≤ 508)
include short

theorem badFrame_check (wrong : f.check ≠ frameCheck f.kind f.tag f.body) : badFrame link f = some (attribution (some f.kind)) := by
  rw [badFrame_eq, if_neg (Nat.not_lt.2 short), if_pos wrong]

theorem badFrame_misfit (check : f.check = frameCheck f.kind f.tag f.body) (misfit : ¬BodyFits link f.kind f.body) :
    badFrame link f = some (attribution (some f.kind)) := by
  rw [badFrame_eq, if_neg (Nat.not_lt.2 short), if_neg (not_not_intro check), if_neg (bodyReads_misfit misfit)]

theorem badFrame_fits (check : f.check = frameCheck f.kind f.tag f.body) (fits : BodyFits link f.kind f.body) :
    badFrame link f = none := by
  rw [badFrame_eq, if_neg (Nat.not_lt.2 short), if_neg (not_not_intro check), if_pos ((bodyReads_iff _ _ _).2 fits)]

end

end Operands

/-- A bad frame is charged by its KIND byte (R84). -/
theorem State.badZoneFrame_attribution (s : State) (link : Nat) (kind : Option Byte) :
    s.badZoneFrame link (Operands.attribution kind) =
      if kind = some 0x43 ∨ kind = some 0x44 ∨ kind = some 0x45 then s.badZoneFrame link .forward
      else if kind = some 0x46 then s.badZoneFrame link .reverse
      else s.badZoneFrame link .unattributed := by
  cases kind with
  | none => rfl
  | some k =>
    simp only [Option.some.injEq]
    by_cases forward : k = 0x43 ∨ k = 0x44 ∨ k = 0x45
    · simp only [Operands.attribution, if_pos forward]
    · by_cases reverse : k = 0x46
      · simp only [Operands.attribution, if_neg forward, if_pos reverse]
      · simp only [Operands.attribution, if_neg forward, if_neg reverse]

/-- Settles O24: a bad frame is charged by its KIND byte, and what makes a frame bad is said check by check. -/
theorem badFramesCharged : Obligations.BadFramesCharged := by
  intro s link place v forward reverse neither charged at_ fits
  have charges : ∀ kind, .next (s.badZoneFrame link (Operands.attribution kind)) = charged kind := fun kind => by
    rw [State.badZoneFrame_attribution, apply_ite Host.Outcome.next, apply_ite Host.Outcome.next]
    rfl
  refine ⟨fun kind => ?_, fun f long => ?_, fun f short arrived => ?_, fun body length => ?_⟩
  · rw [exec_zoneGapTimeout place, charges]
  · exact exec_zoneBadFrame_bad (Instr.wellFormed_zoneBadFrame place (.inl long)) s (Operands.badFrame_tooLong long)
  · have wellFormed := Instr.wellFormed_zoneBadFrame place (.inr arrived)
    refine ⟨fun wrong => ?_, fun check misfit => ?_, fun check fit => ?_⟩
    · rw [← charges, exec_zoneBadFrame_bad wellFormed s (Operands.badFrame_check short wrong)]
    · rw [← charges, exec_zoneBadFrame_bad wellFormed s (Operands.badFrame_misfit short check misfit)]
    · exact exec_zoneBadFrame_good wellFormed s (Operands.badFrame_fits short check fit)
  · have frame := zoneFrameFits_of place length
    have unread : ∀ kind, ¬fits kind body → ¬Operands.bodyReads link kind body = true := fun kind => Operands.bodyReads_misfit
    refine ⟨fun misfit => ?_, fun misfit => ?_, fun misfit => ?_, fun misfit => ?_⟩
    · exact (exec_taken_bad frame s (Option.not_isSome_iff_eq_none.1 (unread 0x43 misfit))).trans (charges (some 0x43))
    · exact (exec_reject_bad frame s (Option.not_isSome_iff_eq_none.1 (unread 0x44 misfit))).trans (charges (some 0x44))
    · exact (exec_stateReport_bad frame s (Option.not_isSome_iff_eq_none.1 (unread 0x45 misfit))).trans (charges (some 0x45))
    · exact (exec_window_bad frame s (Option.not_isSome_iff_eq_none.1 (unread 0x46 misfit))).trans (charges (some 0x46))

/-! ### Answers to an offer (R87) -/

namespace ZoneLink

variable {v : ZoneLink} {launch : Word32}

theorem answered_first (outstanding : v.offer ≠ .idle ∧ v.launch = some launch) (sent : v.offer = .sent) (accepted : Bool) :
    v.answered launch accepted = { v with offer := if accepted then .taken else .rejected } :=
  (if_pos outstanding).trans (if_pos sent)

theorem answered_again (outstanding : v.offer ≠ .idle ∧ v.launch = some launch) (decided : v.offer ≠ .sent) (accepted : Bool) :
    v.answered launch accepted = { v with counts := { v.counts with duplicate := v.counts.duplicate + 1 } } :=
  (if_pos outstanding).trans (if_neg decided)

theorem answered_late (other : ¬(v.offer ≠ .idle ∧ v.launch = some launch)) (late : v.offer = .idle ∨ launch < v.launch.getD 0)
    (accepted : Bool) : v.answered launch accepted = { v with counts := { v.counts with late := v.counts.late + 1 } } :=
  (if_neg other).trans (if_pos (late.imp_right decide_eq_true))

theorem answered_unmatched (other : ¬(v.offer ≠ .idle ∧ v.launch = some launch))
    (early : ¬(v.offer = .idle ∨ launch < v.launch.getD 0)) (accepted : Bool) :
    v.answered launch accepted = { v with counts := { v.counts with unmatched := v.counts.unmatched + 1 } } :=
  (if_neg other).trans (if_neg (mt (Or.imp_right of_decide_eq_true) early))

end ZoneLink

/-- Settles O21: the answer compared with the forward record, by the branches of R87. -/
theorem answersDecideOffers : Obligations.AnswersDecideOffers := by
  intro s link body launch place length v outstanding becomes named
  have frame := zoneFrameFits_of place length
  have decides : ∀ accepted : Bool, becomes (if accepted then .taken else .rejected) (v.answered launch accepted) := fun accepted =>
    ⟨fun first sent => ZoneLink.answered_first first sent accepted, fun first decided => ZoneLink.answered_again first decided accepted,
      fun other late => ZoneLink.answered_late other late accepted, fun other early => ZoneLink.answered_unmatched other early accepted⟩
  refine ⟨fun whole names => ⟨if_pos ⟨whole, names⟩, fun corrupt => if_pos ⟨whole, names, corrupt⟩⟩,
    fun reads => ?_, fun reads => ?_⟩
  · exact ⟨_, decides true, exec_taken_good frame s reads⟩
  · exact ⟨_, decides false, exec_reject_good frame s reads⟩

end Sys2Proof.Machine
end

section
/-! SUPPORT. Reports of the zones: references, what is recorded when due, and silence counted (O22). -/

namespace Sys2Proof.Machine

/-! ### A frame start counts silence (R152) -/

/-- A zone once a frame start has counted its silence, under the limit S. -/
def Zone.silenceCounted (limit : Nat) (v : Zone) : Zone :=
  if v.state = .unconfigured then v
  else if v.arrival = true then { v with arrival := false }
  else { v with silence := v.silence + 1, silentDue := v.silentDue || decide (limit ≤ v.silence + 1) }

theorem Monitor.countSilence_zone (m : Monitor) (z w : Nat) : (m.countSilence z).zone w =
    if z = w then (m.zone w).silenceCounted m.settings.silenceLimit else m.zone w := by
  unfold Monitor.countSilence Zone.silenceCounted
  by_cases same : z = w
  · subst same
    rw [if_pos rfl]
    dsimp only
    split
    · rfl
    · split <;> exact Monitor.zone_setZone_same _ _ _
  · rw [if_neg same]
    dsimp only
    split
    · rfl
    · split <;> exact (Monitor.zone_setZone _ _ _ _).trans (if_neg same)

/-- What the Zone Monitor holds beside its zones. -/
def Monitor.beside (m : Monitor) : FaultSettings × ZoneSet × Option FirstFault := (m.settings, m.summary, m.first)

theorem Monitor.countSilence_beside (m : Monitor) (z : Nat) : (m.countSilence z).beside = m.beside := by
  unfold Monitor.countSilence
  dsimp only
  split
  · rfl
  · split <;> rfl

theorem Monitor.judged_beside (m : Monitor) (z : Nat) (taken : Bool) : (m.judged z taken).beside = m.beside := by
  unfold Monitor.judged
  dsimp only
  split <;> rfl

theorem Monitor.countAllSilence_beside (m : Monitor) : m.countAllSilence.beside = m.beside :=
  List.foldl_unchanged Monitor.beside Monitor.countSilence_beside _ m

/-- Silence counted for zones, each once. -/
theorem Monitor.foldl_countSilence {zones : List Nat} (once : zones.Nodup) (m : Monitor) (w : Nat) :
    (zones.foldl Monitor.countSilence m).zone w =
      if w ∈ zones then (m.zone w).silenceCounted m.settings.silenceLimit else m.zone w := by
  induction zones generalizing m with
  | nil => rfl
  | cons z zones ih =>
    obtain ⟨fresh, once⟩ := List.nodup_cons.1 once
    rw [List.foldl_cons, ih once, Monitor.countSilence_zone, Monitor.countSilence_settings]
    by_cases first : z = w
    · subst first
      rw [if_neg fresh, if_pos rfl, if_pos List.mem_cons_self]
    · simp only [List.mem_cons, first, Ne.symm first, if_false, false_or]

theorem Monitor.countAllSilence_zone (m : Monitor) {z : Nat} (place : z < 16) :
    m.countAllSilence.zone z = (m.zone z).silenceCounted m.settings.silenceLimit :=
  (Monitor.foldl_countSilence List.nodup_range m z).trans (if_pos (List.mem_range.2 place))

/-- Judging an offer changes the zones alone of the Zone Monitor. -/
theorem State.judgeOffer_beside (g : Word32) (z : Nat) (s : State) : (s.judgeOffer g z).monitor.beside = s.monitor.beside := by
  unfold State.judgeOffer
  dsimp only
  split
  · split
    · exact Monitor.judged_beside _ _ _
    · rfl
  · rfl

theorem State.judgeOffers_beside (g : Word32) (s : State) : (s.judgeOffers g).monitor.beside = s.monitor.beside :=
  List.foldl_unchanged (fun u : State => u.monitor.beside) (fun u z => State.judgeOffer_beside g z u) _ s

theorem State.closeFrame_monitor (f : Frame) (s : State) : (s.closeFrame f).monitor = s.monitor := by
  rw [(State.closeFrame_spec s f).1]

/-- Launching, closing and opening frames leave the Zone Monitor alone. -/
theorem State.assembleFrame_monitor (took : ZoneSet) (coming : Option Word32) (relength : Bool) (s : State) :
    (s.assembleFrame took coming relength).monitor = s.monitor := by
  have closed : ((s.launchOffered s.timer.frameCount took).closeFrame
      (s.launchOffered s.timer.frameCount took).frameToClose).monitor = s.monitor :=
    (State.closeFrame_monitor _ _).trans (State.launchOffered_quiet _ _ _).settled.monitor
  unfold State.assembleFrame
  refine (State.openAndWalk_quiet _).settled.monitor.trans (Eq.trans ?_ closed)
  split
  · rfl
  · split
    · exact ((State.expireQueued_quiet _ _).trans (State.refile_quiet _)).settled.monitor
    · exact (State.expireQueued_quiet _ _).settled.monitor

/-- Of a frame start the Zone Monitor sees the judging and the silence counted (R53). -/
theorem State.announce_monitor (coming : Option Word32) (relength : Bool) (s : State) :
    (s.announce coming relength).monitor = (s.judgeOffers s.timer.frameCount).monitor.countAllSilence := by
  unfold State.announce
  dsimp only
  rw [(State.announceFrame_quiet _ _ _).settled.monitor]
  split
  · rw [State.assembleFrame_monitor, State.withMonitor_monitor]
  · rw [((State.expireHeld_quiet _ _).trans (State.announceTurn_quiet _ _)).settled.monitor, State.assembleFrame_monitor,
      State.withMonitor_monitor]

/-! ### What is recorded when due (R151, R152; logs 13 and 50) -/

theorem exec_untaken {z : Nat} (place : z < 16) (s : State) : exec (.untaken z) s = .next (s.recordUntaken z) := if_pos place

theorem exec_revSilent {z : Nat} (place : z < 16) (s : State) : exec (.revSilent z) s = .next (s.recordSilent z) := if_pos place

theorem State.recordUntaken_due {s : State} {z : Nat} (due : (s.monitor.zone z).untakenDue = true) : s.recordUntaken z =
    (s.changeZone z (fun v => { v with untakenRun := 0, untakenDue := false })).occurrence z .untaken := if_pos due

theorem State.recordUntaken_undue {s : State} {z : Nat} (undue : (s.monitor.zone z).untakenDue = false) :
    s.recordUntaken z = s := if_neg (Bool.eq_false_iff.1 undue)

theorem State.recordSilent_due {s : State} {z : Nat} (due : (s.monitor.zone z).silentDue = true) : s.recordSilent z =
    (s.changeZone z (fun v => { v with silence := 0, silentDue := false })).occurrence z .revSilent := if_pos due

theorem State.recordSilent_undue {s : State} {z : Nat} (undue : (s.monitor.zone z).silentDue = false) :
    s.recordSilent z = s := if_neg (Bool.eq_false_iff.1 undue)

/-! ### STATE (R84, R90) -/

theorem State.takeReference_locked (link : Nat) (s : State) :
    s.takeReference link .locked = s.changeZoneLink link (fun v => { v with reference := .locked }) := by
  rw [State.takeReference, if_neg (by decide)]

theorem State.takeReference_unlocked (link : Nat) (s : State) :
    s.takeReference link .unlocked =
      (s.changeZoneLink link (fun v => { v with reference := .unlocked })).occurrence link .refUnlock := by
  rw [State.takeReference, if_pos rfl]

/-- Settles O22: STATE by the zone's state and the reference it names, what is due by its mark, and the silence counted by a fold over
the zones. -/
theorem zoneReportsRecorded : Obligations.ZoneReportsRecorded := by
  refine ⟨?_, ?_, ?_, ?_⟩
  · exact fun link body length names =>
      ⟨Operands.stateReport_locked ⟨length, names⟩, Operands.stateReport_unlocked ⟨length, names⟩⟩
  · intro s link body reference place length reads v set state
    have good := exec_stateReport_good (zoneFrameFits_of place length) s reads
    refine ⟨fun configured locked => ?_, fun configured unlocked => ?_, fun unconfigured => ?_⟩
    · subst locked
      rw [good, if_neg configured, State.takeReference_locked]
      rfl
    · subst unlocked
      rw [good, if_neg configured, State.takeReference_unlocked]
      rfl
    · rw [good, if_pos unconfigured]
      rfl
  · intro s z place v
    rw [exec_untaken place, exec_revSilent place]
    exact ⟨fun due => congrArg _ (State.recordUntaken_due due), fun undue => congrArg _ (State.recordUntaken_undue undue),
      fun due => congrArg _ (State.recordSilent_due due), fun undue => congrArg _ (State.recordSilent_undue undue)⟩
  · -- The two monitors are known by these equations alone; with their values in sight the folds over the zones are unfolded.
    intro s coming relength before after
    have counted : after = before.countAllSilence := State.announce_monitor coming relength s
    have judged : before.beside = s.monitor.beside := State.judgeOffers_beside _ s
    clear_value after before
    have rest : after.beside = s.monitor.beside := by rw [counted, Monitor.countAllSilence_beside, judged]
    obtain ⟨settings, summary, first⟩ : after.settings = s.monitor.settings ∧ after.summary = s.monitor.summary ∧
        after.first = s.monitor.first := by simpa only [Monitor.beside, Prod.mk.injEq] using rest
    have limits : before.settings = s.monitor.settings := congrArg Prod.fst judged
    refine ⟨settings, summary, first, limits, fun z place => ?_⟩
    rw [counted, Monitor.countAllSilence_zone before place, limits]
    rfl

end Sys2Proof.Machine
end

section
/-! SUPPORT. A window report and its items (O23). -/

namespace Sys2Proof.Machine

/-! ### A zone link read after it is written -/

theorem ZoneLinks.zone_setZone_same (l : ZoneLinks) (z : Nat) (v : ZoneLink) : (l.setZone z v).zone z = v :=
  Table.get_set_same _ _ _ _

theorem ZoneLinks.zone_setZone_other (l : ZoneLinks) {z w : Nat} (h : w ≠ z) (v : ZoneLink) : (l.setZone z v).zone w = l.zone w :=
  (Table.get_set _ _ _ _ _).trans (if_neg (Ne.symm h))

/-! ### What items taken change (R92, R93) -/

/-- The counts of a zone link with items taken, dropped, foreign and discarded. -/
def ZoneLinkCounts.plus (n : ZoneLinkCounts) (taken dropped foreign discarded : Nat) : ZoneLinkCounts :=
  { n with
    itemsTaken := n.itemsTaken + BitVec.ofNat 32 taken
    dropped := n.dropped + BitVec.ofNat 32 dropped
    foreign := n.foreign + BitVec.ofNat 32 foreign
    configDiscard := n.configDiscard + BitVec.ofNat 32 discarded }

theorem ZoneLinkCounts.plus_zero (n : ZoneLinkCounts) : n.plus 0 0 0 0 = n := by
  simp only [ZoneLinkCounts.plus, BitVec.add_zero]

theorem ZoneLinkCounts.plus_plus (n : ZoneLinkCounts) (a b c d a' b' c' d' : Nat) :
    (n.plus a b c d).plus a' b' c' d' = n.plus (a + a') (b + b') (c + c') (d + d') := by
  simp only [ZoneLinkCounts.plus, BitVec.ofNat_add, BitVec.add_assoc]

/-- Of the zone links, items of one zone change its counts and the tail of the reverse item queue alone. -/
structure ZoneLinks.Takes (l : ZoneLinks) (z : Nat) (joining : List ReverseItem) (dropped foreign discarded : Nat) (m : ZoneLinks) :
    Prop where
  others : ∀ w, w ≠ z → m.zone w = l.zone w
  zone : m.zone z = { l.zone z with counts := (l.zone z).counts.plus joining.length dropped foreign discarded }
  queue : m.reverseQueue = l.reverseQueue ++ joining
  sent : m.sent = l.sent
  unattributed : m.unattributed = l.unattributed
  lineRate : m.lineRate = l.lineRate

namespace ZoneLinks.Takes

theorem nothing (l : ZoneLinks) (z : Nat) : l.Takes z [] 0 0 0 l :=
  ⟨fun _ _ => rfl, by rw [List.length_nil, ZoneLinkCounts.plus_zero], (List.append_nil _).symm, rfl, rfl, rfl⟩

theorem trans {l m n : ZoneLinks} {z : Nat} {joining joining' : List ReverseItem} {d f c d' f' c' : Nat}
    (h : l.Takes z joining d f c m) (k : m.Takes z joining' d' f' c' n) :
    l.Takes z (joining ++ joining') (d + d') (f + f') (c + c') n where
  others w hw := (k.others w hw).trans (h.others w hw)
  zone := by rw [k.zone, h.zone, ZoneLinkCounts.plus_plus, List.length_append]
  queue := by rw [k.queue, h.queue, List.append_assoc]
  sent := k.sent.trans h.sent
  unattributed := k.unattributed.trans h.unattributed
  lineRate := k.lineRate.trans h.lineRate

/-- An item that is counted and does not join the queue. -/
theorem counted (l : ZoneLinks) (z : Nat) {counts : ZoneLinkCounts} {dropped foreign discarded : Nat}
    (h : counts = (l.zone z).counts.plus 0 dropped foreign discarded) :
    l.Takes z [] dropped foreign discarded (l.setZone z { l.zone z with counts }) where
  others _ hw := ZoneLinks.zone_setZone_other l hw _
  zone := (ZoneLinks.zone_setZone_same l z _).trans (by rw [h, List.length_nil])
  queue := (List.append_nil _).symm
  sent := rfl
  unattributed := rfl
  lineRate := rfl

/-- An item that joins the tail of the queue, and is counted. -/
theorem joined (l : ZoneLinks) (z : Nat) (item : ReverseItem) : l.Takes z [item] 0 0 0
    { l.setZone z { l.zone z with counts := (l.zone z).counts.plus 1 0 0 0 } with reverseQueue := l.reverseQueue ++ [item] } where
  others _ hw := ZoneLinks.zone_setZone_other l hw _
  zone := ZoneLinks.zone_setZone_same l z _
  queue := rfl
  sent := rfl
  unattributed := rfl
  lineRate := rfl

end ZoneLinks.Takes

/-- Where an item's address maps to a subscriber, the reverse item it becomes (R26, R92). -/
def Operands.WindowItem.mapped (base : Option Nat) (zone : Nat) (i : Operands.WindowItem) : Option ReverseItem :=
  (mapAddress base i.address).map (fun sub => { kind := i.kind, sub, tag := i.tag, code := i.code, zone })

theorem mapAddress_base (base a : Nat) :
    mapAddress (some base) a = if base ≤ a ∧ a < base + 262144 then some (a - base) else none := rfl

theorem Operands.WindowItem.mapped_base (base zone : Nat) (i : Operands.WindowItem) : i.mapped (some base) zone =
    if base ≤ i.address ∧ i.address < base + 262144 then
      some { kind := i.kind, sub := i.address - base, tag := i.tag, code := i.code, zone }
    else none := by
  rw [mapped, mapAddress_base]
  split <;> rfl

/-! ### One item (R92, R93) -/

section
variable {s : State} (z : Nat) (i : Operands.WindowItem)

/-- In CONFIG an item is discarded and counted. -/
theorem State.takeItem_config (config : s.link.partState = .config) :
    ∃ m, s.takeItem z i = s.withZoneLinks m ∧ s.zoneLinks.Takes z [] 0 0 1 m := by
  refine ⟨_, if_pos config, ZoneLinks.Takes.counted s.zoneLinks z ?_⟩
  simp [ZoneLinkCounts.plus]

variable (outside : s.link.partState ≠ .config)
include outside

theorem State.takeItem_foreign (foreign : i.mapped s.cache.addressBase z = none) :
    ∃ m, s.takeItem z i = s.withZoneLinks m ∧ s.zoneLinks.Takes z [] 0 1 0 m := by
  have unmapped := Option.map_eq_none_iff.1 foreign
  refine ⟨_, by rw [State.takeItem, if_neg outside, unmapped] <;> rfl, ZoneLinks.Takes.counted s.zoneLinks z ?_⟩
  simp [ZoneLinkCounts.plus]

theorem State.takeItem_joins {item : ReverseItem} (mapped : i.mapped s.cache.addressBase z = some item)
    (room : s.zoneLinks.reverseQueue.length < 64) :
    ∃ m, s.takeItem z i = s.withZoneLinks m ∧ s.zoneLinks.Takes z [item] 0 0 0 m := by
  obtain ⟨sub, address, rfl⟩ := Option.map_eq_some_iff.1 mapped
  refine ⟨_, ?_, ZoneLinks.Takes.joined s.zoneLinks z _⟩
  rw [State.takeItem, if_neg outside, address]
  refine (if_pos room).trans ?_
  simp only [ZoneLinkCounts.plus, BitVec.ofNat_eq_ofNat, BitVec.add_zero]
  rfl

theorem State.takeItem_drops {item : ReverseItem} (mapped : i.mapped s.cache.addressBase z = some item)
    (full : 64 ≤ s.zoneLinks.reverseQueue.length) :
    ∃ m, s.takeItem z i = s.withZoneLinks m ∧ s.zoneLinks.Takes z [] 1 0 0 m := by
  obtain ⟨sub, address, rfl⟩ := Option.map_eq_some_iff.1 mapped
  refine ⟨_, by rw [State.takeItem, if_neg outside, address]; exact if_neg (Nat.not_lt.2 full),
    ZoneLinks.Takes.counted s.zoneLinks z ?_⟩
  simp [ZoneLinkCounts.plus]

end

/-! ### The items of a report, in their order (R92, R93) -/

/-- The items of a report are taken one after another (R92). -/
def State.takeItems (z : Nat) (items : List Operands.WindowItem) (s : State) : State := items.foldl (fun s i => s.takeItem z i) s

/-- An item, and then the rest of the report. -/
theorem State.takeItems_cons {s : State} {z : Nat} {i : Operands.WindowItem} {items : List Operands.WindowItem}
    {joining joining' : List ReverseItem} {d f c d' f' c' : Nat} {m : ZoneLinks} (first : s.takeItem z i = s.withZoneLinks m)
    (takes : s.zoneLinks.Takes z joining d f c m)
    (rest : ∃ n, (s.withZoneLinks m).takeItems z items = (s.withZoneLinks m).withZoneLinks n ∧ m.Takes z joining' d' f' c' n) :
    ∃ n, s.takeItems z (i :: items) = s.withZoneLinks n ∧
      s.zoneLinks.Takes z (joining ++ joining') (d + d') (f + f') (c + c') n := by
  obtain ⟨n, taken, takes'⟩ := rest
  refine ⟨n, ?_, takes.trans takes'⟩
  rw [State.takeItems, List.foldl_cons, first]
  exact taken

/-- In CONFIG every item of a report is discarded. -/
theorem State.takeItems_config (z : Nat) (items : List Operands.WindowItem) {s : State} (config : s.link.partState = .config) :
    ∃ m, s.takeItems z items = s.withZoneLinks m ∧ s.zoneLinks.Takes z [] 0 0 items.length m := by
  induction items generalizing s with
  | nil => exact ⟨_, rfl, ZoneLinks.Takes.nothing _ z⟩
  | cons i items ih =>
    obtain ⟨m, first, takes⟩ := State.takeItem_config z i config
    obtain ⟨n, taken, whole⟩ := State.takeItems_cons first takes (ih (s := s.withZoneLinks m) config)
    exact ⟨n, taken, by rwa [List.length_cons, Nat.add_comm]⟩

/-- While the queue has room its next place goes to the first item. -/
theorem take_places_cons {queue : List ReverseItem} (room : queue.length < 64) (item : ReverseItem) (rest : List ReverseItem) :
    (item :: rest).take (64 - queue.length) = item :: rest.take (64 - (queue ++ [item]).length) := by
  have places : 64 - queue.length = 64 - (queue ++ [item]).length + 1 := by
    rw [List.length_append, List.length_singleton]
    omega
  rw [places, List.take_succ_cons]

theorem take_places_full {queue : List ReverseItem} (full : 64 ≤ queue.length) (items : List ReverseItem) :
    items.take (64 - queue.length) = [] := by
  rw [Nat.sub_eq_zero_of_le full, List.take_zero]

/-- Outside CONFIG the mapped items of a report join the queue while room lasts; the rest of them are dropped, the others foreign. -/
theorem State.takeItems_outside (z : Nat) (items : List Operands.WindowItem) {s : State} (outside : s.link.partState ≠ .config) :
    let mapped := items.filterMap (Operands.WindowItem.mapped s.cache.addressBase z)
    let joining := mapped.take (64 - s.zoneLinks.reverseQueue.length)
    ∃ m, s.takeItems z items = s.withZoneLinks m ∧
      s.zoneLinks.Takes z joining (mapped.length - joining.length) (items.length - mapped.length) 0 m := by
  induction items generalizing s with
  | nil => exact ⟨_, rfl, by simpa using ZoneLinks.Takes.nothing _ z⟩
  | cons i items ih =>
    intro mapped joining
    have rest : ∀ m, _ := fun m => ih (s := s.withZoneLinks m) outside
    simp only [State.withZoneLinks_cache, State.withZoneLinks_zoneLinks] at rest
    have bound := List.length_filterMap_le (Operands.WindowItem.mapped s.cache.addressBase z) items
    cases maps : i.mapped s.cache.addressBase z with
    | none =>
      have same : mapped = items.filterMap (Operands.WindowItem.mapped s.cache.addressBase z) := List.filterMap_cons_none maps
      obtain ⟨m, first, takes⟩ := State.takeItem_foreign z i outside maps
      obtain ⟨n, taken, whole⟩ := State.takeItems_cons first takes (rest m)
      rw [takes.queue, List.append_nil, ← same, Nat.zero_add] at whole
      refine ⟨n, taken, ?_⟩
      rwa [List.length_cons, Nat.add_comm items.length, Nat.add_sub_assoc (same ▸ bound)]
    | some item =>
      have cons : mapped = item :: items.filterMap (Operands.WindowItem.mapped s.cache.addressBase z) :=
        List.filterMap_cons_some maps
      by_cases room : s.zoneLinks.reverseQueue.length < 64
      · obtain ⟨m, first, takes⟩ := State.takeItem_joins z i outside maps room
        obtain ⟨n, taken, whole⟩ := State.takeItems_cons first takes (rest m)
        have joins : joining = item :: _ := (congrArg _ cons).trans (take_places_cons room item _)
        rw [takes.queue, List.singleton_append, ← joins, Nat.zero_add, Nat.zero_add] at whole
        refine ⟨n, taken, ?_⟩
        rwa [cons, joins, List.length_cons, List.length_cons, List.length_cons, Nat.add_sub_add_right, Nat.add_sub_add_right, ← joins]
      · have full := Nat.not_lt.1 room
        obtain ⟨m, first, takes⟩ := State.takeItem_drops z i outside maps full
        obtain ⟨n, taken, whole⟩ := State.takeItems_cons first takes (rest m)
        have none : joining = [] := take_places_full full mapped
        rw [takes.queue, List.append_nil, take_places_full full, List.append_nil, List.length_nil, Nat.zero_add] at whole
        refine ⟨n, taken, ?_⟩
        rwa [none, cons, List.length_cons, List.length_cons, List.length_nil, Nat.add_sub_add_right, Nat.add_comm]

/-! ### A zone after an occurrence (R154) -/

theorem State.record_zone (z : Nat) (c : Condition) (s : State) : (s.record z c).monitor.zone z =
    (s.monitor.zone z).recorded c (s.monitor.settings.conditions.get c).severity := by
  unfold State.record
  dsimp only
  split
  · rw [(State.notice_quiet _ _).settled.monitor]
    exact Monitor.zone_setZone_same _ _ _
  · exact Monitor.zone_setZone_same _ _ _

theorem Zone.recorded_configured {v : Zone} (configured : v.state ≠ .unconfigured) (c : Condition) (severity : Severity) :
    (v.recorded c severity).state ≠ .unconfigured := by
  unfold Zone.recorded
  dsimp only
  split
  · exact fun outOfService => nomatch outOfService
  · exact configured

/-- An occurrence leaves its zone configured, and a REV_SILENT that is due as it was. -/
theorem State.occurrence_zone {s : State} {z : Nat} (configured : (s.monitor.zone z).state ≠ .unconfigured) (c : Condition) :
    ((s.occurrence z c).monitor.zone z).state ≠ .unconfigured ∧
      ((s.occurrence z c).monitor.zone z).silentDue = (s.monitor.zone z).silentDue := by
  unfold State.occurrence
  split
  · exact ⟨configured, rfl⟩
  · dsimp only
    split
    · rw [State.record_zone, State.changeZone, State.withMonitor_monitor, Monitor.zone_setZone_same]
      exact ⟨Zone.recorded_configured configured c _, rfl⟩
    · rw [State.changeZone, State.withMonitor_monitor, Monitor.zone_setZone_same]
      exact ⟨configured, rfl⟩

/-- A REV_SILENT once recorded is no longer due. -/
theorem State.recordSilent_zone {s : State} {z : Nat} (configured : (s.monitor.zone z).state ≠ .unconfigured)
    (due : (s.monitor.zone z).silentDue = true) : ((s.recordSilent z).monitor.zone z).silentDue = false ∧
      ((s.recordSilent z).monitor.zone z).state ≠ .unconfigured := by
  rw [State.recordSilent_due due]
  have changed : ((s.changeZone z (fun v => { v with silence := 0, silentDue := false })).monitor.zone z) =
      { s.monitor.zone z with silence := 0, silentDue := false } := Monitor.zone_setZone_same _ _ _
  obtain ⟨still, same⟩ := State.occurrence_zone
    (s := s.changeZone z (fun v => { v with silence := 0, silentDue := false })) (by rwa [changed]) .revSilent
  exact ⟨by rw [same, changed], still⟩

/-! ### The report (R84, R91 to R93) -/

/-- A zone link that has noted a valid report (R91). -/
def ZoneLink.reported (count : Word32) (v : ZoneLink) : ZoneLink :=
  { v with lastWindow := some count, counts := { v.counts with validReports := v.counts.validReports + 1 } }

/-- A report of a zone for which no REV_SILENT is due: its arrival, then its items. -/
theorem State.takeReport_undue {s : State} {link : Nat} (undue : (s.monitor.zone link).silentDue = false) (count : Word32)
    (items : List Operands.WindowItem) : s.takeReport link count items =
      ((s.changeZone link Zone.heard).changeZoneLink link (ZoneLink.reported count)).takeItems link items := by
  rw [State.takeReport, State.recordSilent_undue undue]
  rfl

/-- A report is taken as it would be once a REV_SILENT due for its zone is recorded (log 13). -/
theorem State.takeReport_recorded {s : State} {link : Nat} (undue : ((s.recordSilent link).monitor.zone link).silentDue = false)
    (count : Word32) (items : List Operands.WindowItem) :
    (s.recordSilent link).takeReport link count items = s.takeReport link count items := by
  simp only [State.takeReport, State.recordSilent_undue undue]

/-- In CONFIG a report discards its items. -/
theorem State.takeReport_config {s : State} {link : Nat} (undue : (s.monitor.zone link).silentDue = false)
    (config : s.link.partState = .config) (count : Word32) (items : List Operands.WindowItem) :
    ∃ m, s.takeReport link count items = (s.changeZone link Zone.heard).withZoneLinks m ∧
      (s.zoneLinks.setZone link ((s.zoneLinks.zone link).reported count)).Takes link [] 0 0 items.length m := by
  rw [State.takeReport_undue undue]
  exact State.takeItems_config link items config

/-- Outside CONFIG a report puts its mapped items into the queue while room lasts. -/
theorem State.takeReport_outside {s : State} {link : Nat} (undue : (s.monitor.zone link).silentDue = false)
    (outside : s.link.partState ≠ .config) (count : Word32) {items : List Operands.WindowItem} {mapped : List ReverseItem}
    (maps : mapped = items.filterMap (Operands.WindowItem.mapped s.cache.addressBase link)) :
    ∃ m, s.takeReport link count items = (s.changeZone link Zone.heard).withZoneLinks m ∧
      (s.zoneLinks.setZone link ((s.zoneLinks.zone link).reported count)).Takes link
        (mapped.take (64 - s.zoneLinks.reverseQueue.length))
        (mapped.length - (mapped.take (64 - s.zoneLinks.reverseQueue.length)).length) (items.length - mapped.length) 0 m := by
  rw [State.takeReport_undue undue, maps]
  exact State.takeItems_outside link items outside

/-- The zone links once a report is noted and its items are taken: the other zones are as they were. -/
theorem ZoneLinks.Takes.zone_reported {l m : ZoneLinks} {link : Nat} {count : Word32} {joining : List ReverseItem} {d f c : Nat}
    (h : (l.setZone link ((l.zone link).reported count)).Takes link joining d f c m) :
    (∀ w, w ≠ link → m.zone w = l.zone w) ∧
    m.zone link = { (l.zone link).reported count with
      counts := ((l.zone link).reported count).counts.plus joining.length d f c } :=
  ⟨fun w hw => (h.others w hw).trans (ZoneLinks.zone_setZone_other l hw _), by rw [h.zone, ZoneLinks.zone_setZone_same]⟩

/-- Settles O23: the items read one by one, and the report by the zone's state, its due REV_SILENT, and the part state. -/
theorem windowReportTaken : Obligations.WindowReportTaken := by
  constructor
  · intro link body at_ item names count length fits
    exact Operands.window_fits ⟨names, count, length⟩ fits
  intro s link body count items place length reads v n mapped joining reported
  have good := fun u => exec_window_good (zoneFrameFits_of place length) u reads
  refine ⟨fun unconfigured => ?_, fun configured due => ?_, fun configured undue => ?_⟩
  · rw [good, if_pos unconfigured]
    rfl
  · obtain ⟨recorded, still⟩ := State.recordSilent_zone configured due
    refine ⟨s.recordSilent link, exec_revSilent place s, recorded, still, ?_⟩
    rw [good, good, if_neg configured, if_neg still, State.takeReport_recorded recorded]
  · have maps : mapped = items.filterMap (Operands.WindowItem.mapped s.cache.addressBase link) := by
      refine List.filterMap_congr fun i _ => ?_
      cases s.cache.addressBase with
      | none => rfl
      | some base => exact (i.mapped_base base link).symm
    rw [good, if_neg configured]
    by_cases config : s.link.partState = .config
    · obtain ⟨m, taken, takes⟩ := State.takeReport_config undue config count items
      obtain ⟨others, zone⟩ := takes.zone_reported
      refine ⟨m, congrArg _ taken, others, takes.sent, takes.unattributed, takes.lineRate, fun outside => absurd config outside,
        fun _ => ⟨takes.queue.trans (List.append_nil _), ?_⟩⟩
      rw [zone]
      simp only [ZoneLinkCounts.plus, List.length_nil, BitVec.add_zero]
      rfl
    · obtain ⟨m, taken, takes⟩ := State.takeReport_outside undue config count maps
      obtain ⟨others, zone⟩ := takes.zone_reported
      refine ⟨m, congrArg _ taken, others, takes.sent, takes.unattributed, takes.lineRate, fun _ => ⟨takes.queue, ?_⟩,
        fun inside => absurd inside config⟩
      rw [zone]
      simp only [ZoneLinkCounts.plus, BitVec.add_zero]
      rfl

end Sys2Proof.Machine
end

section
/-! SUPPORT. The answers of reach reads, and the cycle turn of the retry list (O30). -/

namespace Sys2Proof.Machine

/-! ### The entry an answer is for (R106, log 30) -/

/-- The first element of the entry that is marked, the entry being under the same admission and attempts. -/
theorem State.answered_eq_some {s : State} {a : ReachAnswer} {x : RetryElement} {before after : List RetryElement} {e : Entry}
    (list : s.retry.list = before ++ x :: after) (own : x.entry = a.entry) (pending : x.reachPending = true)
    (first : ∀ y ∈ before, ¬(y.entry = a.entry ∧ y.reachPending = true)) (live : s.store.entry a.entry = some e)
    (admission : e.admission = a.admission) (attempts : e.attempts = a.attempts) : s.answered a = some (x, e) := by
  have found : s.retry.list.find? (fun x => decide (x.entry = a.entry) && x.reachPending) = some x :=
    List.find?_eq_some_iff_append.2 ⟨by simp [own, pending], before, after, list, fun y hy => by
      simpa [-not_and, not_and_or] using first y hy⟩
  simp only [State.answered, found, live, admission, attempts, and_self, if_true]

theorem State.answered_eq_none {s : State} {a : ReachAnswer}
    (other : ∀ x ∈ s.retry.list, x.entry = a.entry → x.reachPending = true → ∀ e, s.store.entry a.entry = some e →
      e.admission ≠ a.admission ∨ e.attempts ≠ a.attempts) : s.answered a = none := by
  unfold State.answered
  split
  · rename_i x e found live
    obtain ⟨own, pending⟩ : x.entry = a.entry ∧ x.reachPending = true := by simpa using List.find?_some found
    have differs := other x (List.mem_of_find?_eq_some found) own pending e live
    exact if_neg fun ⟨admission, attempts⟩ => differs.elim (absurd admission) (absurd attempts)
  · rfl

/-! ### What an answer comes to (R107) -/

theorem State.takeAnswer_ignored {s : State} {a : ReachAnswer} (h : s.answered a = none) : s.takeAnswer a = s := by
  simp only [State.takeAnswer, h]

section
variable {s : State} {a : ReachAnswer} {x : RetryElement} {e : Entry} (h : s.answered a = some (x, e))
include h

theorem State.takeAnswer_faulted (fault : a.fault = true) : s.takeAnswer a =
    ((s.leaveRetryList x.entry).settle x.entry .faulted 0).countRetry (fun c => { c with reachFaults := c.reachFaults + 1 }) := by
  simp only [State.takeAnswer, h, fault, if_true]

variable (sound : a.fault = false)
include sound

theorem State.takeAnswer_expired (late : e.expiryCycle < a.retryAt x.retryAt) : s.takeAnswer a =
    ((s.leaveRetryList x.entry).settle x.entry .expiredLifetime 0).countRetry
      (fun c => { c with expiredLifetime := c.expiredLifetime + 1 }) := by
  simp only [State.takeAnswer, h, sound, Bool.false_eq_true, if_false, if_pos late]

theorem State.takeAnswer_filed (inTime : a.retryAt x.retryAt ≤ e.expiryCycle) (due : a.retryAt x.retryAt ≤ s.retry.horizon) :
    s.takeAnswer a = (s.leaveRetryList x.entry).file x.entry := by
  simp only [State.takeAnswer, h, sound, Bool.false_eq_true, if_false, if_neg (BitVec.not_lt.2 inTime), if_pos due]

theorem State.takeAnswer_placed (inTime : a.retryAt x.retryAt ≤ e.expiryCycle) (ahead : s.retry.horizon < a.retryAt x.retryAt) :
    s.takeAnswer a =
      (s.leaveRetryList x.entry).joinRetryList { x with retryAt := a.retryAt x.retryAt, reachPending := false } := by
  simp only [State.takeAnswer, h, sound, Bool.false_eq_true, if_false, if_neg (BitVec.not_lt.2 inTime), if_neg (BitVec.not_le.2 ahead)]

end

/-- An answer waits while a request of the Retry Unit is held, and is taken otherwise (log 15). -/
theorem exec_reachReadAnswer {s : State} {a : ReachAnswer} {rest : List ReachAnswer} (answers : s.retry.answers = a :: rest) :
    exec .reachReadAnswer s = .next (if s.retryBlocked then s else
      ((s.withRetry { s.retry with answers := rest }).takeAnswer a).settleDown) := by
  show execReachReadAnswer s = _
  simp only [execReachReadAnswer, answers]

/-! ### The lifetime step of a cycle turn (R109) -/

/-- An entry past its lifetime leaves the retry list, settles and is counted (R109). -/
def State.expireRetry (n : Nat) (s : State) : State :=
  ((s.leaveRetryList n).settle n .expiredLifetime 0).countRetry (fun c => { c with expiredLifetime := c.expiredLifetime + 1 })

/-- What is left of the retry list once the entries of a list have left it. -/
theorem State.foldl_expireRetry_list (l : List Nat) (s : State) :
    (l.foldl (fun u n => u.expireRetry n) s).retry.list = s.retry.list.filter (fun y => decide (y.entry ∉ l)) := by
  induction l generalizing s with
  | nil => simp
  | cons n l ih =>
    rw [List.foldl_cons, ih]
    show (s.retry.list.filter (fun y => decide (y.entry ≠ n))).filter (fun y => decide (y.entry ∉ l)) = _
    rw [List.filter_filter]
    refine List.filter_congr fun y _ => ?_
    simp only [List.mem_cons, not_or, Bool.decide_and, Bool.and_comm]

/-- The entries past their lifetime, and no others, leave the retry list and settle (R109). -/
theorem State.expireRetries_walk (coming : Word32) (s : State) :
    s.expireRetries coming =
      (s.retry.list.filter (fun x => s.store.expired coming x.entry)).foldl (fun u x => u.expireRetry x.entry) s ∧
    (s.expireRetries coming).retry.list = s.retry.list.filter (fun x => !s.store.expired coming x.entry) := by
  have walk : s.expireRetries coming =
      ((s.retry.list.map RetryElement.entry).filter (s.store.expired coming)).foldl (fun u n => u.expireRetry n) s := by
    rw [← State.foldl_filter_of_stable (test := fun s n => s.store.expired coming n)
      (walk := fun s n => if s.store.expired coming n then s.expireRetry n else s) (fun _ _ => rfl)
      (fun s n _ => funext fun m => State.expired_settle (s.leaveRetryList n) coming n m _ _), List.foldl_map]
    refine congrArg (fun f => s.retry.list.foldl f s) (funext fun u => funext fun x => ?_)
    unfold Store.expired
    cases u.store.entry x.entry with
    | none => rfl
    | some e => by_cases h : e.expiryCycle < coming <;> simp [h, State.expireRetry]
  refine ⟨by rw [walk, List.filter_map, List.foldl_map]; rfl, ?_⟩
  rw [walk, State.foldl_expireRetry_list]
  refine List.filter_congr fun x hx => ?_
  have left : x.entry ∈ (s.retry.list.map RetryElement.entry).filter (s.store.expired coming) ↔
      s.store.expired coming x.entry = true := by
    rw [List.mem_filter, and_iff_right (List.mem_map_of_mem hx)]
  rw [decide_not, show decide _ = decide _ from decide_eq_decide.2 left, Bool.decide_eq_true]

/-! ### The release step (R109) -/

/-- An entry due leaves the retry list, is filed and is counted as released (R109). -/
def State.releaseRetry (n : Nat) (s : State) : State :=
  ((s.leaveRetryList n).file n).countRetry (fun c => { c with releases := c.releases + 1 })

/-- The elements due at the start, and no others, leave the retry list and are filed: whether one is due hangs on the element alone. -/
theorem State.releaseDue_eq (coming : Word32) (s : State) : s.releaseDue coming =
    (s.retry.list.filter (fun x => !x.reachPending && decide (x.retryAt ≤ coming))).foldl (fun u x => u.releaseRetry x.entry) s := by
  rw [List.foldl_filter]
  simp only [State.releaseDue, Bool.and_eq_true, Bool.not_eq_true', decide_eq_true_eq]
  rfl

/-- Settles O30: the answer by the element it finds, the cycle turn by its two walks of the retry list. -/
theorem reachAnswerDecides : Obligations.ReachAnswerDecides := by
  refine ⟨fun s a rest answers blocked => ?_, fun s a rest answers free => ?_, fun s coming => ?_⟩
  · rw [exec_reachReadAnswer answers, if_pos blocked]
  · intro taken
    have run : exec .reachReadAnswer s = .next (taken.takeAnswer a).settleDown := by
      rw [exec_reachReadAnswer answers, if_neg (by rw [free]; decide)]
      rfl
    refine ⟨fun before x after e list own pending first live admission attempts => ?_, fun other => ?_⟩
    · have found : taken.answered a = some (x, e) := State.answered_eq_some list own pending first live admission attempts
      rw [run, ← own]
      refine ⟨fun fault => ?_, fun sound late => ?_, fun sound inTime due => ?_, fun sound inTime ahead => ?_⟩
      · rw [State.takeAnswer_faulted found fault]
        rfl
      · rw [State.takeAnswer_expired found sound late]
        rfl
      · rw [State.takeAnswer_filed found sound inTime due]
        rfl
      · rw [State.takeAnswer_placed found sound inTime ahead]
        rfl
    · have ignored : taken.takeAnswer a = taken := State.takeAnswer_ignored (State.answered_eq_none other)
      rw [run, ignored]
  · intro expires leave expired released
    obtain ⟨walk, list⟩ := State.expireRetries_walk coming s
    have lifetime : s.expireRetries coming = expired := walk
    have release : (s.expireRetries coming).releaseDue coming = released := by
      rw [State.releaseDue_eq, list, List.filter_filter, lifetime]
      refine congrArg (fun l => List.foldl _ expired l) (List.filter_congr fun x _ => ?_)
      show (_ && !expires x) = _
      rw [Bool.and_comm, Bool.and_assoc]
    exact congrArg (fun u : State => { u with retry := { u.retry with horizon := coming } }) release

end Sys2Proof.Machine
end

section
/-! SUPPORT. The settings that are replaced and answered at once (O3). -/

namespace Sys2Proof.Machine

/-! ### An order that is read and answered at once (R161, R162) -/

section
variable {α : Type} {s t : State} {kind : OrderKind} {place : Nat} {body : List Byte} (taken : s.takeOrder kind = some (place, body, t))
  (outside : t.link.partState ≠ .restarting) {read : List Byte → Option α}
include taken outside

theorem State.answerOrder_applied {v : α} (fields : read body = some v) (act : α → State → Answer) :
    s.answerOrder kind (outsideRestart (withOperand read act)) = (act v t).2.2.reply place (act v t).1 (act v t).2.1 := by
  rw [State.answerOrder_taken taken, outsideRestart_served outside, withOperand_some fields]

theorem State.answerOrder_badValue (fields : read body = none) (act : α → State → Answer) :
    s.answerOrder kind (outsideRestart (withOperand read act)) = t.reply place .badValue .none := by
  rw [State.answerOrder_taken taken, outsideRestart_served outside, withOperand_none fields]

end

theorem exec_setReach (s : State) :
    exec .setReach s = .next (s.answerOrder .setReach (outsideRestart (withOperand Operands.setReach setReachAct))) := rfl

theorem exec_setPolicy (s : State) :
    exec .setPolicy s = .next (s.answerOrder .setPolicy (outsideRestart (withOperand Operands.setPolicy setPolicyAct))) := rfl

theorem exec_setNotices (s : State) :
    exec .setNotices s = .next (s.answerOrder .setNotices (outsideRestart (withOperand Operands.setNotices setNoticesAct))) := rfl

theorem exec_setFaultHandling (s : State) : exec .setFaultHandling s =
    .next (s.answerOrder .setFaultHandling (outsideRestart (withOperand Operands.setFaultHandling setFaultHandlingAct))) := rfl

/-! ### The fields of the four orders (12.2) -/

namespace Operands

/-- What is read after a field whose range is checked. -/
theorem guarded_bind {α β : Type} (p : Prop) [Decidable p] (a : α) (f : α → Option β) :
    (if p then some a else none).bind f = if p then f a else none := by
  split <;> rfl

/-- Numbers read one by one, each checked against one bound. -/
theorem mapM_within {α : Type} (hi : Nat) (g : α → Nat) (l : List α) :
    l.mapM (fun a => within 0 hi (g a)) = if ∀ a ∈ l, g a ≤ hi then some (l.map g) else none := by
  split
  · rename_i fits
    exact mapM_of_forall fun a ha => within_of ⟨Nat.zero_le _, fits a ha⟩
  · rename_i wrong
    obtain ⟨a, ha, high⟩ : ∃ a ∈ l, ¬g a ≤ hi := by simpa using wrong
    exact mapM_of_exists ha (within_of_not fun range => high range.2)

theorem setReach_eq (u p : Byte) :
    setReach [u, p] = if 1 ≤ u.toNat ∧ 1 ≤ p.toNat then some (u.toNat, p.toNat) else none := by
  have h0 : Bytes.field [u, p] 0 1 = u.toNat := Bytes.field_one _ _
  have h1 : Bytes.field [u, p] 1 1 = p.toNat := Bytes.field_one _ _
  have bound : ∀ b : Byte, b.toNat ≤ 255 := fun b => Nat.le_of_lt_succ b.isLt
  simp only [setReach, h0, h1, within, bound, and_true, Option.bind_eq_bind, Option.pure_def, guarded_bind]
  simp only [ite_and]

/-- The row of the policy table that the bytes of a SET_POLICY give (12.2). -/
def policyRow (attempts b1 b2 b3 b4 b5 b6 hi lo repeats : Byte) : PolicyRow :=
  { maxAttempts := attempts.toNat, backoff := [b1.toNat, b2.toNat, b3.toNat, b4.toNat, b5.toNat, b6.toNat],
    lifetime := hi.toNat * 256 + lo.toNat, repeats := repeats.toNat }

theorem setPolicy_eq (level attempts b1 b2 b3 b4 b5 b6 hi lo repeats unused : Byte) :
    setPolicy [level, attempts, b1, b2, b3, b4, b5, b6, hi, lo, repeats, unused] =
      if level.toNat < 4 ∧ (1 ≤ attempts.toNat ∧ attempts.toNat ≤ 7) ∧ (∀ b ∈ [b1, b2, b3, b4, b5, b6], b.toNat ≤ 15) ∧
          1 ≤ hi.toNat * 256 + lo.toNat ∧ 1 ≤ repeats.toNat ∧ repeats.toNat ≤ 7 then
        some (level.toNat, policyRow attempts b1 b2 b3 b4 b5 b6 hi lo repeats)
      else none := by
  have two : Bytes.field [level, attempts, b1, b2, b3, b4, b5, b6, hi, lo, repeats, unused] 8 2 = hi.toNat * 256 + lo.toNat := by
    simp [Bytes.field, Bytes.toNat]
  have bound : hi.toNat * 256 + lo.toNat ≤ 65535 := by
    have := hi.isLt
    have := lo.isLt
    omega
  have six : [2, 3, 4, 5, 6, 7].mapM (fun i => within 0 15
      (Bytes.field [level, attempts, b1, b2, b3, b4, b5, b6, hi, lo, repeats, unused] i 1)) =
      [b1, b2, b3, b4, b5, b6].mapM (fun b => within 0 15 b.toNat) := by
    simp only [Bytes.field_one]
    rfl
  simp only [setPolicy, two, six, mapM_within]
  simp only [Bytes.field_one, below, within, bound, and_true, Option.bind_eq_bind, Option.pure_def, guarded_bind]
  simp only [ite_and]
  rfl

theorem setNotices_listed {b : Byte} {n : NoticeSelection}
    (h : (b, n) ∈ [((0 : Byte), NoticeSelection.all), (1, NoticeSelection.failuresAndReplies), (2, NoticeSelection.none)]) :
    setNotices [b] = some n := by
  simp only [List.mem_cons, Prod.mk.injEq, List.not_mem_nil, or_false] at h
  obtain ⟨rfl, rfl⟩ | ⟨rfl, rfl⟩ | ⟨rfl, rfl⟩ := h
  · rfl
  · rfl
  · rfl

theorem setNotices_unlisted {b : Byte} (h : 2 < b.toNat) : setNotices [b] = none := by
  have h0 : Bytes.field [b] 0 1 = b.toNat := Bytes.field_one _ _
  obtain ⟨k, hk⟩ := Nat.exists_eq_add_of_lt h
  rw [setNotices, h0, hk, show 2 + k + 1 = k + 3 by omega]
  rfl

/-- The settings that the bytes of a SET_FAULT_HANDLING give (12.2). -/
def faultSettings (c0 c1 c2 c3 c4 limit silence : Byte) : FaultSettings :=
  { conditions := { untaken := conditionSetting c0, fwdFrameError := conditionSetting c1, revFrameError := conditionSetting c2,
                    revSilent := conditionSetting c3, refUnlock := conditionSetting c4 },
    untakenLimit := limit.toNat, silenceLimit := silence.toNat }

theorem setFaultHandling_eq (c0 c1 c2 c3 c4 limit silence unused : Byte) :
    setFaultHandling [c0, c1, c2, c3, c4, limit, silence, unused] =
      if (1 ≤ limit.toNat ∧ limit.toNat ≤ 15) ∧ 4 ≤ silence.toNat then some (faultSettings c0 c1 c2 c3 c4 limit silence) else none := by
  have h5 : Bytes.field [c0, c1, c2, c3, c4, limit, silence, unused] 5 1 = limit.toNat := Bytes.field_one _ _
  have h6 : Bytes.field [c0, c1, c2, c3, c4, limit, silence, unused] 6 1 = silence.toNat := Bytes.field_one _ _
  have bound : silence.toNat ≤ 255 := Nat.le_of_lt_succ silence.isLt
  simp only [setFaultHandling, h5, h6, within, bound, and_true, Option.bind_eq_bind, Option.pure_def, guarded_bind]
  simp only [ite_and]
  rfl

end Operands

theorem ne_zero_of_one_le_toNat {b : Byte} (h : 1 ≤ b.toNat) : b ≠ 0 := by
  rintro rfl
  exact absurd h (by decide)

/-- Settles O3: each order by its fields as read. -/
theorem hostSettingsReplaced : Obligations.HostSettingsReplaced := by
  refine ⟨fun s t place u p taken outside hu hp => ?_, fun s t place u p taken outside zero => ?_,
    fun s t place level attempts b1 b2 b3 b4 b5 b6 hi lo repeats unused taken outside hl ha ha' hb life hr hr' => ?_,
    fun s t place level attempts b1 b2 b3 b4 b5 b6 hi lo repeats unused taken outside wrong => ?_,
    fun s t place b n taken outside listed => ?_, fun s t place b taken outside unlisted => ?_,
    fun s t place c0 c1 c2 c3 c4 limit silence unused taken outside low high quiet => ?_,
    fun s t place c0 c1 c2 c3 c4 limit silence unused taken outside wrong => ?_⟩
  · have fields := (Operands.setReach_eq u p).trans (if_pos ⟨hu, hp⟩)
    rw [exec_setReach, State.answerOrder_applied taken outside fields]
    rfl
  · have fields := (Operands.setReach_eq u p).trans (if_neg fun range =>
      zero.elim (ne_zero_of_one_le_toNat range.1) (ne_zero_of_one_le_toNat range.2))
    rw [exec_setReach, State.answerOrder_badValue taken outside fields]
  · have fields := (Operands.setPolicy_eq level attempts b1 b2 b3 b4 b5 b6 hi lo repeats unused).trans
      (if_pos ⟨hl, ⟨ha, ha'⟩, hb, life, hr, hr'⟩)
    rw [exec_setPolicy, State.answerOrder_applied taken outside fields]
    rfl
  · have fields := (Operands.setPolicy_eq level attempts b1 b2 b3 b4 b5 b6 hi lo repeats unused).trans
      (if_neg (by
        rintro ⟨hl, ⟨ha, ha'⟩, hb, life, hr, hr'⟩
        obtain high | zero | high | ⟨b, member, high⟩ | ⟨rfl, rfl⟩ | zero | high := wrong
        · omega
        · exact ne_zero_of_one_le_toNat ha zero
        · omega
        · exact Nat.not_lt.2 (hb b member) high
        · exact absurd life (by decide)
        · exact ne_zero_of_one_le_toNat hr zero
        · omega))
    rw [exec_setPolicy, State.answerOrder_badValue taken outside fields]
  · rw [exec_setNotices, State.answerOrder_applied taken outside (Operands.setNotices_listed listed)]
    rfl
  · rw [exec_setNotices, State.answerOrder_badValue taken outside (Operands.setNotices_unlisted unlisted)]
  · have fields := (Operands.setFaultHandling_eq c0 c1 c2 c3 c4 limit silence unused).trans (if_pos ⟨⟨low, high⟩, quiet⟩)
    rw [exec_setFaultHandling, State.answerOrder_applied taken outside fields]
    rfl
  · have fields := (Operands.setFaultHandling_eq c0 c1 c2 c3 c4 limit silence unused).trans (if_neg (by
      rintro ⟨⟨low, high⟩, quiet⟩
      obtain zero | above | below := wrong
      · exact ne_zero_of_one_le_toNat low zero
      · omega
      · omega))
    rw [exec_setFaultHandling, State.answerOrder_badValue taken outside fields]

end Sys2Proof.Machine
end

section
/-! SUPPORT. Plans staged, applied and read: PLAN_SET, CLOSE_PERIOD and PLAN_READ (O7, O8). -/

namespace Sys2Proof.Machine

/-! ### The copies of a plan after a change (R117, R118) -/

namespace Charging

theorem activePlan_storePlan (c : Charging) (n m : Nat) (p : Plan) :
    (c.storePlan n p).activePlan m = if m = n then p else c.activePlan m :=
  (Table.get_set _ _ _ _ _).trans (if_congr eq_comm rfl rfl)

theorem pendingPlan_storePlan (c : Charging) (n m : Nat) (p : Plan) :
    (c.storePlan n p).pendingPlan m = if m = n then { plan := p, mark := false } else c.pendingPlan m :=
  (Table.get_set _ _ _ _ _).trans (if_congr eq_comm rfl rfl)

theorem pendingPlan_stagePlan (c : Charging) (n m : Nat) (p : Plan) :
    (c.stagePlan n p).pendingPlan m = if m = n then { plan := p, mark := true } else c.pendingPlan m :=
  (Table.get_set _ _ _ _ _).trans (if_congr eq_comm rfl rfl)

/-! ### Marked plans applied (R120) -/

/-- The pending copy of a plan made active, its mark cleared: what CLOSE_PERIOD does to each marked plan. -/
def applyPlan (c : Charging) (n : Nat) : Charging := c.storePlan n (c.pendingPlan n).plan

theorem closePeriod_eq (c : Charging) : c.closePeriod = { c.marked.foldl applyPlan c with period := c.period + 1 } := rfl

/-- Applying a plan clears a mark, and no pending copy changes. -/
theorem applyPlan_pending (c : Charging) (n m : Nat) : ((c.applyPlan n).pendingPlan m).plan = (c.pendingPlan m).plan := by
  rw [applyPlan, pendingPlan_storePlan]
  split
  · rename_i same
    rw [same]
  · rfl

theorem foldl_applyPlan (l : List Nat) (c : Charging) (m : Nat) :
    (l.foldl applyPlan c).activePlan m = (if m ∈ l then (c.pendingPlan m).plan else c.activePlan m) ∧
    (l.foldl applyPlan c).pendingPlan m =
      (if m ∈ l then { plan := (c.pendingPlan m).plan, mark := false } else c.pendingPlan m) := by
  induction l generalizing c with
  | nil => exact ⟨rfl, rfl⟩
  | cons n l ih =>
    obtain ⟨active, pending⟩ := ih (c.applyPlan n)
    rw [List.foldl_cons, active, pending, applyPlan_pending]
    by_cases later : m ∈ l
    · simp only [later, List.mem_cons, or_true, if_true, and_self]
    · by_cases now : m = n
      · subst now
        simp only [later, applyPlan, activePlan_storePlan, pendingPlan_storePlan, List.mem_cons, true_or, if_true, if_false, and_self]
      · simp only [later, now, applyPlan, activePlan_storePlan, pendingPlan_storePlan, List.mem_cons, or_self, if_false, and_self]

/-- Applying plans changes the copies of plans alone. -/
theorem foldl_applyPlan_frame (l : List Nat) (c : Charging) :
    l.foldl applyPlan c = { c with active := (l.foldl applyPlan c).active, pending := (l.foldl applyPlan c).pending } := by
  induction l generalizing c with
  | nil => rfl
  | cons n l ih => exact ih (c.applyPlan n)

theorem mem_marked (c : Charging) (m : Nat) : m ∈ c.marked ↔ m < 64 ∧ (c.pendingPlan m).mark = true := by
  rw [marked, List.mem_filter, List.mem_range]

theorem closePeriod_frame (c : Charging) :
    c.closePeriod = { c with period := c.period + 1, active := c.closePeriod.active, pending := c.closePeriod.pending } := by
  conv_lhs => rw [closePeriod_eq, foldl_applyPlan_frame]
  rfl

/-- What CLOSE_PERIOD makes of the two copies of a plan. -/
theorem closePeriod_plan (c : Charging) (m : Nat) :
    c.closePeriod.activePlan m = (if m ∈ c.marked then (c.pendingPlan m).plan else c.activePlan m) ∧
    c.closePeriod.pendingPlan m =
      (if m ∈ c.marked then { plan := (c.pendingPlan m).plan, mark := false } else c.pendingPlan m) :=
  foldl_applyPlan c.marked c m

end Charging

/-! ### The fields of a PLAN_SET (12.2) -/

namespace Operands

/-- Numbers read one by one, each checked against the same two bounds. -/
theorem mapM_between {α : Type} (lo hi : Nat) (g : α → Nat) (l : List α) :
    l.mapM (fun a => within lo hi (g a)) = if ∀ a ∈ l, lo ≤ g a ∧ g a ≤ hi then some (l.map g) else none := by
  split
  · rename_i fits
    exact mapM_of_forall fun a ha => within_of (fits a ha)
  · rename_i wrong
    obtain ⟨a, ha, misfit⟩ : ∃ a ∈ l, ¬(lo ≤ g a ∧ g a ≤ hi) := by simpa only [not_forall, exists_prop] using wrong
    exact mapM_of_exists ha (within_of_not misfit)

/-- The fields of a PLAN_SET lie in the ranges of R117. B, A and the upper bound of M are bounds of their bytes. -/
abbrev PlanFits (body : List Byte) : Prop :=
  Bytes.field body 0 1 < 64 ∧ Bytes.field body 4 2 ≤ 4095 ∧ Bytes.field body 6 2 ≤ 4095 ∧
    (∀ i ∈ [8, 9, 10, 11], 16 ≤ Bytes.field body i 1 ∧ Bytes.field body i 1 ≤ 64) ∧
    Bytes.field body 12 1 ≤ 16 ∧ Bytes.field body 13 1 ≤ 16 ∧ 1 ≤ Bytes.field body 14 3

/-- The plan that the bytes of a PLAN_SET give. -/
def planAt (body : List Byte) : Plan :=
  { base := Bytes.field body 2 2, block := Bytes.field body 4 2, retry := Bytes.field body 6 2,
    priority := [8, 9, 10, 11].map (fun i => Bytes.field body i 1), group := Bytes.field body 12 1,
    expiry := Bytes.field body 13 1, cap := Bytes.field body 14 3, allowance := Bytes.field body 18 2 }

theorem planSet_eq (body : List Byte) :
    planSet body = if PlanFits body then some (Bytes.field body 0 1, planAt body) else none := by
  have bound : Bytes.field body 14 3 ≤ 16777215 := Nat.le_of_lt_succ (Bytes.field_lt body 14 3)
  have rates := mapM_between 16 64 (fun i => Bytes.field body i 1) [8, 9, 10, 11]
  simp only [planSet, rates]
  simp only [below, within, bound, Nat.zero_le, and_true, true_and, Option.bind_eq_bind, Option.pure_def, guarded_bind]
  simp only [PlanFits, ite_and]
  rfl

theorem planSet_fits {body : List Byte} (h : PlanFits body) : planSet body = some (Bytes.field body 0 1, planAt body) :=
  (planSet_eq body).trans (if_pos h)

theorem planSet_misfit {body : List Byte} (h : ¬PlanFits body) : planSet body = none :=
  (planSet_eq body).trans (if_neg h)

/-- A PLAN_SET does not fit by a field above its range, or by a rate or a cap below it. -/
theorem not_planFits_iff (body : List Byte) : ¬PlanFits body ↔
    64 ≤ Bytes.field body 0 1 ∨ 4095 < Bytes.field body 4 2 ∨ 4095 < Bytes.field body 6 2 ∨
      (∃ i ∈ [8, 9, 10, 11], Bytes.field body i 1 < 16 ∨ 64 < Bytes.field body i 1) ∨
      16 < Bytes.field body 12 1 ∨ 16 < Bytes.field body 13 1 ∨ Bytes.field body 14 3 = 0 := by
  simp only [PlanFits, not_and_or, not_forall, exists_prop, Nat.not_lt, Nat.not_le, Nat.lt_one_iff]

theorem planRead_low {n : Byte} (h : n.toNat ≤ 63) : planRead [n] = some n.toNat :=
  (congrArg (below 64) (Bytes.field_one [n] 0)).trans (below_of_lt (Nat.lt_succ_of_le h))

theorem planRead_high {n : Byte} (h : 63 < n.toNat) : planRead [n] = none :=
  (congrArg (below 64) (Bytes.field_one [n] 0)).trans (below_of_le (n := n.toNat) h)

end Operands

/-! ### The three orders carried out (R118 to R120) -/

theorem exec_planSet (s : State) :
    exec .planSet s = .next (s.answerOrder .planSet (outsideRestart (withOperand Operands.planSet planSetAct))) := rfl

theorem exec_planRead (s : State) :
    exec .planRead s = .next (s.answerOrder .planRead (outsideRestart (withOperand Operands.planRead planReadAct))) := rfl

theorem exec_closePeriod (s : State) : exec .closePeriod s = .next (s.answerOrder .closePeriod closePeriodAct) := rfl

theorem planSetAct_config {t : State} (config : t.link.partState = .config) (n : Nat) (p : Plan) :
    planSetAct (n, p) t = (.ok, .planStored n false, t.withCharging (t.charging.storePlan n p)) := if_pos config

theorem planSetAct_other {t : State} (other : t.link.partState ≠ .config) (n : Nat) (p : Plan) :
    planSetAct (n, p) t = (.ok, .planStored n true, t.withCharging (t.charging.stagePlan n p)) := if_neg other

theorem closePeriodAct_running {t : State} (running : t.link.partState = .running) (body : List Byte) :
    closePeriodAct body t =
      (.ok, .periodClosed (t.charging.period + 1) t.charging.marked.length, t.withCharging t.charging.closePeriod) :=
  if_neg (not_not_intro running)

theorem closePeriodAct_refused {t : State} (other : t.link.partState ≠ .running) (body : List Byte) :
    closePeriodAct body t = (.wrongState, .none, t) := if_pos other

/-- Settles O7: PLAN_SET by its fields and the part state, CLOSE_PERIOD by the plans it applies one after another. -/
theorem plansStagedAndApplied : Obligations.PlansStagedAndApplied := by
  refine ⟨fun s t place body n p taken fields => ⟨fun config => ?_, fun running => ?_⟩, fun s t place body taken running => ?_,
    fun s t place body taken => ?_, fun s t place body taken other => ?_⟩
  · have outside : t.link.partState ≠ .restarting := by simp [config]
    refine ⟨t.charging.storePlan n p, ?_, rfl, fun m => Charging.activePlan_storePlan _ n m p,
      fun m => Charging.pendingPlan_storePlan _ n m p⟩
    rw [exec_planSet, State.answerOrder_applied taken outside fields, planSetAct_config config]
    rfl
  · have outside : t.link.partState ≠ .restarting := by simp [running]
    refine ⟨t.charging.stagePlan n p, ?_, rfl, fun m => Charging.pendingPlan_stagePlan _ n m p⟩
    rw [exec_planSet, State.answerOrder_applied taken outside fields, planSetAct_other (by simp [running])]
    rfl
  · refine ⟨t.charging.closePeriod, t.charging.marked.length, ?_, Charging.closePeriod_frame _, fun m low mark => ?_,
      fun m unmarked => ?_, rfl⟩
    · rw [exec_closePeriod, State.answerOrder_taken taken, closePeriodAct_running running]
      rfl
    · have marked : m ∈ t.charging.marked := (Charging.mem_marked _ m).2 ⟨low, mark⟩
      obtain ⟨active, pending⟩ := Charging.closePeriod_plan t.charging m
      exact ⟨active.trans (if_pos marked), pending.trans (if_pos marked)⟩
    · have unmarked : m ∉ t.charging.marked := fun h => unmarked ((Charging.mem_marked _ m).1 h)
      obtain ⟨active, pending⟩ := Charging.closePeriod_plan t.charging m
      exact ⟨active.trans (if_neg unmarked), pending.trans (if_neg unmarked)⟩
  · intro at_ wrong
    refine ⟨fun misfit outside => ?_, fun fits => ?_⟩
    · have unread := Operands.planSet_misfit ((Operands.not_planFits_iff body).2 misfit)
      rw [exec_planSet, State.answerOrder_badValue taken outside unread]
    · exact Operands.planSet_fits (not_not.1 (mt (Operands.not_planFits_iff body).1 fits))
  · rw [exec_closePeriod, State.answerOrder_taken taken, closePeriodAct_refused other]

/-- Settles O8: by the part state, the range of the number and the mark. -/
theorem planReadAnswers : Obligations.PlanReadAnswers := by
  intro s t place n taken pending
  refine ⟨fun restarting => ?_, fun outside high => ?_, fun outside low => ?_⟩
  · rw [exec_planRead, State.answerOrder_taken taken, outsideRestart_refused restarting]
  · rw [exec_planRead, State.answerOrder_badValue taken outside (Operands.planRead_high high)]
  · have copies : exec .planRead s = .next (t.reply place .ok (.planCopies (t.charging.activePlan n.toNat)
        (if pending.mark then some pending.plan else none) t.charging.period)) := by
      rw [exec_planRead, State.answerOrder_applied taken outside (Operands.planRead_low low)]
      rfl
    refine ⟨fun marked => ?_, fun unmarked => ?_⟩
    · rw [copies, if_pos marked]
    · rw [copies, if_neg (by simp [unmarked])]

end Sys2Proof.Machine
end

section
/-! SUPPORT. Pricing an outcome, the reservation estimate, and the settlement of the head on its record (O33 to O35). -/

namespace Sys2Proof.Machine

/-! ### Pricing (R121, R122) -/

theorem scaled_mono {a b p q : Nat} (amount : a ≤ b) (factor : p ≤ q) : scaled a p ≤ scaled b q :=
  Nat.div_le_div_right (Nat.add_le_add_right (Nat.mul_le_mul amount factor) 8)

namespace EntryOutcome

theorem isDelivered_iff (o : EntryOutcome) : o.isDelivered = true ↔ o = .delivered ∨ o = .unconfirmed := by
  cases o <;> simp [isDelivered]

theorem isDelivered_of_mem {o : EntryOutcome} (h : o ∈ [EntryOutcome.delivered, .unconfirmed]) : o.isDelivered = true :=
  (isDelivered_iff o).2 (List.mem_pair.1 h)

end EntryOutcome

namespace Plan

/-- The factor of a level the plan lists does not depend on what stands for an unlisted one. -/
theorem factor_listed {p : Plan} {level : Nat} (h : level < p.priority.length) (d : Nat) :
    p.priority.getD level 16 = p.priority.getD level d := by
  rw [List.getD_eq_getElem _ _ h, List.getD_eq_getElem _ _ h]

theorem groupStep_eq (p : Plan) (group : Option Nat) (sum : Nat) :
    p.groupStep group.isSome sum = if group = none then sum else scaled sum p.group := by
  cases group <;> rfl

theorem groupStep_mono (p : Plan) (member : Bool) {a b : Nat} (h : a ≤ b) : p.groupStep member a ≤ p.groupStep member b := by
  cases member
  · exact h
  · exact scaled_mono h le_rfl

/-- The raw fee of a delivered page: nothing while allowance remains (R121, steps 1 and 2). -/
def rawFee (p : Plan) (blocks used : Nat) : Nat := if used < p.allowance then 0 else p.base + p.block * blocks

theorem rawFee_le (p : Plan) (blocks used : Nat) : p.rawFee blocks used ≤ p.base + p.block * blocks := by
  unfold rawFee
  split
  · exact Nat.zero_le _
  · exact le_rfl

theorem within_iff {o : EntryOutcome} (delivered : o.isDelivered = true) (p : Plan) (used : Nat) :
    p.within o used = true ↔ used < p.allowance := by
  rw [within, delivered, Bool.true_and, decide_eq_true_iff]

theorem charge_delivered {o : EntryOutcome} (delivered : o.isDelivered = true) (p : Plan) (e : Entry) (used : Nat) :
    p.charge o e used = min (p.groupStep e.group.isSome
      (scaled (p.rawFee e.blocks used) (p.priority.getD e.originalLevel 16) + p.retry * (e.attempts - 1))) p.cap := by
  have raw : (if p.within o used then 0 else p.base + p.block * e.blocks) = p.rawFee e.blocks used :=
    if_congr (within_iff delivered p used) rfl rfl
  rw [← raw]
  rcases (EntryOutcome.isDelivered_iff o).1 delivered with rfl | rfl
  · rfl
  · rfl

theorem charge_expired {o : EntryOutcome} (h : o ∈ [EntryOutcome.expiredRetries, .expiredLifetime]) (p : Plan) (e : Entry)
    (used : Nat) : p.charge o e used = min (scaled p.base p.expiry) p.cap ∧ p.within o used = false := by
  rcases List.mem_pair.1 h with rfl | rfl
  · exact ⟨rfl, rfl⟩
  · exact ⟨rfl, rfl⟩

theorem charge_free {o : EntryOutcome} (h : o ∈ [EntryOutcome.cancelled, .faulted]) (p : Plan) (e : Entry) (used : Nat) :
    p.charge o e used = 0 ∧ p.within o used = false := by
  rcases List.mem_pair.1 h with rfl | rfl
  · exact ⟨rfl, rfl⟩
  · exact ⟨rfl, rfl⟩

theorem charge_le_cap (p : Plan) (o : EntryOutcome) (e : Entry) (used : Nat) : p.charge o e used ≤ p.cap := by
  cases o with
  | delivered | unconfirmed => exact min_le_right _ _
  | expiredRetries | expiredLifetime => exact min_le_right _ _
  | cancelled | faulted => exact Nat.zero_le _

/-! ### The estimate covers the charge (R123) -/

/-- Delivered after no more attempts than the estimate supposes: each step of R121 is monotone. -/
theorem charge_le_estimate {o : EntryOutcome} (delivered : o.isDelivered = true) (p : Plan) (e : Entry) (used : Nat) {m : Nat}
    (attempts : e.attempts ≤ m) : p.charge o e used ≤ p.estimate e.blocks e.originalLevel m e.group.isSome := by
  rw [charge_delivered delivered]
  exact min_le_min_right p.cap (p.groupStep_mono _ (Nat.add_le_add (scaled_mono (p.rawFee_le _ _) le_rfl)
    (Nat.mul_le_mul_left _ (Nat.sub_le_sub_right attempts 1))))

/-- The expiry factor is no more than a priority factor, so B scaled by it is no more than the page fee. -/
theorem expiry_le_pageFee {p : Plan} {level : Nat} (listed : level < p.priority.length) (factors : ∀ q ∈ p.priority, 16 ≤ q)
    (expiry : p.expiry ≤ 16) (blocks : Nat) : scaled p.base p.expiry ≤ p.pageFee blocks level := by
  have factor : 16 ≤ p.priority.getD level 16 := by
    rw [List.getD_eq_getElem _ _ listed]
    exact factors _ (List.getElem_mem listed)
  exact scaled_mono (Nat.le_add_right _ _) (expiry.trans factor)

end Plan

/-- Settles O33, outcome by outcome. -/
theorem chargePriced : Obligations.ChargePriced := by
  intro p e used listed n a raw fee sum expiry
  refine ⟨fun o ho => ?_, fun o ho => ?_, fun o ho => Plan.charge_free ho p e used, fun o => p.charge_le_cap o e used⟩
  · have delivered := EntryOutcome.isDelivered_of_mem ho
    refine ⟨?_, Plan.within_iff delivered p used⟩
    rw [Plan.charge_delivered delivered, Plan.factor_listed listed 0, Plan.groupStep_eq, Nat.min_def]
    rfl
  · obtain ⟨charge, within⟩ := Plan.charge_expired ho p e used
    exact ⟨charge.trans Nat.min_def, within⟩

/-- Settles O34: the steps of the price are monotone, and the expiry factor is at most a priority factor. -/
theorem estimateCoversCharge : Obligations.EstimateCoversCharge := by
  intro p e used m listed factors expiry attempts estimate fee stepped
  refine ⟨?_, fun o ho => p.charge_le_estimate (EntryOutcome.isDelivered_of_mem ho) e used attempts, fun alone o ho => ?_⟩
  · simp only [estimate, Plan.estimate, Plan.pageFee, Plan.factor_listed listed 0, Plan.groupStep_eq, Nat.min_def]
    rfl
  · have fee := (Plan.expiry_le_pageFee listed factors expiry e.blocks).trans (Nat.le_add_right _ (p.retry * (m - 1)))
    rw [(Plan.charge_expired ho p e used).1]
    simp only [estimate, Plan.estimate, alone]
    exact min_le_min_right p.cap fee

/-! ### The settlement of the head (R126 to R129) -/

theorem State.awaitedHead_record {s : State} {el : SettleElement} {rest : List SettleElement} {e : Entry}
    (head : s.charging.head = .record) (list : s.charging.settleList = el :: rest) (live : s.store.entry el.entry = some e) :
    s.awaitedHead = some (el, e) := by
  simp only [State.awaitedHead, head, list, live, Option.map_some]

theorem execSettlement_held {s : State} {sub way : Nat} {el : SettleElement} {e : Entry}
    (turn : s.heldTurn .settlementRead = some (sub, way)) (awaited : s.awaitedHead = some (el, e)) :
    exec .settlement s = .next ((s.serveHolding sub way).settleServed sub way).settleDown := by
  show execSettlement s = _
  simp only [execSettlement, turn, awaited]

/-- The head settled on the record its read has served. -/
theorem State.settleServed_eq {s : State} {el : SettleElement} {e : Entry} {o : EntryOutcome} (awaited : s.awaitedHead = some (el, e))
    (outcome : e.outcome = some o) (sub way : Nat) :
    let r := s.lineRecord sub way
    let m := moneyOf (s.charging.activePlan r.host.plan) e o r
    s.settleServed sub way = (s.closingUpdate sub way (settlementUpdate m e o)).finishSettlement el e m (some r.host.plan) := by
  simp only [State.settleServed, awaited, outcome, Option.getD_some]

theorem moneyOf_prepaid {r : Record} (prepaid : r.host.account = .prepaid) (p : Plan) (e : Entry) (o : EntryOutcome) :
    let m := moneyOf p e o r
    m.deducted = min (p.charge o e r.allowanceUsed) (r.balance - (r.reserved - e.reservation)) ∧
      m.shortfall = p.charge o e r.allowanceUsed - m.deducted := by
  simp only [moneyOf, prepaid, Record.others, and_self]

theorem moneyOf_postpaid {r : Record} (postpaid : ¬r.host.account = .prepaid) (p : Plan) (e : Entry) (o : EntryOutcome) :
    (moneyOf p e o r).deducted = 0 ∧ (moneyOf p e o r).shortfall = 0 := by
  have account : r.host.account = .postpaid := by
    cases h : r.host.account with
    | postpaid => rfl
    | prepaid => exact absurd h postpaid
  simp only [moneyOf, account, and_self]

/-- Settles O35: the money by the kind of account, the record by the closing update on the record as rolled. -/
theorem settlementMovesMoney : Obligations.SettlementMovesMoney := by
  intro s sub way el rest e o turn head list live outcome r p charge others prepaid
  obtain ⟨c, held, closed, record⟩ := State.closingUpdate_held s sub way (State.heldTurn_valid turn)
    (settlementUpdate (moneyOf p e o r) e o)
  refine ⟨c, moneyOf p e o r, _, rfl, rfl, fun h => moneyOf_prepaid h p e o, fun h => moneyOf_postpaid h p e o, ?_, held, ?_⟩
  · simp only [settlementUpdate, EntryOutcome.isDelivered_iff]
    rfl
  · have served : (s.serveHolding sub way).awaitedHead = some (el, e) := State.awaitedHead_record head list live
    rw [execSettlement_held turn (State.awaitedHead_record head list live), State.settleServed_eq served outcome, record]
    exact congrArg (fun u : State => Host.Outcome.next (u.finishSettlement el e (moneyOf p e o r) (some r.host.plan)).settleDown) closed

end Sys2Proof.Machine
end

section
/-! SUPPORT. Notices offered, and what a link reset discards (O18). -/

namespace Sys2Proof.Machine

/-! ### What the transmitter holds (R159, R163) -/

namespace Sending

/-- The replies being sent: one or none. -/
def replies : Sending → Nat
  | .reply _ _ => 1
  | _ => 0

/-- The notices being sent: one or none. -/
def notices : Sending → Nat
  | .notice _ => 1
  | _ => 0

end Sending

namespace Link

theorem repliesHeld_eq_add (l : Link) : l.repliesHeld = l.ready.length + l.sending.replies := by
  unfold repliesHeld
  cases l.sending <;> rfl

theorem noticeCount_eq_add (l : Link) : l.noticeCount = l.notices.length + l.sending.notices := by
  unfold noticeCount
  cases l.sending <;> rfl

/-! ### A notice offered (R163) -/

theorem offerNotice_queued {l : Link} (room : l.noticeCount < 256) (body : NoticeBody) :
    l.offerNotice body = Link.startSending
      { l with nextNotice := nextNumber l.nextNotice, notices := l.notices ++ [{ number := l.nextNotice, body }] } :=
  if_pos room

theorem offerNotice_dropped {l : Link} (full : 256 ≤ l.noticeCount) (body : NoticeBody) :
    l.offerNotice body =
      { l with nextNotice := nextNumber l.nextNotice, counts := { l.counts with dropped := l.counts.dropped.drop body } } :=
  if_neg (Nat.not_lt.2 full)

end Link

/-! ### The link reset (R142, R159) -/

theorem execLinkReset_inBreak {s : State} (lasts : s.link.inBreak = true) : exec .linkReset s = .next s := by
  show execLinkReset s = _
  rw [execLinkReset, if_pos lasts]

theorem execLinkReset_begins {s : State} (begins : s.link.inBreak = false) :
    exec .linkReset s = .next (s.withLink s.link.reset).logReset := by
  show execLinkReset s = _
  rw [execLinkReset, if_neg (ne_true_of_eq_false begins)]

theorem State.logReset_low {s : State} (low : s.log.records.length < 768) :
    s.logReset = { s with log := { s.log with lastReturned := 0 } } :=
  if_neg (Nat.not_le.2 low)

theorem State.logReset_high {s : State} (high : 768 ≤ s.log.records.length) : s.logReset = { s with
    link := s.link.offerNotice
      (.logHigh s.log.records.length (firstSequence s.log.records) (lastSequence s.log.records) s.log.setAside)
    log := { s.log with
      lastReturned := 0, high := .sent, counts := { s.log.counts with highNotices := s.log.counts.highNotices + 1 } } } :=
  if_pos high

/-- Settles O18: the Link Interface by what it holds at the reset, the log by the 768, a notice by the 256 places. -/
theorem linkResetDiscards : Obligations.LinkResetDiscards := by
  refine ⟨fun s lasts => execLinkReset_inBreak lasts, fun s begins => ?_, fun l body => ?_⟩
  · intro sent told link n
    have replies : s.link.repliesHeld = s.link.ready.length + sent := s.link.repliesHeld_eq_add
    have notices : s.link.noticeCount = s.link.notices.length + told := s.link.noticeCount_eq_add
    have reset : s.link.reset = link := by
      rw [Link.reset, replies, notices]
      rfl
    rw [execLinkReset_begins begins, reset]
    exact ⟨fun low => congrArg _ (State.logReset_low low), fun high => congrArg _ (State.logReset_high high)⟩
  · intro held n numbered dropped
    have count : l.noticeCount = held := l.noticeCount_eq_add
    have kind : l.counts.dropped.drop body = dropped := by
      cases body <;> rfl
    rw [← count, ← kind]
    exact ⟨fun room => Link.offerNotice_queued room body, fun full => Link.offerNotice_dropped full body⟩

end Sys2Proof.Machine
end

section
/-! SUPPORT. COLLECT, and the outcomes the notice selection tells of (O37, O38). -/

namespace Sys2Proof.Machine

/-! ### COLLECT (R136, R139, R140) -/

theorem execCollect_taken {s t : State} {place : Nat} {body : List Byte} (h : s.takeOrder .collect = some (place, body, t)) :
    exec .collect s =
      .next ((collectAct body t).2.2.reply place (collectAct body t).1 (collectAct body t).2.1).settleDown := by
  show execCollect s = _
  simp only [execCollect, h]

/-- The two bytes of a COLLECT (12.2). -/
theorem collectCounts_pair (r n : Byte) : collectCounts [r, n] = (r.toNat, n.toNat) := by
  rw [collectCounts, Bytes.field_one, Bytes.field_one]
  rfl

namespace BillingLog

theorem allows_iff (l : BillingLog) (release most : Nat) :
    l.allows release most = true ↔ 1 ≤ most ∧ most ≤ 16 ∧ release ≤ l.lastReturned := by
  simp only [allows, Bool.and_eq_true, decide_eq_true_iff, and_assoc]

/-- The records that `release` takes from the log. -/
def freed (l : BillingLog) (r : Nat) : Nat := l.records.length - (l.records.drop r).length

/-- A waiting request is granted the first place freed (R136). -/
def grants (l : BillingLog) (r : Nat) : Bool := l.waiting && decide (0 < l.freed r)

theorem grants_iff (l : BillingLog) (r : Nat) : l.grants r = true ↔ l.waiting = true ∧ 0 < l.freed r := by
  rw [grants, Bool.and_eq_true, decide_eq_true_iff]

theorem release_marks (l : BillingLog) (r : Nat) :
    (l.release r).setAside = (l.setAside || l.grants r) ∧ (l.release r).waiting = (l.waiting && !l.grants r) := ⟨rfl, rfl⟩

theorem release_granted {l : BillingLog} {r : Nat} (granted : l.waiting = true ∧ 0 < l.freed r) :
    (l.release r).setAside = true ∧ (l.release r).waiting = false := by
  obtain ⟨setAside, waiting⟩ := l.release_marks r
  rw [setAside, waiting, (l.grants_iff r).2 granted]
  exact ⟨Bool.or_true _, Bool.and_false _⟩

/-- Without a place freed, or with no request waiting, both marks stay. -/
theorem release_ungranted {l : BillingLog} {r : Nat} (none : ¬(l.waiting = true ∧ 0 < l.freed r)) :
    (l.release r).setAside = l.setAside ∧ (l.release r).waiting = l.waiting := by
  obtain ⟨setAside, waiting⟩ := l.release_marks r
  rw [setAside, waiting, eq_false_of_ne_true (mt (l.grants_iff r).1 none)]
  exact ⟨Bool.or_false _, Bool.and_true _⟩

/-- The high mark is ARMED again when records leave and fewer than 768 remain (R139). -/
theorem release_high (l : BillingLog) (r : Nat) :
    (l.release r).high = if 0 < l.freed r ∧ (l.records.drop r).length < 768 then .armed else l.high := rfl

end BillingLog

section
variable {s : State} {r n : Byte}

/-- COLLECT passed: the log released from and then read from (R140). -/
theorem collectAct_passed (passes : 1 ≤ n.toNat ∧ n.toNat ≤ 16 ∧ r.toNat ≤ s.log.lastReturned) :
    let copied := (s.log.records.drop r.toNat).take n.toNat
    collectAct [r, n] s = (.ok, .collected (s.log.freed r.toNat) (s.log.records.drop r.toNat).length copied,
      { s with log := ((s.log.release r.toNat).return n.toNat).1 }) := by
  simp only [collectAct, collectCounts_pair, (s.log.allows_iff _ _).2 passes, if_true]
  rfl

theorem collectAct_refused (fails : ¬(1 ≤ n.toNat ∧ n.toNat ≤ 16 ∧ r.toNat ≤ s.log.lastReturned)) :
    collectAct [r, n] s = (.badValue, .collectRefused s.log.lastReturned s.log.records.length,
      { s with log := s.log.refused }) := by
  simp only [collectAct, collectCounts_pair, mt (s.log.allows_iff _ _).1 fails]
  rfl

end

/-- Settles O37: the checks, then the log as released from and read from. -/
theorem collectReleasesAndReturns : Obligations.CollectReleasesAndReturns := by
  intro s t place r n taken l kept removed copied granted passes
  refine ⟨fun pass => ?_, fun fails => ?_⟩
  · refine ⟨((l.release r.toNat).return n.toNat).1, ?_, rfl, BillingLog.release_granted, BillingLog.release_ungranted,
      fun leave low => ?_, fun same => ?_⟩
    · rw [execCollect_taken taken, collectAct_passed pass]
      rfl
    · exact (l.release_high r.toNat).trans (if_pos ⟨leave, low⟩)
    · refine (l.release_high r.toNat).trans (if_neg ?_)
      rintro ⟨leave, low⟩
      exact same.elim (Nat.ne_of_gt leave) (Nat.not_le.2 low)
  · rw [execCollect_taken taken, collectAct_refused fails]
    rfl

/-! ### The notice selection (R144) -/

/-- The outcomes each selection tells of. -/
theorem NoticeSelection.wants_iff (v : NoticeSelection) (o : EntryOutcome) (code : Nat) : v.wants o code = true ↔
    v = .all ∨ (v = .failuresAndReplies ∧ (o ∈ [EntryOutcome.expiredRetries, .expiredLifetime, .cancelled, .faulted] ∨
      (o = .delivered ∧ code ≠ 0))) := by
  cases v with
  | all => simp [wants]
  | none => simp [wants]
  | failuresAndReplies => cases o <;> simp [wants]

/-- Settles O38: the step offers the notice exactly where the selection wants it. -/
theorem outcomeNoticeSelected : Obligations.OutcomeNoticeSelected := by
  intro s entry r told n body
  have wanted : s.log.selection.wants r.outcome r.replyCode = true ↔ told := NoticeSelection.wants_iff _ _ _
  exact ⟨fun tells => if_pos (wanted.2 tells), fun silent => if_neg (mt wanted.1 silent)⟩

end Sys2Proof.Machine
end

section
/-! SUPPORT. An occurrence counted and recorded, and changes of one zone of the Zone Monitor (O25). -/

namespace Sys2Proof.Machine

/-! ### Changes of one zone of the Zone Monitor -/

/-- A change that of the zones and of the summary leaves all but zone `z` alone, and the fault settings. -/
structure Monitor.ChangesZone (z : Nat) (m n : Monitor) : Prop where
  settings : n.settings = m.settings
  others : ∀ w, w ≠ z → n.zone w = m.zone w
  summary : ∀ w, w < 16 → w ≠ z → ZoneSet.has n.summary w = ZoneSet.has m.summary w

namespace Monitor.ChangesZone

variable {z : Nat}

theorem refl (m : Monitor) : ChangesZone z m m := ⟨rfl, fun _ _ => rfl, fun _ _ _ => rfl⟩

theorem trans {m n p : Monitor} (h : ChangesZone z m n) (k : ChangesZone z n p) : ChangesZone z m p :=
  ⟨k.settings.trans h.settings, fun w hw => (k.others w hw).trans (h.others w hw),
    fun w place hw => (k.summary w place hw).trans (h.summary w place hw)⟩

theorem setZone (m : Monitor) (v : Zone) : ChangesZone z m (m.setZone z v) :=
  ⟨rfl, fun _ hw => (Monitor.zone_setZone _ _ _ _).trans (if_neg (Ne.symm hw)), fun _ _ _ => rfl⟩

/-- The zone is replaced with its bit of the summary, and the first-fault record with them. -/
theorem marked (m : Monitor) (v : Zone) (isFaulted : Bool) (first : Option FirstFault) :
    ChangesZone z m { m.setZone z v with summary := ZoneSet.put m.summary z isFaulted, first } :=
  ⟨rfl, (setZone m v).others, fun _ place hw => (ZoneSet.has_put _ _ _ _ place).trans (if_neg (Ne.symm hw))⟩

end Monitor.ChangesZone

theorem State.changeZone_zone (z : Nat) (f : Zone → Zone) (s : State) : (s.changeZone z f).monitor.zone z = f (s.monitor.zone z) :=
  Monitor.zone_setZone_same _ _ _

/-! ### Recording (R154) -/

/-- The Zone Monitor after an occurrence for a zone is recorded: the zone, its bit of the summary, and the first-fault record, loaded if
it was empty. -/
def Monitor.recorded (m : Monitor) (z : Nat) (c : Condition) (frameCount : Word32) : Monitor :=
  { m.setZone z ((m.zone z).recorded c (m.settings.conditions.get c).severity) with
    summary := ZoneSet.put m.summary z true
    first := some (m.first.getD { zone := z, condition := c, frameCount }) }

theorem Monitor.recorded_zone (m : Monitor) (z : Nat) (c : Condition) (frameCount : Word32) :
    (m.recorded z c frameCount).zone z = (m.zone z).recorded c (m.settings.conditions.get c).severity :=
  Monitor.zone_setZone_same _ _ _

theorem Monitor.recorded_changes (m : Monitor) (z : Nat) (c : Condition) (frameCount : Word32) :
    ChangesZone z m (m.recorded z c frameCount) := ChangesZone.marked _ _ _ _

theorem Monitor.recorded_summary (m : Monitor) {z : Nat} (place : z < 16) (c : Condition) (frameCount : Word32) :
    ZoneSet.has (m.recorded z c frameCount).summary z = true :=
  (ZoneSet.has_put _ _ _ _ place).trans (if_pos rfl)

/-- The Link Interface after an occurrence is recorded: a notice is offered for a condition that joins the fault set and whose notice
switch is ON (R154, step 3). -/
def State.faultNoticed (z : Nat) (c : Condition) (state : ZoneState) (s : State) : Link :=
  if FaultSet.has (s.monitor.zone z).faults c = false ∧ (s.monitor.settings.conditions.get c).notice = true then
    s.link.offerNotice (.fault z c s.timer.frameCount state s.monitor.first.isNone)
  else s.link

theorem State.record_eq (z : Nat) (c : Condition) (s : State) :
    let m := s.monitor.recorded z c s.timer.frameCount
    s.record z c = { s with monitor := m, link := s.faultNoticed z c (m.zone z).state } := by
  have first : (if s.monitor.first.isNone then some { zone := z, condition := c, frameCount := s.timer.frameCount } else s.monitor.first)
      = some (s.monitor.first.getD { zone := z, condition := c, frameCount := s.timer.frameCount }) := by
    cases s.monitor.first <;> rfl
  intro m
  simp only [m, Monitor.recorded_zone]
  unfold State.record State.faultNoticed Monitor.recorded
  dsimp only
  rw [first]
  by_cases offers : FaultSet.has (s.monitor.zone z).faults c = false ∧ (s.monitor.settings.conditions.get c).notice = true
  · rw [if_pos (by simpa using offers), if_pos offers]
    rfl
  · rw [if_neg (by simpa using offers), if_neg offers]
    rfl

/-! ### Occurrences (R147, R154) -/

/-- A zone with one more occurrence of a condition counted. -/
def Zone.counted (v : Zone) (c : Condition) : Zone := { v with occurrences := v.occurrences.set c (v.occurrences.get c + 1) }

section
variable {s : State} {z : Nat} {c : Condition}

theorem State.occurrence_unconfigured (unconfigured : (s.monitor.zone z).state = .unconfigured) : s.occurrence z c = s :=
  if_pos (by rw [Monitor.configured, unconfigured]; rfl)

theorem State.occurrence_configured (configured : (s.monitor.zone z).state ≠ .unconfigured) : s.occurrence z c =
    if (s.monitor.settings.conditions.get c).detect then (s.changeZone z (·.counted c)).record z c
    else s.changeZone z (·.counted c) :=
  if_neg (by simpa [Monitor.configured] using configured)

/-- With the detect switch OFF an occurrence is counted and no more. -/
theorem State.occurrence_undetected (configured : (s.monitor.zone z).state ≠ .unconfigured)
    (off : (s.monitor.settings.conditions.get c).detect = false) : s.occurrence z c = s.changeZone z (·.counted c) := by
  rw [State.occurrence_configured configured, off, if_neg Bool.false_ne_true]

/-- The Zone Monitor after an occurrence that is counted and recorded. -/
def Monitor.detected (m : Monitor) (z : Nat) (c : Condition) (frameCount : Word32) : Monitor :=
  (m.setZone z ((m.zone z).counted c)).recorded z c frameCount

theorem Monitor.detected_zone (m : Monitor) (z : Nat) (c : Condition) (frameCount : Word32) : (m.detected z c frameCount).zone z =
    ((m.zone z).counted c).recorded c (m.settings.conditions.get c).severity := by
  rw [Monitor.detected, Monitor.recorded_zone, Monitor.zone_setZone_same]
  rfl

theorem Monitor.detected_changes (m : Monitor) (z : Nat) (c : Condition) (frameCount : Word32) :
    ChangesZone z m (m.detected z c frameCount) := (ChangesZone.setZone m _).trans (Monitor.recorded_changes _ _ _ _)

/-- With the detect switch ON an occurrence is counted and recorded, and the notice it may offer is all it does outside the Zone
Monitor. -/
theorem State.occurrence_detected (configured : (s.monitor.zone z).state ≠ .unconfigured)
    (on : (s.monitor.settings.conditions.get c).detect = true) :
    let m := s.monitor.detected z c s.timer.frameCount
    s.occurrence z c = { s with monitor := m, link := s.faultNoticed z c (m.zone z).state } := by
  have faults : ((s.changeZone z (·.counted c)).monitor.zone z).faults = (s.monitor.zone z).faults := by
    rw [State.changeZone_zone]
    rfl
  have noticed : ∀ state, (s.changeZone z (·.counted c)).faultNoticed z c state = s.faultNoticed z c state := by
    intro state
    rw [State.faultNoticed, faults]
    rfl
  rw [State.occurrence_configured configured, if_pos on, State.record_eq, noticed]
  rfl

end

/-- Settles O25: by the state of the zone and the detect switch. -/
theorem occurrenceRecorded : Obligations.OccurrenceRecorded := by
  intro s z c place v setting t counted
  refine ⟨State.occurrence_unconfigured, State.occurrence_undetected, fun configured on => ?_⟩
  have recorded : t = _ := State.occurrence_detected configured on
  have changes := s.monitor.detected_changes z c s.timer.frameCount
  rw [recorded]
  refine ⟨rfl, Monitor.detected_zone _ _ _ _, changes.others, changes.settings, fun w hw => ?_, ?_, rfl⟩
  · split
    · subst w
      exact Monitor.recorded_summary _ place _ _
    · exact changes.summary w hw ‹_›
  · change some (s.monitor.first.getD _) = _
    cases s.monitor.first <;> rfl

end Sys2Proof.Machine
end

section
/-! SUPPORT. ZONE_RESTORE and CLEAR_FAULTS (O13, O14). -/

namespace Sys2Proof.Machine

/-! ### Sets of conditions -/

theorem FaultSet.has_or_bit (faults : FaultSet) (c : Condition) : FaultSet.has (faults ||| c.bit) c = true := by
  cases c <;> revert faults <;> decide

theorem Condition.mem_all (c : Condition) : c ∈ Condition.all := by cases c <;> decide

theorem Monitor.holdsLoss_iff (m : Monitor) (faults : FaultSet) : m.holdsLoss faults = true ↔
    ∃ c, FaultSet.has faults c = true ∧ (m.settings.conditions.get c).severity = .serviceLoss := by
  simp only [Monitor.holdsLoss, List.any_eq_true, Bool.and_eq_true, decide_eq_true_eq, Condition.mem_all, true_and]

/-! ### An order that is refused in RESTARTING (R161, R162) -/

theorem State.answerOrder_restarting {s t : State} {kind : OrderKind} {place : Nat} {body : List Byte}
    (taken : s.takeOrder kind = some (place, body, t)) (restarting : t.link.partState = .restarting)
    (act : List Byte → State → Answer) : s.answerOrder kind (outsideRestart act) = t.reply place .wrongState .none := by
  rw [State.answerOrder_taken taken, outsideRestart_refused restarting]

/-! ### ZONE_RESTORE (R149) -/

theorem exec_zoneRestore (s : State) : exec .zoneRestore s =
    .next (s.answerOrder .zoneRestore (outsideRestart (withOperand Operands.zoneRestore zoneRestoreAct))) := rfl

theorem Operands.zoneRestore_eq (z : Byte) : Operands.zoneRestore [z] = below 16 z.toNat :=
  congrArg (below 16) (Bytes.field_one _ _)

section
variable {t : State} {z : Nat}

theorem zoneRestoreAct_unconfigured (state : (t.monitor.zone z).state = .unconfigured) :
    zoneRestoreAct z t = (.badValue, .none, t) := by
  simp only [zoneRestoreAct, state, refuse]

theorem zoneRestoreAct_inService (state : (t.monitor.zone z).state = .inService) :
    zoneRestoreAct z t = (.ok, .zoneRestored .inService (t.monitor.zone z).faults, t) := by
  simp only [zoneRestoreAct, state]

theorem zoneRestoreAct_outOfService (state : (t.monitor.zone z).state = .outOfService) : zoneRestoreAct z t =
    if t.monitor.holdsLoss (t.monitor.zone z).faults then (.faultSet, .faultsHeld (t.monitor.zone z).faults, t)
    else (.ok, .zoneRestored .inService (t.monitor.zone z).faults, t.changeZone z Zone.restored) := by
  simp only [zoneRestoreAct, state]
  rfl

/-- An occurrence of a service loss leaves its zone OUT_OF_SERVICE with the condition in its fault set (R154, steps 1 and 4). -/
theorem State.occurrence_serviceLoss {c : Condition} (configured : (t.monitor.zone z).state ≠ .unconfigured)
    (on : (t.monitor.settings.conditions.get c).detect = true)
    (loss : (t.monitor.settings.conditions.get c).severity = .serviceLoss) :
    ((t.occurrence z c).monitor.zone z).state = .outOfService ∧
      FaultSet.has ((t.occurrence z c).monitor.zone z).faults c = true := by
  rw [State.occurrence_detected configured on]
  dsimp only
  rw [Monitor.detected_zone, loss]
  refine ⟨?_, FaultSet.has_or_bit _ _⟩
  change (if Severity.serviceLoss = Severity.serviceLoss ∧ (t.monitor.zone z).state = .inService then ZoneState.outOfService
    else (t.monitor.zone z).state) = .outOfService
  cases state : (t.monitor.zone z).state with
  | unconfigured => exact absurd state configured
  | inService => rfl
  | outOfService => rfl

end

/-- Settles O13: the checks, then the state of the zone and what its fault set holds; and an occurrence on either side of the restore. -/
theorem zoneRestoreByState : Obligations.ZoneRestoreByState := by
  intro s t place z taken v settings loss restored
  have holds : t.monitor.holdsLoss v.faults = true ↔ loss := Monitor.holdsLoss_iff _ _
  have fields : z.toNat < 16 → Operands.zoneRestore [z] = some z.toNat :=
    fun inRange => (Operands.zoneRestore_eq z).trans (Operands.below_of_lt inRange)
  rw [exec_zoneRestore]
  refine ⟨fun restarting => ?_, fun outside refused => ?_, fun outside inRange => ⟨fun state => ?_, fun state lost => ?_,
    fun state kept => ?_⟩, fun inRange state c on lossy => ⟨?_, ?_⟩⟩
  · rw [State.answerOrder_restarting taken restarting]
  · by_cases inRange : z.toNat < 16
    · have unconfigured := refused.resolve_left (Nat.not_le.2 inRange)
      rw [State.answerOrder_applied taken outside (fields inRange), zoneRestoreAct_unconfigured unconfigured]
    · have none := (Operands.zoneRestore_eq z).trans (Operands.below_of_le (Nat.not_lt.1 inRange))
      rw [State.answerOrder_badValue taken outside none]
  · rw [State.answerOrder_applied taken outside (fields inRange), zoneRestoreAct_inService state]
  · rw [State.answerOrder_applied taken outside (fields inRange), zoneRestoreAct_outOfService state, if_pos (holds.2 lost)]
  · rw [State.answerOrder_applied taken outside (fields inRange), zoneRestoreAct_outOfService state, if_neg (mt holds.1 kept)]
    rfl
  · obtain ⟨out, held⟩ := State.occurrence_serviceLoss (t := t) (fun k => nomatch state.symm.trans k) on lossy
    exact ⟨out, held, State.occurrence_settings _ _ _⟩
  · have monitor : (restored.reply place .ok (.zoneRestored .inService v.faults)).monitor = restored.monitor :=
      (State.reply_quiet _ _ _ _).settled.monitor
    have inService : (restored.monitor.zone z.toNat).state = .inService := congrArg Zone.state (Monitor.zone_setZone_same _ _ _)
    refine State.occurrence_serviceLoss ?_ ?_ ?_
    · rw [monitor, inService]
      exact fun k => nomatch k
    · rw [monitor]
      exact on
    · rw [monitor]
      exact lossy

/-! ### CLEAR_FAULTS (R155) -/

theorem exec_clearFaults (s : State) : exec .clearFaults s =
    .next (s.answerOrder .clearFaults (outsideRestart (withOperand Operands.clearFaults clearFaultsAct))) := rfl

theorem Operands.clearFaults_below {z : Byte} (inRange : z.toNat < 16) (c : Byte) :
    Operands.clearFaults [z, c] = some (z.toNat, c.setWidth 5) := by
  have h0 : Bytes.field [z, c] 0 1 = z.toNat := Bytes.field_one _ _
  have h1 : Bytes.field [z, c] 1 1 = c.toNat := Bytes.field_one _ _
  rw [Operands.clearFaults, h0, h1, below_of_lt inRange]
  rfl

theorem Operands.clearFaults_above {z : Byte} (outOfRange : 16 ≤ z.toNat) (c : Byte) : Operands.clearFaults [z, c] = none := by
  have h0 : Bytes.field [z, c] 0 1 = z.toNat := Bytes.field_one _ _
  rw [Operands.clearFaults, h0, below_of_le outOfRange]
  rfl

section
variable (m : Monitor) {z : Nat} (conditions : FaultSet)

theorem Monitor.clear_changes : ChangesZone z m (m.clear z conditions).1 := ChangesZone.marked _ _ _ _

theorem Monitor.clear_summary (place : z < 16) : ZoneSet.has (m.clear z conditions).1.summary z =
    decide ((m.zone z).faults &&& ~~~conditions ≠ 0) := (ZoneSet.has_put _ _ _ _ place).trans (if_pos rfl)

theorem Monitor.clear_first : (m.clear z conditions).1.first = if (m.clear z conditions).2 then none else m.first := rfl

/-- The first-fault record is emptied exactly if it names the zone and a condition that is removed. -/
theorem Monitor.clear_empties : (m.clear z conditions).2 = true ↔
    ∃ f, m.first = some f ∧ f.zone = z ∧ FaultSet.has ((m.zone z).faults &&& conditions) f.condition = true := by
  unfold Monitor.clear
  dsimp only
  cases m.first with
  | none => simp
  | some f => simp

end

/-- An occurrence that is recorded loads an empty first-fault record (R154, step 5). -/
theorem State.occurrence_loads {s : State} {z : Nat} {c : Condition} (configured : (s.monitor.zone z).state ≠ .unconfigured)
    (on : (s.monitor.settings.conditions.get c).detect = true) (empty : s.monitor.first = none) :
    (s.occurrence z c).monitor.first = some { zone := z, condition := c, frameCount := s.timer.frameCount } := by
  rw [State.occurrence_detected configured on]
  change some (s.monitor.first.getD _) = _
  rw [empty]
  rfl

/-- Settles O14: the checks, then the conditions cleared, and the next occurrence on the record they leave. -/
theorem faultsCleared : Obligations.FaultsCleared := by
  intro s t place z c taken v named
  rw [exec_clearFaults]
  refine ⟨fun restarting => ?_, fun outside outOfRange => ?_, fun outside inRange => ?_⟩
  · rw [State.answerOrder_restarting taken restarting]
  · rw [State.answerOrder_badValue taken outside (Operands.clearFaults_above outOfRange c)]
  · have changes := t.monitor.clear_changes (z := z.toNat) named
    refine ⟨(t.monitor.clear z.toNat named).1, (t.monitor.clear z.toNat named).2, _, rfl, ?_, changes.settings, changes.others,
      Monitor.clear_zone _ _ _, fun w place => ?_, Monitor.clear_first _ _, Monitor.clear_empties _ _,
      fun emptied w d _ configured on => ?_⟩
    · rw [State.answerOrder_applied taken outside (Operands.clearFaults_below inRange c)]
      rfl
    · split
      · subst w
        exact Monitor.clear_summary _ _ inRange
      · exact changes.summary w place ‹_›
    · have quiet := (State.reply_quiet place .ok (.faultsCleared ((t.monitor.clear z.toNat named).1.zone z.toNat).faults
        (t.monitor.clear z.toNat named).2) { t with monitor := (t.monitor.clear z.toNat named).1 }).settled
      have empty := (t.monitor.clear_first (z := z.toNat) named).trans (if_pos emptied)
      rw [State.occurrence_loads (by rwa [quiet.monitor]) (by rwa [quiet.monitor]) (by rwa [quiet.monitor]), quiet.timer]

end Sys2Proof.Machine
end

section
/-! SUPPORT. SET_ZONE (O12). -/

namespace Sys2Proof.Machine

/-! ### The fields of a SET_ZONE (12.2) -/

theorem exec_setZone (s : State) : exec .setZone s =
    .next (s.answerOrder .setZone (outsideRestart (withOperand Operands.setZone setZoneAct))) := rfl

namespace Operands

section
variable {body : List Byte}

theorem setZone_fits (place : Bytes.field body 0 1 < 16) (action : Bytes.field body 1 1 = 1 ∨ Bytes.field body 1 1 = 2)
    (apart : (BitVec.ofNat 16 (Bytes.field body 2 2)).getLsbD (Bytes.field body 0 1) = false) : setZone body =
      some (Bytes.field body 0 1, decide (Bytes.field body 1 1 = 1), BitVec.ofNat 16 (Bytes.field body 2 2)) := by
  rw [setZone, below_of_lt place]
  obtain enable | disable := action
  · rw [enable]
    exact if_neg (Bool.eq_false_iff.1 apart)
  · rw [disable]
    exact if_neg (Bool.eq_false_iff.1 apart)

/-- What is read of a SET_ZONE is what its fields say, each in range. -/
theorem setZone_spec {z : Nat} {enable : Bool} {neighbours : ZoneSet} (reads : setZone body = some (z, enable, neighbours)) :
    z < 16 ∧ z = Bytes.field body 0 1 ∧ (Bytes.field body 1 1 = 1 ∨ Bytes.field body 1 1 = 2) ∧
      neighbours = BitVec.ofNat 16 (Bytes.field body 2 2) := by
  simp only [setZone, Option.bind_eq_bind, Option.bind_eq_some_iff, Option.pure_def] at reads
  obtain ⟨zone, inRange, listed, action, given⟩ := reads
  obtain ⟨place, rfl⟩ := below_spec inRange
  split at given
  · cases given
  · cases given
    refine ⟨place, rfl, ?_, rfl⟩
    split at action
    · exact .inl ‹_›
    · exact .inr ‹_›
    · cases action

/-- A zone, an action or a neighbour set that is wrong is refused. -/
theorem setZone_wrong (wrong : 16 ≤ Bytes.field body 0 1 ∨ (Bytes.field body 1 1 ≠ 1 ∧ Bytes.field body 1 1 ≠ 2) ∨
    (BitVec.ofNat 16 (Bytes.field body 2 2)).getLsbD (Bytes.field body 0 1) = true) : setZone body = none := by
  cases reads : setZone body with
  | none => rfl
  | some v =>
    obtain ⟨z, enable, neighbours⟩ := v
    have apart := setZone_range reads
    obtain ⟨place, rfl, action, rfl⟩ := setZone_spec reads
    obtain beyond | ⟨notEnable, notDisable⟩ | own := wrong
    · exact absurd place (Nat.not_lt.2 beyond)
    · exact absurd action (not_or.2 ⟨notEnable, notDisable⟩)
    · exact absurd (own.symm.trans apart) (by decide)

end

end Operands

/-! ### What is recorded first (R154, log 13) -/

section
variable {s : State} {z : Nat}

theorem State.changeZone_changes (f : Zone → Zone) : Monitor.ChangesZone z s.monitor (s.changeZone z f).monitor :=
  Monitor.ChangesZone.setZone _ _

theorem State.occurrence_changes (c : Condition) : Monitor.ChangesZone z s.monitor (s.occurrence z c).monitor := by
  by_cases unconfigured : (s.monitor.zone z).state = .unconfigured
  · rw [State.occurrence_unconfigured unconfigured]
    exact .refl _
  · cases detect : (s.monitor.settings.conditions.get c).detect with
    | false =>
      rw [State.occurrence_undetected unconfigured detect]
      exact State.changeZone_changes _
    | true =>
      rw [State.occurrence_detected unconfigured detect]
      exact Monitor.detected_changes _ _ _ _

theorem State.recordUntaken_changes : Monitor.ChangesZone z s.monitor (s.recordUntaken z).monitor := by
  unfold State.recordUntaken
  split
  · exact (State.changeZone_changes _).trans (State.occurrence_changes _)
  · exact .refl _

theorem State.recordSilent_changes : Monitor.ChangesZone z s.monitor (s.recordSilent z).monitor := by
  unfold State.recordSilent
  split
  · exact (State.changeZone_changes _).trans (State.occurrence_changes _)
  · exact .refl _

theorem State.recordDue_changes : Monitor.ChangesZone z s.monitor (s.recordDue z).monitor :=
  State.recordUntaken_changes.trans State.recordSilent_changes

/-- Recording what is due leaves a configured zone configured. -/
theorem State.recordDue_configured (configured : (s.monitor.zone z).state ≠ .unconfigured) :
    ((s.recordDue z).monitor.zone z).state ≠ .unconfigured := by
  have untaken : ((s.recordUntaken z).monitor.zone z).state ≠ .unconfigured := by
    unfold State.recordUntaken
    split
    · exact (State.occurrence_zone (by rwa [State.changeZone_zone]) _).1
    · exact configured
  unfold State.recordDue
  cases due : ((s.recordUntaken z).monitor.zone z).silentDue with
  | false => rwa [State.recordSilent_undue due]
  | true => exact (State.recordSilent_zone untaken due).2

theorem State.beforeSetZone_eq (enable : Bool) : s.beforeSetZone z enable =
    if enable = false ∧ (s.monitor.zone z).state ≠ .unconfigured then s.recordDue z else s := by
  cases enable <;> simp [State.beforeSetZone, Monitor.configured]

end

/-! ### The table of R148 -/

theorem FaultSet.within_all (set : FaultSet) : set &&& allConditions = set := by
  revert set
  decide

theorem FaultSet.without_all (set : FaultSet) : set &&& ~~~allConditions = 0 := by
  revert set
  decide

/-- A zone with its neighbour set replaced. -/
def Monitor.withNeighbours (m : Monitor) (z : Nat) (neighbours : ZoneSet) : Monitor := m.setZone z { m.zone z with neighbours }

/-- A zone as it leaves or enters service by SET_ZONE: no fault, no run, no count and no arrival mark, its occurrence counts kept. -/
def Zone.afresh (v : Zone) (neighbours : ZoneSet) (state : ZoneState) : Zone := { neighbours, state, occurrences := v.occurrences }

section
variable {m : Monitor} {z : Nat} {neighbours : ZoneSet}

theorem Monitor.withNeighbours_zone : (m.withNeighbours z neighbours).zone z = { m.zone z with neighbours } :=
  Monitor.zone_setZone_same _ _ _

theorem Monitor.configure_eq (enable : Bool) : m.configure z enable neighbours =
    if enable then
      if (m.zone z).state = .unconfigured then (m.withNeighbours z neighbours).setZone z ((m.zone z).afresh neighbours .inService)
      else m.withNeighbours z neighbours
    else if (m.zone z).state = .unconfigured then m.withNeighbours z neighbours
    else ((m.withNeighbours z neighbours).clear z allConditions).1.setZone z ((m.zone z).afresh neighbours .unconfigured) := by
  have state : ((m.withNeighbours z neighbours).zone z).state = (m.zone z).state := by
    rw [Monitor.withNeighbours_zone]
  have enters : { ((m.withNeighbours z neighbours).zone z).settled with state := .inService, faults := 0 } =
      (m.zone z).afresh neighbours .inService := by
    rw [Monitor.withNeighbours_zone]
    rfl
  have leaves : { (((m.withNeighbours z neighbours).clear z allConditions).1.zone z).settled with state := .unconfigured } =
      (m.zone z).afresh neighbours .unconfigured := by
    rw [Monitor.clear_zone, Monitor.withNeighbours_zone, FaultSet.without_all]
    rfl
  rw [← state, ← enters, ← leaves]
  rfl

theorem Monitor.configure_enters (unconfigured : (m.zone z).state = .unconfigured) : m.configure z true neighbours =
    (m.withNeighbours z neighbours).setZone z ((m.zone z).afresh neighbours .inService) := by
  rw [Monitor.configure_eq, if_pos rfl, if_pos unconfigured]

/-- An ENABLE of a configured zone and a DISABLE of an UNCONFIGURED one replace the neighbour set alone. -/
theorem Monitor.configure_stays {enable : Bool} (stays : (enable = true ∧ (m.zone z).state ≠ .unconfigured) ∨
    (enable = false ∧ (m.zone z).state = .unconfigured)) : m.configure z enable neighbours = m.withNeighbours z neighbours := by
  obtain ⟨rfl, configured⟩ | ⟨rfl, unconfigured⟩ := stays
  · rw [Monitor.configure_eq, if_pos rfl, if_neg configured]
  · rw [Monitor.configure_eq, if_neg Bool.false_ne_true, if_pos unconfigured]

theorem Monitor.configure_leaves (configured : (m.zone z).state ≠ .unconfigured) : m.configure z false neighbours =
    ((m.withNeighbours z neighbours).clear z allConditions).1.setZone z ((m.zone z).afresh neighbours .unconfigured) := by
  rw [Monitor.configure_eq, if_neg Bool.false_ne_true, if_neg configured]

theorem Monitor.configure_changes (enable : Bool) : ChangesZone z m (m.configure z enable neighbours) := by
  have named : ChangesZone z m (m.withNeighbours z neighbours) := ChangesZone.setZone _ _
  rw [Monitor.configure_eq]
  split
  · split
    · exact named.trans (ChangesZone.setZone _ _)
    · exact named
  · split
    · exact named
    · exact (named.trans (Monitor.clear_changes _ _)).trans (ChangesZone.setZone _ _)

/-- A DISABLE leaves the zone with no fault and out of the summary, and empties the first-fault record exactly if that names the zone and a
condition of its fault set. -/
theorem Monitor.configure_clears (configured : (m.zone z).state ≠ .unconfigured) (place : z < 16) :
    let n := m.configure z false neighbours
    let names : Prop := ∃ f, m.first = some f ∧ f.zone = z ∧ FaultSet.has (m.zone z).faults f.condition = true
    n.zone z = (m.zone z).afresh neighbours .unconfigured ∧ ZoneSet.has n.summary z = false ∧
      (names → n.first = none) ∧ (¬names → n.first = m.first) := by
  have faults : ((m.withNeighbours z neighbours).zone z).faults = (m.zone z).faults := by
    rw [Monitor.withNeighbours_zone]
  intro n names
  have leaves : n = _ := Monitor.configure_leaves configured
  have empties : ((m.withNeighbours z neighbours).clear z allConditions).2 = true ↔ names := by
    rw [Monitor.clear_empties, faults, FaultSet.within_all]
    rfl
  rw [leaves]
  refine ⟨Monitor.zone_setZone_same _ _ _, ?_, fun named => if_pos (empties.2 named), fun other => if_neg (mt empties.1 other)⟩
  refine (Monitor.clear_summary _ _ place).trans ?_
  rw [faults, FaultSet.without_all]
  rfl

end

/-! ### SET_ZONE carried out (R148) -/

/-- Settles O12: the fields, then what is recorded first, then the zone by its state and the action. -/
theorem setZoneFollowsTable : Obligations.SetZoneFollowsTable := by
  refine ⟨?_, ?_⟩
  · intro s t place body taken z wrong
    refine ⟨fun bad outside => ?_, fun good => ?_⟩
    · rw [exec_setZone, State.answerOrder_badValue taken outside (Operands.setZone_wrong bad)]
    · obtain ⟨inRange, action, apart⟩ : ¬16 ≤ z ∧ ¬(Bytes.field body 1 1 ≠ 1 ∧ Bytes.field body 1 1 ≠ 2) ∧
          ¬(BitVec.ofNat 16 (Bytes.field body 2 2)).getLsbD z = true := by
        simpa only [wrong, not_or] using good
      exact Operands.setZone_fits (Nat.not_le.1 inRange) (by omega) (Bool.eq_false_iff.2 apart)
  · intro s t place body z enable neighbours taken outside reads leaves u
    have prepared : t.beforeSetZone z enable = u := State.beforeSetZone_eq enable
    have recorded : leaves → u = t.recordDue z := fun l => if_pos l
    have untouched : ¬leaves → u = t := fun l => if_neg l
    have still : leaves → (u.monitor.zone z).state ≠ .unconfigured := fun l => by
      rw [recorded l]
      exact State.recordDue_configured l.2
    have before : Monitor.ChangesZone z t.monitor u.monitor := by
      by_cases l : leaves
      · rw [recorded l]
        exact State.recordDue_changes
      · rw [untouched l]
        exact .refl _
    have changes := before.trans (Monitor.configure_changes (neighbours := neighbours) enable)
    refine ⟨u.monitor.configure z enable neighbours, ?_, changes.settings, changes.others, changes.summary,
      fun enables unconfigured => ?_, fun stays => ?_, fun l => ?_⟩
    · rw [exec_setZone, State.answerOrder_applied taken outside reads, setZoneAct, prepared]
      rfl
    · subst enables
      have same : u = t := untouched fun l => nomatch l.1
      rw [Monitor.configure_enters unconfigured]
      exact ⟨Monitor.zone_setZone_same _ _ _, congrArg (·.monitor.first) same⟩
    · have same : u = t := untouched fun l => stays.elim (fun enables => nomatch l.1.symm.trans enables.1)
        fun disables => still l disables.2
      rw [Monitor.configure_stays stays]
      exact congrArg (fun m : Monitor => m.setZone z { u.monitor.zone z with neighbours }) (congrArg State.monitor same)
    · obtain ⟨inRange, -⟩ := Operands.setZone_spec reads
      have disables : enable = false := l.1
      subst disables
      exact Monitor.configure_clears (still l) inRange

end Sys2Proof.Machine
end

section
/-! SUPPORT. Places set aside for the orders that wait, one order at a time (for O2). -/

namespace Sys2Proof.Machine

/-! ### What the orders in the queue do not decide -/

theorem State.withOrders_post (s : State) (orders : List Order) (n : Nat) {kind : RequestKind} (joins : kind.servedAtOnce = false) :
    (s.withOrders orders).post n kind = (s.post n kind).withOrders orders := by
  have waits (c : Cache) : ¬(c.arrivesOn n ≠ none ∧ kind.servedAtOnce = true) := fun ⟨_, atOnce⟩ => nomatch joins.symm.trans atOnce
  rw [State.post_waits (waits s.cache.admitted), State.post_waits (s := s.withOrders orders) (waits s.cache.admitted),
    apply_ite (State.withOrders · orders)]
  rfl

theorem State.withOrders_anticipate (s : State) (orders : List Order) (o : Order) :
    (s.withOrders orders).anticipate o = (s.anticipate o).withOrders orders := by
  have posted (n : Nat) : (s.withOrders orders).post n (.readSub 0 .posted) = (s.post n (.readSub 0 .posted)).withOrders orders :=
    s.withOrders_post orders n rfl
  cases kind : o.kind with
  | start =>
    simp only [State.anticipate, kind, apply_ite (State.withOrders · orders)]
    rfl
  | readSub =>
    simp only [State.anticipate, kind]
    split
    · rfl
    · exact posted _
  | writeSub =>
    simp only [State.anticipate, kind]
    have same : (s.withOrders orders).readOutsideRestart Operands.writeSub o.body = s.readOutsideRestart Operands.writeSub o.body := rfl
    rw [same]
    split
    · rfl
    · exact posted _
  | repairSub =>
    simp only [State.anticipate, kind]
    have same : (s.withOrders orders).readOutsideRestart Operands.repairSub o.body = s.readOutsideRestart Operands.repairSub o.body := rfl
    rw [same]
    split
    · rfl
    · rw [apply_ite (State.withOrders · orders), posted]
      rfl
  | initRecords =>
    simp only [State.anticipate, kind]
    split
    · rfl
    · rw [apply_ite (State.withOrders · orders)]
      rfl
  | flush =>
    simp only [State.anticipate, kind, apply_ite (State.withOrders · orders)]
    rfl
  | _ => simp only [State.anticipate, kind]

theorem State.withOrders_keepsUnit (s : State) (orders : List Order) (o : Order) :
    (s.withOrders orders).keepsUnit o = s.keepsUnit o := rfl

theorem State.withOrders_passes (s : State) (orders l : List Order) : (s.withOrders orders).passes l = s.passes l := by
  induction l generalizing s with
  | nil => rfl
  | cons o l ih => simp only [State.passes, s.withOrders_keepsUnit, s.withOrders_anticipate, ih]

theorem State.withOrders_inTurn (s : State) (orders : List Order) : (s.withOrders orders).inTurn = s.inTurn := by
  funext before o
  exact congrArg (s.ready o.kind.owner && ·) (s.withOrders_passes orders _)

theorem State.passes_nil (s : State) : s.passes [] = true := rfl

theorem State.passes_cons (s : State) (o : Order) (l : List Order) :
    s.passes (o :: l) = true ↔ o.place ≠ none ∧ s.keepsUnit o = false ∧ (s.anticipate o).passes l = true := by
  simp only [State.passes, Bool.and_eq_true, Bool.not_eq_true', Option.isSome_iff_ne_none, and_assoc]

/-- Orders that are passed all have their places. -/
theorem State.passes_placed {s : State} {l : List Order} (passes : s.passes l = true) : ∀ o ∈ l, o.place ≠ none := by
  induction l generalizing s with
  | nil => simp
  | cons x l ih =>
    obtain ⟨placed, -, rest⟩ := (s.passes_cons x l).1 passes
    exact List.forall_mem_cons.2 ⟨placed, ih rest⟩

theorem State.inTurn_iff (s : State) (before : List Order) (o : Order) : s.inTurn before o = true ↔
    s.ready o.kind.owner = true ∧ s.passes (before.filter (fun x => decide (x.kind.owner = o.kind.owner))) = true :=
  Bool.and_eq_true_iff

/-- An order in its turn behind one without a place is of another unit, and stays in its turn whatever place that one is given. -/
theorem State.inTurn_given {s : State} {before early : List Order} {o x : Order} (unplaced : o.place = none) (place : Option Nat)
    (turn : s.inTurn (before ++ o :: early) x = true) : s.inTurn (before ++ { o with place } :: early) x = true := by
  obtain ⟨ready, passes⟩ := (s.inTurn_iff _ x).1 turn
  have apart : ¬o.kind.owner = x.kind.owner := fun same =>
    State.passes_placed passes o (by simp [same]) unplaced
  refine (s.inTurn_iff _ x).2 ⟨ready, ?_⟩
  rw [← passes]
  simp [apart]

/-! ### The first order of a kind, in a list and behind others -/

/-- An order that holds a place and is not in its turn: the place is given back (R162; log 52). -/
def LosesPlace (inTurn : List Order → Order → Bool) (before : List Order) (o : Order) : Prop :=
  o.place ≠ none ∧ ¬inTurn before o = true

/-- An order in its turn that has no place (R162). -/
def DuePlace (inTurn : List Order → Order → Bool) (before : List Order) (o : Order) : Prop := o.place = none ∧ inTurn before o = true

/-- No order of a list is such, seen with the orders before it. -/
def Nowhere (such : List Order → Order → Prop) (l : List Order) : Prop :=
  ∀ before o after, l = before ++ o :: after → ¬such before o

section
variable {such : List Order → Order → Prop} {l r : List Order} {o : Order}

theorem nowhere_nil : Nowhere such [] := fun before o after h => by simp at h

theorem nowhere_cons : Nowhere such (o :: l) ↔ ¬such [] o ∧ Nowhere (fun before => such (o :: before)) l := by
  refine ⟨fun h => ⟨h [] o l rfl, fun before x after e => h (o :: before) x after (congrArg (o :: ·) e)⟩, ?_⟩
  rintro ⟨first, rest⟩ before x after e
  cases before with
  | nil =>
    obtain ⟨rfl, -⟩ := List.cons.inj e
    exact first
  | cons y before =>
    obtain ⟨rfl, tail⟩ := List.cons.inj e
    exact rest before x after tail

theorem nowhere_append : Nowhere such (l ++ r) ↔ Nowhere such l ∧ Nowhere (fun before => such (l ++ before)) r := by
  induction l generalizing such with
  | nil => simp [nowhere_nil]
  | cons o l ih => simp only [List.cons_append, nowhere_cons, ih, and_assoc]

end

section
variable {inTurn : List Order → Order → Bool} {before l : List Order} {o : Order}

/-! ### Places given back (R162; log 52) -/

theorem keepPlaces_cons_kept (kept : ¬LosesPlace inTurn before o) (rest : List Order) :
    keepPlaces inTurn before (o :: rest) = o :: keepPlaces inTurn (before ++ [o]) rest := by
  have same : (if inTurn before o then o else { o with place := none }) = o := by
    split
    · rfl
    · rename_i waits
      rw [← not_not.1 fun placed : ¬o.place = none => kept ⟨placed, waits⟩]
  simp only [keepPlaces, same]

theorem keepPlaces_append_kept (kept : Nowhere (fun early => LosesPlace inTurn (before ++ early)) l) (rest : List Order) :
    keepPlaces inTurn before (l ++ rest) = l ++ keepPlaces inTurn (before ++ l) rest := by
  induction l generalizing before with
  | nil => rw [List.append_nil]; rfl
  | cons o l ih =>
    obtain ⟨first, others⟩ := nowhere_cons.1 kept
    rw [List.append_nil] at first
    rw [List.cons_append, keepPlaces_cons_kept first, ih (by simpa using others)]
    simp

theorem keepPlaces_kept (kept : Nowhere (LosesPlace inTurn) l) : keepPlaces inTurn [] l = l := by
  have walk := keepPlaces_append_kept (before := []) (inTurn := inTurn) kept []
  simpa [keepPlaces] using walk

/-! ### Places given (R162) -/

theorem givePlaces_none_free (before l : List Order) : givePlaces inTurn [] before l = l := by
  induction l generalizing before with
  | nil => rfl
  | cons o l ih =>
    unfold givePlaces
    split
    · rw [ih]
    · rfl

theorem givePlaces_cons_passed (passed : ¬DuePlace inTurn before o) (free : List Nat) (rest : List Order) :
    givePlaces inTurn free before (o :: rest) = o :: givePlaces inTurn free (before ++ [o]) rest := by
  have same : (o.place.isSome || !inTurn before o) = true := by
    cases placed : o.place with
    | some _ => rfl
    | none => exact Bool.not_eq_true' _ ▸ Bool.eq_false_iff.2 fun turn => passed ⟨placed, turn⟩
  exact if_pos same

theorem givePlaces_cons_given (due : DuePlace inTurn before o) (place : Nat) (free : List Nat) (rest : List Order) :
    givePlaces inTurn (place :: free) before (o :: rest) =
      { o with place := some place } :: givePlaces inTurn free (before ++ [{ o with place := some place }]) rest := by
  obtain ⟨unplaced, turn⟩ := due
  rw [givePlaces, if_neg (by rw [unplaced, turn]; exact Bool.false_ne_true)]

theorem givePlaces_append_passed (passed : Nowhere (fun early => DuePlace inTurn (before ++ early)) l) (free : List Nat)
    (rest : List Order) : givePlaces inTurn free before (l ++ rest) = l ++ givePlaces inTurn free (before ++ l) rest := by
  induction l generalizing before with
  | nil => rw [List.append_nil]; rfl
  | cons o l ih =>
    obtain ⟨first, others⟩ := nowhere_cons.1 passed
    rw [List.append_nil] at first
    rw [List.cons_append, givePlaces_cons_passed first, ih (by simpa using others)]
    simp

theorem givePlaces_passed (passed : Nowhere (DuePlace inTurn) l) (free : List Nat) : givePlaces inTurn free [] l = l := by
  have walk := givePlaces_append_passed (before := []) (inTurn := inTurn) passed free []
  simpa [givePlaces] using walk

end

/-! ### The free reply places (R162, log 25) -/

namespace Link

/-- The places that no order and no reply holds, rising. -/
def unusedPlaces (l : Link) : List Nat := (List.range 64).filter (fun p => !l.placesInUse.contains p)

theorem freeList_eq_take (l : Link) : l.freeList = l.unusedPlaces.take (64 - l.placesInUse.length) := rfl

theorem unusedPlaces_ne_nil {l : Link} (room : l.placesInUse.length < 64) : l.unusedPlaces ≠ [] := by
  intro none
  have used : List.range 64 ⊆ l.placesInUse := fun p inRange => by
    have taken := List.filter_eq_nil_iff.1 none p inRange
    simpa using taken
  have count := (List.nodup_range.subperm used).length_le
  rw [List.length_range] at count
  omega

theorem freeList_eq_nil_iff (l : Link) : l.freeList = [] ↔ 64 ≤ l.placesInUse.length := by
  rw [freeList_eq_take, List.take_eq_nil_iff]
  refine ⟨fun empty => ?_, fun full => .inl (by omega)⟩
  by_contra room
  exact empty.elim (by omega) (unusedPlaces_ne_nil (Nat.lt_of_not_le room))

/-- The place given next is the lowest that is free. -/
theorem freeList_head?_eq_some_iff (l : Link) (p : Nat) : l.freeList.head? = some p ↔
    l.placesInUse.length < 64 ∧ p < 64 ∧ p ∉ l.placesInUse ∧ ∀ q, q < p → q ∈ l.placesInUse := by
  have lowest : l.unusedPlaces.head? = some p ↔ p < 64 ∧ p ∉ l.placesInUse ∧ ∀ q, q < p → q ∈ l.placesInUse := by
    rw [unusedPlaces, List.head?_filter, List.find?_range_eq_some]
    simp only [Bool.not_eq_true', List.contains_eq_mem, decide_eq_false_iff_not, List.mem_range, Bool.not_not, decide_eq_true_eq]
    exact and_left_comm
  rw [freeList_eq_take, List.head?_take, ← lowest]
  split
  · rename_i full
    exact ⟨nofun, fun ⟨room, _⟩ => absurd full (by omega)⟩
  · rename_i room
    exact (and_iff_right (by omega)).symm

/-- With the place given next in use too, the others are free in their order. -/
theorem freeList_tail {l m : Link} {p : Nat} {free : List Nat} (head : l.freeList = p :: free)
    (used : m.placesInUse.Perm (p :: l.placesInUse)) : m.freeList = free := by
  have unused : m.unusedPlaces = l.unusedPlaces.filter (fun q => decide (q ≠ p)) := by
    rw [unusedPlaces, unusedPlaces, List.filter_filter]
    refine List.filter_congr fun q _ => ?_
    rw [Bool.eq_iff_iff]
    simp [used.mem_iff]
  rw [freeList_eq_take] at head ⊢
  obtain ⟨n, room⟩ : ∃ n, 64 - l.placesInUse.length = n + 1 :=
    Nat.exists_eq_succ_of_ne_zero fun full => by simp [full] at head
  have fewer : 64 - m.placesInUse.length = n := by
    rw [used.length_eq, List.length_cons]
    omega
  have distinct : l.unusedPlaces.Nodup := List.nodup_range.filter _
  cases places : l.unusedPlaces with
  | nil => simp [places] at head
  | cons q rest =>
    rw [places, room, List.take_succ_cons] at head
    obtain ⟨rfl, rest_eq⟩ := List.cons.inj head
    rw [places] at distinct
    have others : rest.filter (fun x => decide (x ≠ q)) = rest :=
      List.filter_eq_self.2 fun x inRest => decide_eq_true fun same => (List.nodup_cons.1 distinct).1 (same ▸ inRest)
    rw [unused, places, fewer, List.filter_cons_of_neg (by simp), others, rest_eq]

theorem placesInUse_given (l : Link) {before after : List Order} {o : Order} (orders : l.orders = before ++ o :: after)
    (unplaced : o.place = none) (p : Nat) :
    ({ l with orders := before ++ { o with place := some p } :: after } : Link).placesInUse.Perm (p :: l.placesInUse) := by
  simp only [placesInUse, orders, List.filterMap_append, List.filterMap_cons, unplaced, List.append_assoc, List.cons_append]
  exact List.perm_middle

end Link

/-! ### Places set aside, one order at a time (R162; logs 25 and 52) -/

namespace State

variable {s : State} {before after : List Order} {o : Order}

theorem takeBackPlaces_kept (kept : Nowhere (LosesPlace s.inTurn) s.link.orders) : s.takeBackPlaces = s :=
  congrArg s.withOrders (keepPlaces_kept kept)

theorem setPlaces_kept (kept : Nowhere (LosesPlace s.inTurn) s.link.orders) : s.setPlaces = s.giveFreePlaces :=
  congrArg State.giveFreePlaces (takeBackPlaces_kept kept)

/-- The oldest order not in its turn gives its place back. -/
theorem setPlaces_lost (orders : s.link.orders = before ++ o :: after) (lost : LosesPlace s.inTurn before o)
    (first : Nowhere (LosesPlace s.inTurn) before) :
    s.setPlaces = (s.withOrders (before ++ { o with place := none } :: after)).setPlaces := by
  have walk (rest : List Order) : keepPlaces s.inTurn [] (before ++ rest) = before ++ keepPlaces s.inTurn before rest :=
    keepPlaces_append_kept (before := []) first rest
  have waits (p : Option Nat) : ¬s.inTurn before { o with place := p } = true := lost.2
  have same : keepPlaces s.inTurn [] (before ++ { o with place := none } :: after) = keepPlaces s.inTurn [] (before ++ o :: after) := by
    rw [walk, walk, keepPlaces, keepPlaces, if_neg (waits none), if_neg lost.2]
  refine congrArg State.giveFreePlaces ?_
  rw [State.takeBackPlaces, State.takeBackPlaces, State.withOrders_inTurn, orders]
  exact congrArg s.withOrders same.symm

theorem setPlaces_unchanged (kept : Nowhere (LosesPlace s.inTurn) s.link.orders)
    (idle : s.link.freeList = [] ∨ Nowhere (DuePlace s.inTurn) s.link.orders) : s.setPlaces = s := by
  rw [setPlaces_kept kept, State.giveFreePlaces]
  have same : givePlaces s.inTurn s.link.freeList [] s.link.orders = s.link.orders := by
    rcases idle with full | none
    · rw [full, givePlaces_none_free]
    · exact givePlaces_passed none _
  rw [same]
  rfl

/-- A place given takes no other order's: none of the same unit behind `o` held one. -/
theorem kept_given (kept : Nowhere (LosesPlace s.inTurn) (before ++ o :: after)) (due : DuePlace s.inTurn before o) (p : Option Nat) :
    Nowhere (LosesPlace s.inTurn) (before ++ { o with place := p } :: after) := by
  obtain ⟨early, rest⟩ := nowhere_append.1 kept
  obtain ⟨-, late⟩ := nowhere_cons.1 rest
  refine nowhere_append.2 ⟨early, nowhere_cons.2 ⟨fun ⟨_, waits⟩ => ?_, fun between x others e ⟨placed, waits⟩ => ?_⟩⟩
  · rw [List.append_nil] at waits
    exact waits due.2
  · exact late between x others e ⟨placed, fun turn => waits (State.inTurn_given due.1 p turn)⟩

/-- The oldest order in its turn without a place has the lowest free one. -/
theorem setPlaces_given {p : Nat} (kept : Nowhere (LosesPlace s.inTurn) s.link.orders) (lowest : s.link.freeList.head? = some p)
    (orders : s.link.orders = before ++ o :: after) (due : DuePlace s.inTurn before o) (first : Nowhere (DuePlace s.inTurn) before) :
    s.setPlaces = (s.withOrders (before ++ { o with place := some p } :: after)).setPlaces := by
  obtain ⟨free, places⟩ := List.head?_eq_some_iff.1 lowest
  have walk (l : List Nat) (rest : List Order) : givePlaces s.inTurn l [] (before ++ rest) = before ++ givePlaces s.inTurn l before rest :=
    givePlaces_append_passed (before := []) first l rest
  have kept' := kept_given (orders ▸ kept) due (some p)
  have fewer : (s.withOrders (before ++ { o with place := some p } :: after)).link.freeList = free :=
    Link.freeList_tail places (s.link.placesInUse_given orders due.1 p)
  have same : givePlaces s.inTurn s.link.freeList [] (before ++ o :: after) =
      givePlaces s.inTurn free [] (before ++ { o with place := some p } :: after) := by
    rw [walk, walk, places, givePlaces_cons_given due, givePlaces_cons_passed fun ⟨unplaced, _⟩ => nomatch unplaced]
  rw [setPlaces_kept kept, setPlaces_kept (by rw [State.withOrders_inTurn]; exact kept'), State.giveFreePlaces, State.giveFreePlaces,
    State.withOrders_inTurn, fewer, orders, same]
  rfl

end State

end Sys2Proof.Machine
end

section
/-! SUPPORT. Which orders keep their unit, what an order leaves for those behind it, and when one is taken (O2). -/

namespace Sys2Proof.Machine

/-! ### The checks an order passes (R161, R162) -/

theorem ite_some_eq_none_iff {α : Type} {p : Prop} [Decidable p] {x : α} {rest : Option α} :
    (if p then some x else rest) = none ↔ ¬p ∧ rest = none := by
  by_cases h : p <;> simp [h]

theorem readOrder_isOk {α : Type} {read : List Byte → Option α} {body : List Byte} {served : Bool} :
    (readOrder served read body).isOk = true ↔ served = true ∧ read body ≠ none := by
  unfold readOrder
  cases served <;> cases read body <;> simp [Except.isOk, Except.toBool]

theorem readOrder_passes {α : Type} {read : List Byte → Option α} {body : List Byte} {served : Bool} (f : α → Bool) :
    ((readOrder served read body).map f).toOption.getD false = true ↔ served = true ∧ ∃ v, read body = some v ∧ f v = true := by
  unfold readOrder
  cases served <;> cases read body <;> simp [Except.map, Except.toOption]

namespace State

variable {s : State}

theorem readRunning_isOk {α : Type} {read : List Byte → Option α} {body : List Byte} :
    (s.readRunning read body).isOk = true ↔ s.link.partState = .running ∧ read body ≠ none := by
  rw [State.readRunning, readOrder_isOk, decide_eq_true_eq]

theorem readOutsideRestart_isOk {α : Type} {read : List Byte → Option α} {body : List Byte} :
    (s.readOutsideRestart read body).isOk = true ↔ s.link.partState ≠ .restarting ∧ read body ≠ none := by
  rw [State.readOutsideRestart, readOrder_isOk, decide_eq_true_eq]

theorem readOutsideRestart_passes {α : Type} {read : List Byte → Option α} {body : List Byte} (f : α → Bool) :
    ((s.readOutsideRestart read body).map f).toOption.getD false = true ↔
      s.link.partState ≠ .restarting ∧ ∃ v, read body = some v ∧ f v = true := by
  rw [State.readOutsideRestart, readOrder_passes, decide_eq_true_eq]

theorem readOutsideRestart_cases {α : Type} (s : State) (read : List Byte → Option α) (body : List Byte) :
    (∃ v, s.link.partState ≠ .restarting ∧ read body = some v ∧ s.readOutsideRestart read body = .ok v) ∨
      ((∀ v, s.link.partState ≠ .restarting → read body ≠ some v) ∧ ∃ code, s.readOutsideRestart read body = .error code) := by
  by_cases restarting : s.link.partState = .restarting
  · exact .inr ⟨fun v serving => absurd restarting serving, _,
      readOrder_error.2 (.inl ⟨decide_eq_false (not_not.2 restarting), rfl⟩)⟩
  · have serving : s.link.partState ≠ .restarting := restarting
    cases fields : read body with
    | none => exact .inr ⟨fun v _ => nofun, _, State.readOutsideRestart_none serving fields⟩
    | some v => exact .inl ⟨v, serving, rfl, State.readOutsideRestart_some serving fields⟩

theorem readRunning_cases {α : Type} (s : State) (read : List Byte → Option α) (body : List Byte) :
    (∃ v, s.link.partState = .running ∧ read body = some v ∧ s.readRunning read body = .ok v) ∨
      ((∀ v, s.link.partState = .running → read body ≠ some v) ∧ ∃ code, s.readRunning read body = .error code) := by
  by_cases running : s.link.partState = .running
  · cases fields : read body with
    | none => exact .inr ⟨fun v _ => nofun, _, State.readRunning_badValue running fields⟩
    | some v => exact .inl ⟨v, running, rfl, State.readRunning_ok running fields⟩
  · exact .inr ⟨fun v served => absurd served running, _, readOrder_error.2 (.inl ⟨decide_eq_false running, rfl⟩)⟩

theorem groupStart_isOk {body : List Byte} : (s.groupStart body).isOk = true ↔ s.link.partState = .running ∧
    ∃ group first others kind, Operands.submitGroupNumber body = some group ∧
      Table.get [] s.store.groups group = first :: others ∧ Operands.submitGroupKind body = some kind ∧
      others.length + 1 ≤ s.store.available ∧ 0 < s.store.freeBodies.length := by
  rcases s.readRunning_cases Operands.submitGroupNumber body with ⟨group, running, number, read⟩ | ⟨fails, code, read⟩
  · obtain ⟨empty, listed⟩ := State.groupStart_eq read
    cases members : Table.get [] s.store.groups group with
    | nil => simp [empty members, number, members, Except.isOk, Except.toBool]
    | cons first others =>
      obtain ⟨unread, judged⟩ := listed first others members
      cases kind : Operands.submitGroupKind body with
      | none => simp [unread kind, Except.isOk, Except.toBool]
      | some v =>
        rw [judged v.1 v.2 kind]
        by_cases full : s.store.available < others.length + 1 ∨ s.store.freeBodies.length = 0
        · rw [if_pos full]
          refine ⟨nofun, fun ⟨_, _, _, _, _, sameGroup, sameMembers, _, entries, bodies⟩ => ?_⟩
          cases number.symm.trans sameGroup
          cases members.symm.trans sameMembers
          omega
        · rw [if_neg full]
          exact iff_of_true rfl ⟨running, group, first, others, v, number, members, rfl, by omega, by omega⟩
  · rw [State.groupStart_error read]
    exact ⟨nofun, fun ⟨running, group, _, _, _, number, _⟩ => absurd number (fails group running)⟩

theorem cancelStart_isOk {body : List Byte} : (s.cancelStart body).isOk = true ↔ s.link.partState = .running ∧
    ((∃ n, Operands.cancel body = some (.entry n) ∧ n < 16384 ∧ s.store.entry n ≠ none) ∨
      ∃ m slot b, Operands.cancel body = some (.message m) ∧ s.store.findMessage m = some (slot, b) ∧
        s.store.entriesOf slot ≠ []) := by
  rcases s.readRunning_cases Operands.cancel body with ⟨form, running, fields, -⟩ | ⟨fails, code, read⟩
  · rw [and_iff_right running]
    cases form with
    | entry n =>
      rw [State.cancelStart_entry running fields]
      by_cases beyond : 16384 ≤ n
      · rw [if_pos beyond]
        simp [fields, Nat.not_lt.2 beyond, Except.isOk, Except.toBool]
      · rw [if_neg beyond]
        by_cases free : s.store.entry n = none <;> simp [fields, free, Nat.not_le.1 beyond, Except.isOk, Except.toBool]
    | message m =>
      obtain ⟨unknown, known⟩ := State.cancelStart_message running fields
      cases found : s.store.findMessage m with
      | none => simp [unknown found, fields, found, Except.isOk, Except.toBool]
      | some slotBody =>
        obtain ⟨slot, b⟩ := slotBody
        obtain ⟨none, some⟩ := known slot b found
        cases entries : s.store.entriesOf slot with
        | nil => simp [none (by rw [entries]; rfl), fields, found, entries, Except.isOk, Except.toBool]
        | cons e rest =>
          simp [some e.1 (rest.map Prod.fst) (by rw [entries]; rfl), fields, found, entries, Except.isOk, Except.toBool]
  · rw [State.cancelStart_error read]
    refine ⟨nofun, fun ⟨running, named⟩ => ?_⟩
    rcases named with ⟨n, entry, -⟩ | ⟨m, _, _, message, -⟩
    · exact absurd entry (fails _ running)
    · exact absurd message (fails _ running)

theorem startRefusal_eq_none_iff : s.startRefusal = none ↔ s.link.partState = .config ∧ s.cache.addressBase ≠ none ∧
    s.monitor.inService ≠ 0 ∧ ∀ p next last written, s.cache.sweep ≠ some (.records p next last written) := by
  have sweeping : ¬s.cache.initialising = true ↔ ∀ p next last written, s.cache.sweep ≠ some (.records p next last written) := by
    simp only [Cache.initialising_iff, not_exists, ne_eq]
  simp only [State.startRefusal, ite_some_eq_none_iff, sweeping, ne_eq, not_not, and_true]

theorem restartRefusal_eq_none_iff : s.restartRefusal = none ↔
    s.link.partState = .running ∧ s.store.occupancy + s.intake.mayCreate ≤ 1024 - s.log.records.length := by
  simp only [State.restartRefusal, ite_some_eq_none_iff, ne_eq, not_not, Nat.not_lt, and_true]
  rfl

/-! ### When a unit is ready (the table of R161) -/

theorem ready_intake : s.ready .intake = true ↔ s.intake.order = none := Option.isNone_iff_eq_none

theorem ready_charging : s.ready .charging = true ↔ s.charging.order = none := Option.isNone_iff_eq_none

theorem ready_linkState : s.ready .linkState = true ↔ s.link.restart = none := Option.isNone_iff_eq_none

theorem ready_cache : s.ready .cache = true ↔ ∀ r ∈ s.cache.heldRequests, r.kind.isHostOrder = false := by
  simp only [State.ready, Bool.not_eq_true', List.any_eq_false, Bool.not_eq_true]

/-! ### What an order leaves for those behind it (R161, R162; log 52) -/

variable {o : Order}

theorem anticipate_start (kind : o.kind = .start) :
    (s.startRefusal = none → s.anticipate o = s.withPartState .running) ∧ (s.startRefusal ≠ none → s.anticipate o = s) := by
  simp only [State.anticipate, kind, Option.isNone_iff_eq_none]
  exact ⟨fun passes => if_pos passes, fun fails => if_neg fails⟩

theorem anticipate_readSub (kind : o.kind = .readSub) :
    (∀ n, Operands.subscriber o.body 0 = some n → s.anticipate o = s.post n (.readSub 0 .posted)) ∧
    (Operands.subscriber o.body 0 = none → s.anticipate o = s) := by
  simp only [State.anticipate, kind]
  exact ⟨fun n fields => by rw [fields], fun unread => by rw [unread]⟩

theorem anticipate_writeSub (kind : o.kind = .writeSub) :
    (∀ v, s.link.partState ≠ .restarting → Operands.writeSub o.body = some v → s.anticipate o = s.post v.1 (.readSub 0 .posted)) ∧
    (¬s.link.partState ≠ .restarting ∨ Operands.writeSub o.body = none → s.anticipate o = s) := by
  simp only [State.anticipate, kind]
  rcases s.readOutsideRestart_cases Operands.writeSub o.body with ⟨v, serving, fields, read⟩ | ⟨fails, code, read⟩
  · simp [read, serving, fields]
  · simp only [read]
    exact ⟨fun v serving fields => absurd fields (fails v serving), fun _ => trivial⟩

theorem repairRefused_iff {n : Nat} : s.repairRefused n = true ↔ s.store.names n = true ∧ s.cache.admitted.hasEarlier n = false ∧
    s.cache.admitted.canServe (s.cache.admitted.request n (.readSub 0 .posted)) = true := by
  simp only [State.repairRefused, Bool.and_eq_true, Bool.not_eq_true', and_assoc]

theorem anticipate_repairSub (kind : o.kind = .repairSub) :
    (∀ v, s.link.partState ≠ .restarting → Operands.repairSub o.body = some v → ¬s.repairRefused v.1 = true →
      s.anticipate o = s.post v.1 (.readSub 0 .posted)) ∧
    (¬s.link.partState ≠ .restarting ∨ (∀ v, Operands.repairSub o.body = some v → s.repairRefused v.1 = true) →
      s.anticipate o = s) := by
  simp only [State.anticipate, kind]
  rcases s.readOutsideRestart_cases Operands.repairSub o.body with ⟨v, serving, fields, read⟩ | ⟨fails, code, read⟩
  · simp +contextual [read, serving, fields]
  · simp only [read]
    exact ⟨fun v serving fields => absurd fields (fails v serving), fun _ => trivial⟩

theorem anticipate_initRecords (kind : o.kind = .initRecords) :
    (∀ v, s.link.partState = .config → s.cache.sweep = none → Operands.initRecords o.body = some v →
      s.anticipate o = s.withCache { s.cache with sweep := some (.records 0 v.1 v.2 0) }) ∧
    (s.link.partState ≠ .config ∨ s.cache.sweep ≠ none ∨ Operands.initRecords o.body = none → s.anticipate o = s) := by
  simp only [State.anticipate, kind]
  cases fields : Operands.initRecords o.body with
  | none => exact ⟨fun v _ _ read => (nomatch read), fun _ => rfl⟩
  | some v =>
    refine ⟨fun w config idle read => ?_, fun fails => if_neg fun ⟨config, idle⟩ => ?_⟩
    · cases read
      exact if_pos ⟨config, idle⟩
    · rcases fails with other | sweeping | unread
      · exact other config
      · exact sweeping idle
      · exact nomatch unread

theorem anticipate_flush (kind : o.kind = .flush) :
    (s.link.partState ≠ .restarting → s.cache.sweep = none →
      s.anticipate o = s.withCache { s.cache with sweep := some (.lines (some 0) 0 0 0) }) ∧
    (¬s.link.partState ≠ .restarting ∨ s.cache.sweep ≠ none → s.anticipate o = s) := by
  simp only [State.anticipate, kind]
  exact ⟨fun serving idle => if_pos ⟨serving, idle⟩, fun fails => if_neg fun ⟨serving, idle⟩ =>
    fails.elim (fun other => other serving) fun sweeping => sweeping idle⟩

end State

/-! ### An order that no unit can take now (log 1) -/

theorem Result.waits {s : State} {kind : OrderKind} (none : s.takeOrder kind = none) (f : Nat → List Byte → State → State) :
    Host.Outcome.next (match s.takeOrder kind with
      | .none => s
      | some (place, body, taken) => f place body taken) = (.next s : Result) := by
  simp only [none]

/-- Settles O2: taking by the oldest order of a unit; the places set aside by the first order that loses or is given one; the rest by the
kind of the order. -/
theorem orderTaken : Obligations.OrderTaken := by
  refine ⟨fun k s t place body => ?_, fun c k listed s none => ?_, fun s => ?_, fun s o => ?_, fun s o => ?_⟩
  · intro ready
    have readiness : s.ready k.owner = true ↔ ready := by
      dsimp only [ready]
      cases k.owner with
      | intake => exact State.ready_intake
      | charging => exact State.ready_charging
      | cache => exact State.ready_cache
      | linkState => exact State.ready_linkState
      | _ => exact iff_of_true rfl trivial
    refine ⟨readiness, State.takeOrder_spec.trans ?_⟩
    simp only [readiness]
    constructor
    · rintro ⟨before, o, after, rest⟩
      exact ⟨before, after, o, rest⟩
    · rintro ⟨before, after, o, rest⟩
      exact ⟨before, o, after, rest⟩
  · generalize pair : (c, k) = p at listed
    fin_cases listed <;> cases pair <;> exact Result.waits none _
  · intro turn lost due noneLost _
    have turns : ∀ before o, s.inTurn before o = true ↔ turn before o := s.inTurn_iff
    have losing : LosesPlace s.inTurn = lost := by
      funext before o
      rw [LosesPlace, turns]
    have awaiting : DuePlace s.inTurn = due := by
      funext before o
      rw [DuePlace, turns]
    have keeping : noneLost → Nowhere (LosesPlace s.inTurn) s.link.orders := by
      rw [losing]
      exact id
    rw [← losing, ← awaiting]
    refine ⟨s.passes_nil, s.passes_cons, s.link.freeList_eq_nil_iff, fun p lowest => ?_, fun before o after orders gone first => ?_,
      fun kept idle => ?_, fun kept p before o after lowest orders awaits first => ?_⟩
    · exact ((s.link.freeList_head?_eq_some_iff p).1 lowest).2
    · exact State.setPlaces_lost orders gone first
    · exact State.setPlaces_unchanged (keeping kept) idle
    · exact State.setPlaces_given (keeping kept) lowest orders awaits first
  · intro same served posted sweeps starts refusedAtOnce
    cases kind : o.kind with
    | start =>
      obtain ⟨begins, stays⟩ := State.anticipate_start (s := s) kind
      exact ⟨fun passes => begins (State.startRefusal_eq_none_iff.2 passes),
        fun fails => stays (mt State.startRefusal_eq_none_iff.1 fails)⟩
    | readSub => exact State.anticipate_readSub kind
    | writeSub => exact State.anticipate_writeSub kind
    | repairSub =>
      have refused : ∀ n, s.repairRefused n = true ↔ refusedAtOnce n := fun n => State.repairRefused_iff
      simp only [← refused]
      exact State.anticipate_repairSub kind
    | initRecords => exact State.anticipate_initRecords kind
    | flush => exact State.anticipate_flush kind
    | _ =>
      show s.anticipate o = s
      simp only [State.anticipate, kind]
  · intro running served held
    unfold State.keepsUnit
    cases o.kind with
    | submit => exact State.readRunning_isOk
    | submitGroup => exact State.groupStart_isOk
    | cancel => exact State.cancelStart_isOk
    | topUp => exact State.readOutsideRestart_isOk
    | adjust => exact State.readOutsideRestart_isOk
    | restart => exact Option.isNone_iff_eq_none.trans State.restartRefusal_eq_none_iff
    | readSub => cases fields : Operands.subscriber o.body 0 <;> simp [held]
    | writeSub => exact State.readOutsideRestart_passes _
    | repairSub => exact State.readOutsideRestart_passes _
    | _ => exact ⟨nofun, nofun⟩

end Sys2Proof.Machine
end

section
/-! SUPPORT. What a host frame comes to: its KIND, its length, its CHECK, and the order or the refusal it is (O16). -/

namespace Sys2Proof.Machine

/-! ### The KINDs and the lengths of their bodies (12.1, 12.2) -/

namespace OrderKind

theorem mem_all (k : OrderKind) : k ∈ OrderKind.all := by cases k <;> decide

theorem ofCode_code (k : OrderKind) : OrderKind.ofCode k.code = some k := by cases k <;> rfl

theorem ofCode_eq_some_iff {b : Byte} {k : OrderKind} : OrderKind.ofCode b = some k ↔ k.code = b :=
  ⟨fun found => eq_of_beq (List.find?_some (p := fun k : OrderKind => k.code == b) found), fun same => same ▸ ofCode_code k⟩

/-- The order-set table lists each order with its KIND (12.1). -/
theorem ofCode_eq_some_iff_mem {b : Byte} {k : OrderKind} :
    OrderKind.ofCode b = some k ↔ (b, k) ∈ OrderKind.all.map (fun k => (k.code, k)) := by
  rw [ofCode_eq_some_iff, List.mem_map]
  refine ⟨fun same => ⟨k, mem_all k, by rw [same]⟩, ?_⟩
  rintro ⟨_, -, ⟨⟩⟩
  rfl

end OrderKind

/-! ### The CHECK (R157, 12.1) -/

theorem frameCheck_eq (kind tag : Byte) (body : List Byte) : frameCheck kind tag body =
    Bytes.crc16 ([BitVec.ofNat 8 (body.length / 256), BitVec.ofNat 8 body.length, kind, tag] ++ body) := by
  simp [frameCheck, Bytes.ofNat]

theorem Bytes.crc16_snoc (bs : List Byte) (b : Byte) : Bytes.crc16 (bs ++ [b]) = Bytes.crcByte (Bytes.crc16 bs) b :=
  List.foldl_append

/-! ### The three checks of an order (R160) -/

namespace Link

variable {l : Link} {kind tag : Byte} {body : List Byte}

theorem orderRefusal_unknown (unknown : OrderKind.ofCode kind = none) : l.orderRefusal kind body = some .unknownOrder := by
  rw [orderRefusal, unknown]

theorem orderRefusal_known {k : OrderKind} (known : OrderKind.ofCode kind = some k) : l.orderRefusal kind body =
    if k.lengthFits body = false then some .badFormat else if 32 ≤ l.orders.length then some .busy else none := by
  rw [orderRefusal, known]
  rfl

/-- Each refusal of the Link Interface by the check that fails. -/
theorem orderRefusal_code {code : ReplyCode} (refused : l.orderRefusal kind body = some code) :
    (code = .unknownOrder ↔ OrderKind.ofCode kind = none) ∧
    (code = .badFormat ↔ ∃ k, OrderKind.ofCode kind = some k ∧ k.lengthFits body = false) ∧
    (code = .busy ↔ ∃ k, OrderKind.ofCode kind = some k ∧ k.lengthFits body = true ∧ 32 ≤ l.orders.length) := by
  cases known : OrderKind.ofCode kind with
  | none =>
    cases (orderRefusal_unknown known).symm.trans refused
    simp
  | some k =>
    rw [orderRefusal_known known] at refused
    by_cases short : k.lengthFits body = false
    · rw [if_pos short] at refused
      cases refused
      simp [short]
    · rw [if_neg short] at refused
      by_cases full : 32 ≤ l.orders.length
      · rw [if_pos full] at refused
        cases refused
        simpa [full] using short
      · rw [if_neg full] at refused
        exact nomatch refused

/-- With every place in use the refusal is dropped and counted. -/
theorem refuse_dropped (full : 64 ≤ l.placesInUse.length) (code : ReplyCode) :
    l.refuse kind tag code = l.count (fun c => { c with overruns := c.overruns + 1 }) := by
  rw [refuse, l.freeList_eq_nil_iff.2 full]

/-- A refusal takes the lowest free place. -/
theorem refuse_placed {place : Nat} (room : l.placesInUse.length < 64) (free : place ∉ l.placesInUse)
    (lowest : ∀ q, q < place → q ∈ l.placesInUse) (code : ReplyCode) : l.refuse kind tag code = startSending { l with
      ready := l.ready ++ [(place, { kind, tag, code, body := .none })], counts := l.counts.refusal code } := by
  cases places : l.freeList with
  | nil => exact absurd (l.freeList_eq_nil_iff.1 places) (Nat.not_le.2 room)
  | cons p rest =>
    obtain ⟨-, -, unused, below⟩ := (l.freeList_head?_eq_some_iff p).1 (congrArg List.head? places)
    have same : p = place :=
      Nat.le_antisymm (Nat.not_lt.1 fun lower => free (below place lower)) (Nat.not_lt.1 fun lower => unused (lowest p lower))
    rw [refuse, places, same]

end Link

/-! ### A frame that has arrived (R157, R158, R160) -/

namespace State

variable {s : State} {kind tag : Byte} {body : List Byte}

theorem takeFrame_accepted {k : OrderKind} (known : OrderKind.ofCode kind = some k) (fits : k.lengthFits body = true)
    (room : s.link.orders.length < 32) : s.takeFrame kind tag body = (s.withLink (s.link.accept k tag body)).setPlaces := by
  have passes : s.link.orderRefusal kind body = none := by
    rw [Link.orderRefusal_known known, if_neg (by simp [fits]), if_neg (Nat.not_le.2 room)]
  simp only [takeFrame, passes, known]

/-- A frame that fails a check is refused with the code of the first it fails. -/
theorem takeFrame_refused
    (fails : ¬∃ k, OrderKind.ofCode kind = some k ∧ k.lengthFits body = true ∧ s.link.orders.length < 32) :
    ∃ code, s.link.orderRefusal kind body = some code ∧ s.takeFrame kind tag body = s.withLink (s.link.refuse kind tag code) := by
  have refused : ∃ code, s.link.orderRefusal kind body = some code := by
    cases known : OrderKind.ofCode kind with
    | none => exact ⟨_, Link.orderRefusal_unknown known⟩
    | some k =>
      rw [Link.orderRefusal_known known]
      by_cases fits : k.lengthFits body = true
      · exact ⟨.busy, by rw [if_neg (by simp [fits]), if_pos (Nat.not_lt.1 fun room => fails ⟨k, known, fits, room⟩)]⟩
      · exact ⟨.badFormat, if_pos (Bool.eq_false_iff.2 fits)⟩
  obtain ⟨code, refused⟩ := refused
  exact ⟨code, refused, by simp only [takeFrame, refused]⟩

end State

theorem exec_hostFrame {s : State} {body : List Byte} (short : body.length ≤ 508) (line : s.link.inBreak = false)
    (kind tag : Byte) (check : Word16) : exec (.hostFrame kind tag body check) s = .next (s.receive kind tag body check) := by
  show execHostFrame kind tag body check s = _
  rw [execHostFrame, if_pos (show body.length ≤ Config.maxBody from short), line]
  rfl

/-- Settles O16: a frame by its CHECK, an order by the three checks, a refusal by the places that are free. -/
theorem hostFrameChecked : Obligations.HostFrameChecked := by
  refine ⟨fun b k => OrderKind.ofCode_eq_some_iff_mem, fun k body => ?_, frameCheck_eq, ⟨rfl, Bytes.crc16_snoc⟩,
    fun s kind tag body check short line => ?_⟩
  · unfold OrderKind.lengthFits
    cases k with
    | submit => simp only [Bool.and_eq_true, decide_eq_true_eq]
    | submitGroup => simp only [Bool.and_eq_true, decide_eq_true_eq]
    | groupSet => simp only [Bool.and_eq_true, decide_eq_true_eq]
    | _ => exact decide_eq_true_iff
  · intro good accepts used
    rw [exec_hostFrame short line]
    have received (ok : check = frameCheck kind tag body) :
        s.receive kind tag body check = (s.withLink good).takeFrame kind tag body := if_pos ok
    refine ⟨fun wrong => congrArg _ (if_neg wrong), fun k ok known fits room => ?_, fun ok fails full => ?_,
      fun place ok fails room free lowest => ?_⟩
    · have accepted := State.takeFrame_accepted (s := s.withLink good) (tag := tag) known fits room
      exact congrArg Host.Outcome.next ((received ok).trans accepted)
    · obtain ⟨code, -, refused⟩ := State.takeFrame_refused (s := s.withLink good) (tag := tag) fails
      have dropped := Link.refuse_dropped (l := good) (kind := kind) (tag := tag) full code
      exact congrArg Host.Outcome.next ((received ok).trans (refused.trans (congrArg (s.withLink good).withLink dropped)))
    · obtain ⟨code, failed, refused⟩ := State.takeFrame_refused (s := s.withLink good) (tag := tag) fails
      have placed := Link.refuse_placed (l := good) (kind := kind) (tag := tag) room free lowest code
      exact ⟨code, congrArg Host.Outcome.next ((received ok).trans (refused.trans (congrArg (s.withLink good).withLink placed))),
        Link.orderRefusal_code failed⟩

end Sys2Proof.Machine
end

section
/-! SUPPORT. The receiver, the transmitter, and the reply of a taken order (O17). -/

namespace Sys2Proof.Machine

namespace Link

variable {l : Link}

theorem gathering_iff : l.gathering = true ↔ l.receiver = .gathering ∧ l.inBreak = false := by
  simp only [gathering, Bool.and_eq_true, decide_eq_true_eq, Bool.not_eq_true']

/-! ### The transmitter (R159, R164) -/

theorem startSending_stays (busy : l.inBreak = true ∨ l.sending ≠ .idle) : l.startSending = l := by
  unfold startSending
  split
  · rfl
  · rename_i line
    cases sending : l.sending with
    | idle => exact absurd sending (busy.resolve_left line)
    | reply _ _ => rfl
    | notice _ => rfl

theorem startSending_reply (line : l.inBreak = false) (idle : l.sending = .idle) {place : Nat} {r : Reply} {rest : List (Nat × Reply)}
    (ready : l.ready = (place, r) :: rest) : l.startSending = { l with ready := rest, sending := .reply place r } := by
  simp only [startSending, line, idle, ready, Bool.false_eq_true, if_false]

theorem startSending_notice (line : l.inBreak = false) (idle : l.sending = .idle) {n : Notice} {rest : List Notice}
    (none : l.ready = []) (notices : l.notices = n :: rest) :
    l.startSending = { l with notices := rest, sending := .notice n } := by
  simp only [startSending, line, idle, none, notices, Bool.false_eq_true, if_false]

theorem startSending_nothing (line : l.inBreak = false) (idle : l.sending = .idle) (none : l.ready = []) (silent : l.notices = []) :
    l.startSending = l := by
  simp only [startSending, line, idle, none, silent, Bool.false_eq_true, if_false]

/-! ### The reply of a taken order (R159, R162) -/

theorem makeReply_none {place : Nat} (none : ∀ o ∈ l.taken, o.place ≠ place) (code : ReplyCode) (body : ReplyBody) :
    l.makeReply place code body = l := by
  have unfound : l.taken.find? (fun t => t.place == place) = .none :=
    List.find?_eq_none.2 fun o taken => by simpa using none o taken
  simp only [makeReply, unfound]

/-- The order taken with a place, and the orders taken with others. -/
theorem makeReply_taken {before after : List TakenOrder} {o : TakenOrder} (taken : l.taken = before ++ o :: after)
    (others : ∀ x ∈ before ++ after, x.place ≠ o.place) (code : ReplyCode) (body : ReplyBody) :
    l.makeReply o.place code body =
      if o.marked then
        { l with taken := before ++ after, counts := { l.counts with repliesDiscarded := l.counts.repliesDiscarded + 1 } }
      else startSending { l with
        taken := before ++ after, ready := l.ready ++ [(o.place, { kind := o.kind.code, tag := o.tag, code, body })] } := by
  obtain ⟨early, late⟩ := List.forall_mem_append.1 others
  have found : l.taken.find? (fun t => t.place == o.place) = some o := by
    rw [taken, List.find?_append, List.find?_eq_none.2 fun x inEarly => by simpa using early x inEarly]
    simp
  have rest : l.taken.filter (fun t => decide (t.place ≠ o.place)) = before ++ after := by
    rw [taken, List.filter_append, List.filter_cons_of_neg (by simp), ← List.filter_append]
    exact List.filter_eq_self.2 fun x inOthers => decide_eq_true (others x inOthers)
  simp only [makeReply, found, rest]

end Link

/-! ### The commands of the line (R157 to R159, R164) -/

section
variable {s : State}

theorem exec_hostSync (hunts : s.link.receiver = .hunting) (line : s.link.inBreak = false) :
    exec .hostSync s = .next (s.withLink { s.link with receiver := .gathering }) :=
  congrArg Host.Outcome.next (if_pos ⟨hunts, line⟩)

theorem exec_hostGapTimeout (gathers : s.link.gathering = true) :
    exec .hostGapTimeout s = .next (s.withLink (s.link.discard (fun c => { c with gapDiscards := c.gapDiscards + 1 }))) :=
  congrArg Host.Outcome.next (if_pos gathers)

theorem exec_hostLineError (gathers : s.link.gathering = true) :
    exec .hostLineError s = .next (s.withLink (s.link.discard (fun c => { c with lineErrors := c.lineErrors + 1 }))) :=
  congrArg Host.Outcome.next (if_pos gathers)

theorem exec_hostLengthDiscard (gathers : s.link.gathering = true) {length : Word16} (long : 508 < length.toNat) :
    exec (.hostLengthDiscard length) s =
      .next (s.withLink (s.link.discard (fun c => { c with lengthDiscards := c.lengthDiscards + 1 }))) :=
  (if_pos long).trans (congrArg Host.Outcome.next (if_pos gathers))

theorem exec_breakEnd (lasts : s.link.inBreak = true) :
    exec .breakEnd s = .next (s.withLink (Link.startSending { s.link with inBreak := false, receiver := .hunting })) :=
  congrArg Host.Outcome.next (if_pos lasts)

theorem exec_frameSent_reply {place : Nat} {r : Reply} (sending : s.link.sending = .reply place r) :
    exec .frameSent s = .next (s.withLink (Link.startSending { s.link with
      sending := .idle, counts := { s.link.counts with repliesSent := s.link.counts.repliesSent + 1 } })).setPlaces := by
  show execFrameSent s = _
  simp only [execFrameSent, Link.sendsReply, Link.sent, sending, if_true]

theorem exec_frameSent_notice {n : Notice} (sending : s.link.sending = .notice n) :
    exec .frameSent s = .next (s.withLink (Link.startSending { s.link with
      sending := .idle, counts := { s.link.counts with noticesSent := s.link.counts.noticesSent + 1 } })) := by
  show execFrameSent s = _
  simp only [execFrameSent, Link.sendsReply, Link.sent, sending, Bool.false_eq_true, if_false]

end

/-- Settles O17: the receiver by its state, the transmitter by what it sends and what is ready, a reply by the order taken with its
place. -/
theorem receiverAndTransmitterMove : Obligations.ReceiverAndTransmitterMove := by
  refine ⟨fun s line => ⟨fun hunts => exec_hostSync hunts line, fun gathers => ?_⟩,
    ⟨fun s lasts => exec_breakEnd lasts, fun s place r => exec_frameSent_reply, fun s n => exec_frameSent_notice,
      fun l line idle => ?_⟩,
    fun l => Link.startSending_stays, fun s place code body => ?_⟩
  · have active : s.link.gathering = true := Link.gathering_iff.2 ⟨gathers, line⟩
    exact ⟨exec_hostGapTimeout active, exec_hostLineError active, fun length => exec_hostLengthDiscard active⟩
  · exact ⟨fun place r rest => Link.startSending_reply line idle, fun n rest => Link.startSending_notice line idle,
      Link.startSending_nothing line idle⟩
  · have made {m : Link} (h : s.link.makeReply place code body = m) : s.reply place code body = (s.withLink m).setPlaces :=
      congrArg (fun m => (s.withLink m).setPlaces) h
    refine ⟨fun none => made (Link.makeReply_none none code body), fun before o after taken own others => ?_⟩
    subst own
    have reply := Link.makeReply_taken taken others code body
    exact ⟨fun unmarked => made (by rw [reply, unmarked]; rfl), fun marked => made (by rw [reply, marked]; rfl)⟩

end Sys2Proof.Machine
end

section
/-! SUPPORT. The orders refused in RESTARTING (O15). -/

namespace Sys2Proof.Machine

/-! ### The checks of an order in RESTARTING (R162, R167) -/

section
variable {t : State} (restarting : t.link.partState = .restarting)
include restarting

theorem State.readRunning_restarting {α : Type} (read : List Byte → Option α) (body : List Byte) :
    t.readRunning read body = .error .wrongState :=
  readOrder_error.2 (.inl ⟨decide_eq_false (by simp [restarting]), rfl⟩)

theorem State.readOutsideRestart_restarting {α : Type} (read : List Byte → Option α) (body : List Byte) :
    t.readOutsideRestart read body = .error .wrongState :=
  readOrder_error.2 (.inl ⟨decide_eq_false (not_not_intro restarting), rfl⟩)

theorem State.not_config_of_restarting : t.link.partState ≠ .config := by simp [restarting]

theorem State.not_running_of_restarting : t.link.partState ≠ .running := by simp [restarting]

theorem State.startRefusal_restarting : t.startRefusal = some .wrongState := if_pos (State.not_config_of_restarting restarting)

theorem State.restartRefusal_restarting : t.restartRefusal = some .wrongState := if_pos (State.not_running_of_restarting restarting)

/-! ### What the taking of an order comes to in RESTARTING -/

variable (place : Nat) (body : List Byte)

theorem State.takeSubmit_restarting : t.takeSubmit place body = t.reply place .wrongState .none :=
  State.takeSubmit_error (State.readRunning_restarting restarting _ body) place

theorem State.takeSubmitGroup_restarting : t.takeSubmitGroup place body = t.reply place .wrongState .none :=
  State.takeSubmitGroup_error (State.groupStart_error (State.readRunning_restarting restarting _ body)) place

theorem State.takeCancel_restarting : t.takeCancel place body = t.reply place .wrongState .none :=
  State.takeCancel_error (State.cancelStart_error (State.readRunning_restarting restarting _ body)) place

theorem State.takeTopUp_restarting : t.takeTopUp place body = t.reply place .wrongState .none := by
  simp only [State.takeTopUp, State.readOutsideRestart_restarting restarting]

theorem State.takeAdjust_restarting : t.takeAdjust place body = t.reply place .wrongState .none := by
  simp only [State.takeAdjust, State.readOutsideRestart_restarting restarting]

theorem State.takeWriteSub_restarting : t.takeWriteSub place body = t.reply place .wrongState .none := by
  simp only [State.takeWriteSub, State.readOutsideRestart_restarting restarting]

theorem State.takeRepairSub_restarting : t.takeRepairSub place body = t.reply place .wrongState .none := by
  simp only [State.takeRepairSub, State.readOutsideRestart_restarting restarting]

theorem flushTake_restarting : flushTake place t = t.reply place .wrongState .none := if_pos restarting

end

/-! ### Refusals in RESTARTING, by how an order is taken -/

/-- An order of this kind taken in RESTARTING is answered WRONG_STATE, and nothing changes but that the machine may settle down (R167). -/
def RefusedInRestart (c : Instr) (k : OrderKind) : Prop :=
  ∀ (s t : State) (place : Nat) (body : List Byte), s.takeOrder k = some (place, body, t) → t.link.partState = .restarting →
    exec c s = .next (t.reply place .wrongState .none) ∨ exec c s = .next (t.reply place .wrongState .none).settleDown

namespace RefusedInRestart
variable {c : Instr} {k : OrderKind}

/-- An order answered at once by an act that refuses it. -/
theorem of_answered {act : List Byte → State → Answer} (answered : ∀ s, exec c s = .next (s.answerOrder k act))
    (refused : ∀ {t : State}, t.link.partState = .restarting → ∀ body, act body t = (.wrongState, .none, t)) :
    RefusedInRestart c k := by
  intro s t place body taken restarting
  left
  rw [answered, State.answerOrder_taken taken, refused restarting]

/-- An order answered at once and served in CONFIG and RUNNING alone (10.6). -/
theorem of_outsideRestart {act : List Byte → State → Answer}
    (answered : ∀ s, exec c s = .next (s.answerOrder k (outsideRestart act))) : RefusedInRestart c k :=
  of_answered answered fun restarting => outsideRestart_refused restarting act

section
variable {take : Nat → List Byte → State → State}
  (refused : ∀ {t : State}, t.link.partState = .restarting → ∀ place body, take place body t = t.reply place .wrongState .none)
include refused

/-- An order whose taking ends its step. -/
theorem of_taken (order : ∀ {s t : State} {place : Nat} {body : List Byte}, s.takeOrder k = some (place, body, t) →
    exec c s = .next (take place body t)) : RefusedInRestart c k := by
  intro s t place body taken restarting
  left
  rw [order taken, refused restarting]

/-- An order whose taking lets the machine settle down. -/
theorem of_settled (order : ∀ {s t : State} {place : Nat} {body : List Byte}, s.takeOrder k = some (place, body, t) →
    exec c s = .next (take place body t).settleDown) : RefusedInRestart c k := by
  intro s t place body taken restarting
  right
  rw [order taken, refused restarting]

end

/-! ### The orders served in CONFIG and RUNNING that are answered at once (R12, R13, R18, R23, R41, R57) -/

theorem setAdmission : RefusedInRestart .setAdmission .setAdmission := of_outsideRestart fun _ => rfl

theorem queryMessage : RefusedInRestart .queryMessage .queryMessage := of_outsideRestart fun _ => rfl

theorem groupSet : RefusedInRestart .groupSet .groupSet := of_outsideRestart fun _ => rfl

theorem groupRead : RefusedInRestart .groupRead .groupRead := of_outsideRestart fun _ => rfl

theorem setCache : RefusedInRestart .setCache .setCache := of_outsideRestart fun _ => rfl

theorem setTiming : RefusedInRestart .setTiming .setTiming := of_outsideRestart fun _ => rfl

/-! ### The sweeps, and the orders served in one part state alone (R26, R45, R46, R120, R168) -/

theorem initRecords : RefusedInRestart .initRecords .initRecords :=
  of_taken (take := fun place body t => t.takeInitRecords place body)
    (fun restarting => State.takeInitRecords_wrongState (State.not_config_of_restarting restarting)) execInitRecords_taken

theorem flush : RefusedInRestart .flush .flush :=
  of_taken (take := fun place _ t => flushTake place t) (fun restarting place _ => flushTake_restarting restarting place) execFlush_taken

theorem setAddressBase : RefusedInRestart .setAddressBase .setAddressBase :=
  of_answered (fun _ => rfl) fun restarting => inConfig_refused (State.not_config_of_restarting restarting) _

theorem closePeriod : RefusedInRestart .closePeriod .closePeriod :=
  of_answered exec_closePeriod fun restarting => closePeriodAct_refused (State.not_running_of_restarting restarting)

theorem start : RefusedInRestart .start .start :=
  of_answered (fun _ => rfl) fun restarting => startAct_refused (State.startRefusal_restarting restarting)

end RefusedInRestart

open RefusedInRestart in
/-- Settles O15: each order of the set by how it is taken, and RESTART by its first check. -/
theorem ordersRefusedInRestarting : Obligations.OrdersRefusedInRestarting := by
  refine ⟨fun c k listed => ?_, fun s t place body taken restarting => ?_⟩
  · refine (List.forall_iff_forall_mem (p := fun o => RefusedInRestart o.1 o.2)).1 ?_ (c, k) listed
    simp only [List.Forall]
    exact ⟨of_settled State.takeSubmit_restarting execSubmit_taken, of_settled State.takeSubmitGroup_restarting execSubmitGroup_taken,
      of_taken State.takeCancel_restarting execCancel_taken, setAdmission, queryMessage, groupSet, groupRead,
      of_settled State.takeWriteSub_restarting execWriteSub_taken, of_settled State.takeRepairSub_restarting execRepairSub_taken,
      initRecords, flush, setCache, setAddressBase, setTiming, of_outsideRestart exec_setPolicy, of_outsideRestart exec_setReach,
      of_outsideRestart exec_planSet, of_outsideRestart exec_planRead, closePeriod,
      of_settled State.takeTopUp_restarting execTopUp_taken, of_settled State.takeAdjust_restarting execAdjust_taken,
      of_outsideRestart exec_setNotices, of_outsideRestart exec_setZone, of_outsideRestart exec_zoneRestore,
      of_outsideRestart exec_setFaultHandling, of_outsideRestart exec_clearFaults, start⟩
  · rw [exec_restart taken, State.takeRestart_refused (State.restartRefusal_restarting restarting)]
    rfl

end Sys2Proof.Machine
end

section
/-! SUPPORT. One step of the machine (O1). -/

namespace Sys2Proof.Machine

section
variable {s : State}

theorem step_of_pending_cons {c : Instr} {rest : List Instr} (front : s.pending = c :: rest) : step s = exec c (s.withPending rest) := by
  simp only [step, front]

theorem step_of_pending_nil (empty : s.pending = []) : step s = .next s := by
  simp only [step, empty]

end

/-- Settles O1: a step by whether a command waits. -/
theorem stepRunsFrontCommand : Obligations.StepRunsFrontCommand :=
  ⟨fun _ _ _ front => step_of_pending_cons front, fun _ empty => step_of_pending_nil empty⟩

end Sys2Proof.Machine
end
